-- ==== Sys2Proof/Word.lean ====
section
/-! DEFINITION. The two value types every other file shares: a byte on a port, and a level on a line. -/

namespace Sys2Proof

/-- One byte as a port clocks it (spec 11: every byte that crosses a port). -/
abbrev Byte := BitVec 8

/-- The level of a line (spec 00, convention 3; codes LOW 00h, HIGH 01h by R196). -/
inductive Level where
  | low
  | high
  deriving DecidableEq, Repr

end Sys2Proof
end

