-- ==== Sys2Proof/Syntax.lean ====
section
/-! DEFINITION. The commands and events of the OXT-412, one constructor for each row of spec/opcode_table.json.

A COMMAND ROW (IDENTIFY to QUERY_CONDITIONS) stands for one sound command frame that carries this command, ended on the
port by chip select rising (R176, R177). Its operands are the port, the frame's tag, and the fields of the payload as R196, R199
and R200 lay them out, each at its full width, so that every code the tables do not assign can be sent and is judged.
A LINK ROW (COMMAND_WRITE, FETCH, PORT_CLEAR, TRANSACTION_START) carries the bytes themselves, or their number.
An EVENT ROW names one of the part's own events: exec carries it out where it is due and changes nothing where it is not
(notes/assumptions/2.md). -/

namespace Sys2Proof

/-- The four host ports, and the master named after each (spec 00, "Masters, sessions and authority"). -/
inductive Port where
  | a
  | b
  | c
  | d
  deriving DecidableEq, Repr

/-- The four part conditions (spec 09; codes 00h to 03h by R196). -/
inductive Condition where
  | timeInvalid
  | refLost
  | journalWithheld
  | entryLate
  deriving DecidableEq, Repr

/-- The 26-byte entry descriptor of ADD_ENTRY, field by field as the frame carries it (R199). -/
structure Descriptor where
  action     : Byte
  line       : Byte
  pulseLevel : Byte
  width      : BitVec 24
  timing     : Byte
  timeValue  : BitVec 64
  trigLine   : Byte
  trigEdge   : Byte
  rearm      : Byte
  period     : BitVec 32
  count      : BitVec 16
  latePolicy : Byte
  flags      : Byte
  deriving DecidableEq, Repr

/-- One constructor per row of spec/opcode_table.json. -/
inductive Instr where
  -- host ports and sessions (R183 to R191)
  | identify (p : Port) (tag : Byte)
  | openSession (p : Port) (tag : Byte) (mode : Byte) (kinds : BitVec 16) (lines : BitVec 16) (origins : Byte) (start : Byte) (window : BitVec 16)
  | closeSession (p : Port) (tag : Byte)
  | keepalive (p : Port) (tag : Byte)
  | renew (p : Port) (tag : Byte)
  | status (p : Port) (tag : Byte)
  | setAttentionMask (p : Port) (tag : Byte) (mask : Byte)
  -- part time (R10 to R21)
  | getTime (p : Port) (tag : Byte)
  | stepTime (p : Port) (tag : Byte) (offset : BitVec 64) (markValid : Byte)
  | slewTime (p : Port) (tag : Byte) (amount : BitVec 32) (rate : BitVec 16)
  | setTrim (p : Port) (tag : Byte) (trim : BitVec 32)
  | readStrobe (p : Port) (tag : Byte)
  -- event inputs (R35)
  | readInputs (p : Port) (tag : Byte)
  -- the journal and its readers (R53 to R74)
  | postNote (p : Port) (tag : Byte) (note : List Byte)
  | queryJournal (p : Port) (tag : Byte)
  | readJournal (p : Port) (tag : Byte) (n : Byte) (commit : Byte)
  | ackJournal (p : Port) (tag : Byte) (upto : BitVec 64)
  | seekJournal (p : Port) (tag : Byte) (where_ : Byte) (seq : BitVec 64)
  | setFilter (p : Port) (tag : Byte) (kinds : BitVec 16) (lines : BitVec 16) (origins : Byte)
  | setReaderMode (p : Port) (tag : Byte) (mode : Byte)
  | queryReader (p : Port) (tag : Byte)
  -- the schedule (R79, R101, R104, R105)
  | addEntry (p : Port) (tag : Byte) (d : Descriptor)
  | cancelEntry (p : Port) (tag : Byte) (slot : Byte) (generation : Byte)
  | queryEntry (p : Port) (tag : Byte) (slot : Byte) (generation : Byte)
  | listEntries (p : Port) (tag : Byte) (scope : Byte) (fromSlot : Byte)
  -- output lines (R114, R117)
  | setLine (p : Port) (tag : Byte) (line : Byte) (action : Byte) (pulseLevel : Byte) (width : BitVec 24)
  | readOutputs (p : Port) (tag : Byte)
  -- claims and configuration (R122 to R135)
  | claim (p : Port) (tag : Byte) (resource : Byte) (wait : Byte)
  | release (p : Port) (tag : Byte) (resource : Byte)
  | withdraw (p : Port) (tag : Byte) (resource : Byte)
  | queryClaims (p : Port) (tag : Byte)
  | configureRefHz (p : Port) (tag : Byte) (inst : Byte) (value : BitVec 32)
  | configureEnabled (p : Port) (tag : Byte) (inst : Byte) (value : BitVec 32)
  | configureEdgeSelect (p : Port) (tag : Byte) (inst : Byte) (value : BitVec 32)
  | configureFilterLength (p : Port) (tag : Byte) (inst : Byte) (value : BitVec 32)
  | configureChatterBudget (p : Port) (tag : Byte) (inst : Byte) (value : BitVec 32)
  | configureQuota (p : Port) (tag : Byte) (inst : Byte) (value : BitVec 32)
  | configureLateTolerance (p : Port) (tag : Byte) (inst : Byte) (value : BitVec 32)
  | configureRestLevel (p : Port) (tag : Byte) (inst : Byte) (value : BitVec 32)
  | configureSafeLevel (p : Port) (tag : Byte) (inst : Byte) (value : BitVec 32)
  | configureGatedFlag (p : Port) (tag : Byte) (inst : Byte) (value : BitVec 32)
  | configureStartDelay (p : Port) (tag : Byte) (inst : Byte) (value : BitVec 32)
  | configureConditionAction (p : Port) (tag : Byte) (inst : Byte) (value : BitVec 32)
  | readConfig (p : Port) (tag : Byte) (param : BitVec 16)
  -- run permit (R138 to R159)
  | enroll (p : Port) (tag : Byte) (vote : Option Byte)
  | leave (p : Port) (tag : Byte)
  | vote (p : Port) (tag : Byte) (v : Byte)
  | queryPermit (p : Port) (tag : Byte)
  -- conditions (R165, R169)
  | clearCondition (p : Port) (tag : Byte) (condition : Byte)
  | queryConditions (p : Port) (tag : Byte)
  -- the link (R176 to R179)
  | commandWrite (p : Port) (bytes : List Byte)
  | fetch (p : Port) (clocked : Nat)
  | portClear (p : Port)
  -- power and reset (R22, R193, R57)
  | powerOn
  | rstnFall
  | rstnRise
  -- the timebase (R1 to R18)
  | refclkCycle
  | oscillatorCycle
  | tick (levels : BitVec 16)
  | holdoverEntered (levels : BitVec 16)
  | referenceBreak
  | holdoverLeft
  | stepApplication
  | slewDone
  | strobeEdge (p : Port)
  | strobeCapture (p : Port)
  -- event inputs (R26 to R33)
  | lineEnable (n : Fin 16)
  | lineDisable (n : Fin 16)
  | filterChange (n : Fin 16)
  | edgeSelectChange (n : Fin 16)
  | budgetChange (n : Fin 16)
  | edgeQualified (n : Fin 16)
  | chatterWindowEnd (n : Fin 16)
  -- schedule and lines (R82, R85, R115)
  | entryDue (slot : Fin 64)
  | pulseEnd (slot : Fin 64)
  | immediatePulseEnd (line : Fin 8)
  -- permit, conditions, sessions (R148, R143, R164, R189)
  | delayExpired
  | partVoteChange
  | conditionRaise (c : Condition)
  | lapse (p : Port)
  | transactionStart (p : Port) (firstByte : Byte)
  deriving DecidableEq, Repr

end Sys2Proof
end

