-- ==== Sys2Proof/Decode.lean ====
section
/-! DEFINITION. The table's own numbering of words. No row of spec/opcode_table.json gives bits (each row's "fields" is
empty and none has "fixed"), so no word spells a command by the table, whatever its width. How a command is read from the bytes
of a frame is R177, R195 and R196: that decoder stands in Machine/Link.lean. -/

namespace Sys2Proof

/-- The command that a word spells by the bits of spec/opcode_table.json: none, since no row gives bits. -/
def decodeTableWord (_nbits _w : Nat) : Option Instr := none

end Sys2Proof
end

