-- ==== Sys2Proof/Config.lean ====
section
/-! DEFINITION. What the document fixes for the part (spec 00, "Key parameters"), and the one value it leaves open. -/

namespace Sys2Proof.Config

/-- The nominal frequency of the internal oscillator, in hertz (spec 01, section 1.2; F in HOLDOVER by R1). -/
def oscillatorHz : Nat := 20000000

/-- Oscillator cycles without a REFCLK edge at which the reference counts as lost (R4, R6). -/
def lossLimit : Nat := 100

/-- Oscillator cycles of unbroken reference that end HOLDOVER (R6). -/
def exitLimit : Nat := 20000

/-- The greatest part time: part time is an unsigned 64-bit count (spec 01; R12). -/
def maxPartTime : Nat := 2 ^ 64 - 1

/-- Ticks from one millisecond boundary to the next (R2). -/
def boundary : Nat := 1000

/-- Records the journal can hold (R43, R44). -/
def journalCapacity : Nat := 512

/-- Where the withheld count and the missed counts stop (R48, R72). -/
def countLimit : Nat := 4294967295

/-- Where a strobe slot's overwrite count stops (R19). -/
def overwriteLimit : Nat := 255

/-- Ticks of one chatter window (R31). -/
def chatterWindow : Nat := 10000

/-- Commands a port can have outstanding (R177). -/
def outstandingLimit : Nat := 4

/-- Payload bytes a frame can carry (R177, R195). -/
def payloadLimit : Nat := 300

/-- The bytes of a command frame beside its payload: sync, length, tag, command code and CRC (R195). -/
def frameOverhead : Nat := 7

/-- Records one READ_JOURNAL can return (R61). -/
def readLimit : Nat := 8

/-- Summaries one LIST_ENTRIES can return (R105). -/
def listLimit : Nat := 16

/-- FREE VALUE: a part time the document does not state. The n-th use of it is the constant at n. It has no body, so nothing
can be proved of it beyond its 64 bits. It stands for the due time of a DEFERRED entry that a backward step carries below 0
(notes/assumptions/5.md). -/
opaque freeTime : Nat → BitVec 64

end Sys2Proof.Config
end

