-- ==== Sys2Proof/Machine/State.lean ====
section
/-! DEFINITION. Everything the document says the OXT-412 holds, as plain data, and the part right after power-on.
Each type cites the rule or the state table it follows. The fields that are the model's own, and not the document's, say so. -/

namespace Sys2Proof.Machine

/-- What can stop the part with a fault: NOTHING. The document gives every command and every event an effect and names no
machine stop, so this type has no constructor and no step can answer a fault (safe: there is nothing to raise). -/
inductive Fault where
  deriving DecidableEq, Repr

/-- Why a command has no meaning. Only an arm of exec not written yet would raise `notModelled`, with its row's mnemonic
(safe: the model stops where the part goes on). No arm raises it. -/
inductive Refusal where
  | notModelled (mnemonic : String)
  deriving DecidableEq, Repr

/-- One value for each port, or for each master (spec 00: masters are named after their ports). -/
structure PerPort (α : Type) where
  a : α
  b : α
  c : α
  d : α
  deriving DecidableEq, Repr

/-! ### Time (spec 01) -/

/-- Reference state: ticks are made from REFCLK, or from the internal oscillator (spec 01). -/
inductive RefState where
  | locked
  | holdover
  deriving DecidableEq, Repr

/-- Whether part time has been set (R7). -/
inductive Validity where
  | invalid
  | valid
  deriving DecidableEq, Repr

/-- Time quality, carried by each record and each strobe capture (R8). -/
inductive Quality where
  | invalid
  | holdover
  | valid
  deriving DecidableEq, Repr

/-- A request in the pending-step slot (R11). -/
structure PendingStep where
  offset    : Int
  markValid : Bool
  issuer    : Port
  deriving DecidableEq, Repr

/-- The slew in flight (R15, R16). `progress` is counted in ticks and without rounding. -/
structure Slew where
  amount   : Int
  rate     : Nat
  progress : Rat
  issuer   : Port
  deriving DecidableEq, Repr

/-- What a strobe capture records (R18). -/
structure Capture where
  time        : Nat
  quality     : Quality
  stepPending : Bool
  deriving DecidableEq, Repr

/-- One port's strobe slot (R18, R19): EMPTY is `captured = none`, HELD is `some`. -/
structure StrobeSlot where
  captured  : Option Capture
  overwrite : Nat
  armed     : Bool
  deriving DecidableEq, Repr

/-- The timebase (spec 01, the state table; R22). `refSeen` and `stepDue` are the MODEL's own fields: whether a REFCLK edge
has arrived since the last break (R6 counts only then), and whether the latest tick made a millisecond boundary at which
the pending step is still to be applied (R12). -/
structure Timebase where
  partTime  : Nat
  acc       : Rat
  refHz     : Nat
  refState  : RefState
  lossCount : Nat
  exitCount : Nat
  refSeen   : Bool
  validity  : Validity
  trim      : Int
  step      : Option PendingStep
  stepDue   : Bool
  slew      : Option Slew
  strobes   : PerPort StrobeSlot
  deriving DecidableEq, Repr

/-! ### Event inputs (spec 02) -/

/-- A qualified edge (R29). -/
inductive Edge where
  | rise
  | fall
  deriving DecidableEq, Repr

/-- Which edges a line records (R24). -/
inductive EdgeSelect where
  | rise
  | fall
  | both
  deriving DecidableEq, Repr

/-- The four parameters of one event input (R24). -/
structure LineConfig where
  enabled : Bool
  edge    : EdgeSelect
  filter  : Nat
  budget  : Nat
  deriving DecidableEq, Repr

/-- A line's qualification state (R27). -/
inductive Qualification where
  | idle
  | qualifying (candidate : Level) (held : Nat)
  deriving DecidableEq, Repr

/-- One event input (spec 02, the state table). `cfg` is the stored configuration; `inForce` is the value in force at the
previous tick, with which R24 compares it at each tick. -/
structure EventLine where
  cfg      : LineConfig
  inForce  : LineConfig
  raw      : Level
  tracked  : Option Level
  qual     : Qualification
  window   : Nat
  admitted : Nat
  excess   : Nat
  deriving DecidableEq, Repr

/-! ### Records and the journal (spec 03) -/

/-- Who did a thing: a master, or the part itself (R38). -/
inductive Origin where
  | master (p : Port)
  | part
  deriving DecidableEq, Repr

/-- The thirteen record kinds (spec 03, section 3.2). -/
inductive Kind where
  | restart
  | session
  | input
  | chatter
  | entry
  | permit
  | liveness
  | time
  | claim
  | condition
  | config
  | note
  | gap
  deriving DecidableEq, Repr

/-- What reset a RESTART record reports (R55, R57). -/
inductive ResetKind where
  | powerOn
  | resetLine
  deriving DecidableEq, Repr

/-- Why a session was closed (R179, R186). -/
inductive CloseCause where
  | command
  | reset
  deriving DecidableEq, Repr

/-- The five actions of an entry (R78). -/
inductive Action where
  | set
  | clear
  | toggle
  | pulse
  | mark
  deriving DecidableEq, Repr

/-- An entry's name as given to its owner (R75). -/
structure Handle where
  slot       : Fin 64
  generation : Byte
  deriving DecidableEq, Repr

/-- Why an entry was cancelled (R100). -/
inductive CancelCause where
  | owner
  | released
  | closed
  | permitStop
  deriving DecidableEq, Repr

/-- A vote, and the aggregate of votes (R137, R144). -/
inductive Vote where
  | stop
  | hold
  | go
  deriving DecidableEq, Repr

/-- The four permit states (spec 08). -/
inductive PermitState where
  | stopped
  | arming
  | running
  | held
  deriving DecidableEq, Repr

/-- What changed the permit state (R157). -/
inductive PermitCause where
  | vote (p : Port) (v : Vote)
  | partVote
  | delayExpired
  | electorate
  deriving DecidableEq, Repr

/-- A claimable resource (R120). -/
inductive Resource where
  | time
  | config
  | out (n : Fin 8)
  deriving DecidableEq, Repr

/-- Why a claim was granted or released (spec 03, section 3.2; R125). -/
inductive ClaimCause where
  | command
  | fromWait
  | lapse
  | close
  deriving DecidableEq, Repr

/-- The values of a TIME record by subkind (spec 01, section 1.8). -/
inductive TimeBody where
  | stepApplied (oldTime : Nat)
  | stepReplaced (offset : Int) (markValid : Bool)
  | stepRefused (offset : Int)
  | slewStarted (amount : Int) (rate : Nat)
  | slewDone (amount : Int)
  | slewAbandoned (remaining : Int)
  | trimSet (oldTrim newTrim : Int)
  | holdoverEntered
  | holdoverLeft
  | markedValid
  deriving DecidableEq, Repr

/-- The body of a record, by kind (R40; spec 03, section 3.2; laid out by R197). -/
inductive Body where
  | restart (k : ResetKind)
  | sessionOpened
  | sessionClosed (cause : CloseCause)
  | input (line : Fin 16) (level : Level) (edge : Edge)
  | chatter (line : Fin 16) (excess : Nat) (level : Level)
  | entryFired (h : Handle) (action : Action) (line : Option (Fin 8)) (lateBy : Option Nat)
  | entrySkipped (h : Handle) (action : Action) (line : Option (Fin 8))
  | entryCompleted (h : Handle) (action : Action) (line : Option (Fin 8))
  | entryCancelled (h : Handle) (action : Action) (line : Option (Fin 8)) (cause : CancelCause)
  | permit (old new : PermitState) (cause : PermitCause)
  | lapsed
  | renewed
  | time (t : TimeBody)
  | claimGranted (r : Resource) (cause : ClaimCause)
  | claimReleased (r : Resource) (cause : ClaimCause)
  | conditionRaised (c : Condition)
  | conditionCleared (c : Condition)
  | config (param : BitVec 16) (old new : Nat)
  | note (bytes : List Byte)
  | gap (count : Nat)
  deriving DecidableEq, Repr

/-- A journal record (R38). Its kind is the kind of its body. -/
structure Record where
  seq     : Nat
  time    : Nat
  quality : Quality
  origin  : Origin
  body    : Body
  deriving DecidableEq, Repr

/-- ACCEPTING or WITHHOLDING (spec 03). -/
inductive JournalState where
  | accepting
  | withholding
  deriving DecidableEq, Repr

/-- The journal (spec 03, the state table). The store is oldest first. -/
structure Journal where
  store    : List Record
  counter  : Nat
  state    : JournalState
  withheld : Nat
  deriving DecidableEq, Repr

/-- Reader modes (R60). -/
inductive ReaderMode where
  | retaining
  | lossy
  deriving DecidableEq, Repr

/-- A reader's filter, each set one bit per member as R196 numbers them (R59). -/
structure Filter where
  kinds   : BitVec 16
  lines   : BitVec 16
  origins : Byte
  deriving DecidableEq, Repr

/-- A session's reader (spec 04, the state table). -/
structure Reader where
  mode     : ReaderMode
  filter   : Filter
  cursor   : Nat
  readMark : Nat
  missed   : Nat
  deriving DecidableEq, Repr

/-! ### The schedule (spec 05) -/

/-- Anchor of a due time (spec 05). -/
inductive Anchor where
  | absolute
  | relative
  deriving DecidableEq, Repr

/-- The edge a trigger waits for (R78). -/
inductive TriggerEdge where
  | rise
  | fall
  | either
  deriving DecidableEq, Repr

/-- An entry's trigger (R78). -/
structure Trigger where
  line   : Fin 16
  edge   : TriggerEdge
  offset : Nat
  deriving DecidableEq, Repr

/-- What happens to a late occurrence (R90). -/
inductive LatePolicy where
  | fireLate
  | skip
  deriving DecidableEq, Repr

/-- The four states of an entry (spec 05). -/
inductive EntryState where
  | awaitingTrigger
  | pending
  | deferred
  | pulsing
  deriving DecidableEq, Repr

/-- A running pulse of an entry (R85). -/
structure RunningPulse where
  left     : Nat
  trailing : Level
  deriving DecidableEq, Repr

/-- One entry (spec 05, the field table). Its slot and generation are those of the slot that holds it. `pulseLevel` and
`width` mean something for PULSE only. `descriptor` is the descriptor as admitted, which QUERY_ENTRY returns (R104). -/
structure Entry where
  owner       : Port
  admission   : Nat
  descriptor  : Descriptor
  action      : Action
  line        : Option (Fin 8)
  pulseLevel  : Level
  width       : Nat
  anchor      : Anchor
  due         : Option Nat
  trigger     : Option Trigger
  rearm       : Bool
  period      : Option Nat
  initial     : Option Nat
  remaining   : Option Nat
  late        : LatePolicy
  journalFlag : Bool
  notifyFlag  : Bool
  state       : EntryState
  running     : Option RunningPulse
  deriving DecidableEq, Repr

/-- One of the 64 slots: its generation, free or occupied, and its entry (R75). -/
structure Slot where
  generation : Byte
  entry      : Option Entry
  deriving DecidableEq, Repr

/-- The schedule (spec 05). -/
structure Schedule where
  slots     : Vector Slot 64
  admission : Nat
  quotas    : PerPort Nat
  tolerance : Nat
  deriving DecidableEq, Repr

/-! ### Output lines, claims, permit, conditions (spec 06 to 09) -/

/-- An immediate pulse (R114, R115). -/
structure ImmediatePulse where
  level    : Level
  left     : Nat
  trailing : Level
  deriving DecidableEq, Repr

/-- One output line (spec 06, the state table). `driven` is the level on the pin. -/
structure OutLine where
  commanded : Level
  driven    : Level
  rest      : Level
  safe      : Level
  gated     : Bool
  pulse     : Option ImmediatePulse
  deriving DecidableEq, Repr

/-- One claim record (R120): the holder, and the wait list oldest first. -/
structure ClaimRecord where
  holder  : Option Port
  waiters : List Port
  deriving DecidableEq, Repr

/-- One elector record (R137). -/
structure Elector where
  vote   : Vote
  forced : Bool
  deriving DecidableEq, Repr

/-- The permit unit (spec 08, the state table), with the start delay kept beside it (R149) and the two permit pins (R156). -/
structure Permit where
  electors   : PerPort (Option Elector)
  partVote   : Vote
  aggregate  : Vote
  state      : PermitState
  timer      : Option Nat
  lastChange : Option (Nat × PermitCause)
  startDelay : Nat
  prun       : Level
  phold      : Level
  deriving DecidableEq, Repr

/-- A condition's action (R167). -/
inductive ConditionAction where
  | note
  | stop
  deriving DecidableEq, Repr

/-- One part condition (spec 09, the state table): latched is `firstLatched.isSome`. `active` is kept for the two level
conditions and stays clear for the two event conditions (R163). -/
structure ConditionRecord where
  active       : Bool
  firstLatched : Option Nat
  action       : ConditionAction
  deriving DecidableEq, Repr

/-- The four conditions, and the part vote the unit last formed (spec 09). `raises` is the MODEL's own field: the raises
handed to the unit and not taken yet, in the order handed (R163). -/
structure Conditions where
  timeInvalid     : ConditionRecord
  refLost         : ConditionRecord
  journalWithheld : ConditionRecord
  entryLate       : ConditionRecord
  partVote        : Vote
  raises          : List Condition
  deriving DecidableEq, Repr

/-! ### Ports and sessions (spec 10) -/

/-- The statuses of a response (R180). -/
inductive Status where
  | ok
  | pending
  | queued
  | heldBy
  | empty
  | withheld
  | none
  | unknown
  | badLength
  | noSession
  | lapsed
  | sessionOpen
  | notHolder
  | wrongState
  | badArg
  | quota
  | tableFull
  | staleHandle
  deriving DecidableEq, Repr

/-- A response in a port's queue: the frame's tag, status and payload. Its sync, length, link flags and CRC are formed when
a fetch begins (R178, R195). -/
structure Response where
  tag     : Byte
  status  : Status
  payload : List Byte
  deriving DecidableEq, Repr

/-- What a port is doing (R176). -/
inductive Transaction where
  | idle
  | commandWrite
  | fetch
  | portClear
  deriving DecidableEq, Repr

/-- Liveness of a session (R182). -/
inductive Liveness where
  | live
  | lapsed
  deriving DecidableEq, Repr

/-- An open session (spec 10), with its reader (spec 04) and its attention (spec 09). `notices` holds the five latched
members of the pending set in the bits of R196; the JOURNAL member is the reader's level and is not stored (R170). -/
structure Session where
  liveness : Liveness
  window   : Nat
  deadline : Option Nat
  reader   : Reader
  notices  : Byte
  mask     : Byte
  deriving DecidableEq, Repr

/-- One port (spec 10, the state table), with its ATN line (spec 09). Two fields are the MODEL's own. `discarded` is the kind of a transaction
that a reset discarded, or that was begun while RSTn was LOW, whose chip select has not risen yet; IDLE where there is none (R176, R193;
notes/assumptions/7.md). `shifted` holds every byte the port shifted out in its latest transaction, first to last (R176, R178;
notes/assumptions/14.md). -/
structure PortState where
  transaction : Transaction
  discarded   : Transaction
  queue       : List Response
  crcDropped  : Bool
  overrun     : Bool
  session     : Option Session
  atn         : Level
  shifted     : List Byte
  deriving DecidableEq, Repr

/-! ### The part -/

/-- The events of one tick that the part carries out as steps of their own, in the table's names (spec 95). -/
inductive TickEvent where
  | strobeCapture (p : Port)
  | lineEnable (n : Fin 16)
  | lineDisable (n : Fin 16)
  | filterChange (n : Fin 16)
  | edgeSelectChange (n : Fin 16)
  | budgetChange (n : Fin 16)
  | edgeQualified (n : Fin 16)
  | chatterWindowEnd (n : Fin 16)
  | entryDue (slot : Fin 64)
  | pulseEnd (slot : Fin 64)
  | immediatePulseEnd (line : Fin 8)
  | delayExpired
  | lapse (p : Port)
  deriving DecidableEq, Repr

/-- Which of the pulse ends and firings of the latest tick were carried out last, while some of them are still listed: none, immediate
pulse ends, or the schedule's. R109 forms the drives once after them all, and R163 takes no raise between the schedule's. -/
inductive TickStage where
  | apart
  | pulses
  | schedule
  deriving DecidableEq, Repr

/-- The whole part. The MODEL's own fields are `evPins` (the levels last seen at EV0 to EV15, an input), `tickWork` (the events
of the latest tick still to be carried out), `tickStage` (which of that tick's pulse ends and firings have begun; notes/assumptions/3.md),
`freeUses` (how many free values have been used) and `pending` (the commands waiting, first in, first out). -/
structure State where
  time          : Timebase
  evPins        : BitVec 16
  lines         : Vector EventLine 16
  journal       : Journal
  schedule      : Schedule
  outs          : Vector OutLine 8
  claims        : Vector ClaimRecord 10
  permit        : Permit
  conditions    : Conditions
  ports         : PerPort PortState
  rstn          : Level
  tickWork      : List TickEvent
  tickStage     : TickStage
  freeUses      : Nat
  pending       : List Instr
  deriving DecidableEq, Repr

/-! ### The part right after power-on -/

/-- A strobe slot after power-on and RSTn (R20, R22). -/
def StrobeSlot.initial : StrobeSlot := { captured := none, overwrite := 0, armed := false }

/-- The configuration of an event input after power-on and RSTn (R24). -/
def LineConfig.initial : LineConfig := { enabled := false, edge := .rise, filter := 0, budget := 0 }

/-- An event input after power-on (R36). DESIGN CHOICE (notes/assumptions/6.md): the raw level is LOW until the first
tick samples it. -/
def EventLine.initial : EventLine :=
  { cfg := LineConfig.initial, inForce := LineConfig.initial, raw := .low, tracked := none, qual := .idle, window := 0, admitted := 0, excess := 0 }

/-- An output line after power-on and RSTn (R113, R118, R119). -/
def OutLine.initial : OutLine :=
  { commanded := .low, driven := .low, rest := .low, safe := .low, gated := false, pulse := none }

/-- The permit unit after power-on and RSTn (R160, R161). -/
def Permit.initial : Permit :=
  { electors := ⟨none, none, none, none⟩, partVote := .go, aggregate := .stop, state := .stopped, timer := none, lastChange := none,
    startDelay := 500, prun := .low, phold := .low }

/-- A port after power-on and RSTn (R175, R193). -/
def PortState.initial : PortState :=
  { transaction := .idle, discarded := .idle, queue := [], crcDropped := false, overrun := false, session := none, atn := .high, shifted := [] }

/-- The timebase after power-on (R22). -/
def Timebase.initial : Timebase :=
  { partTime := 0, acc := 0, refHz := 10000000, refState := .holdover, lossCount := 0, exitCount := 0, refSeen := false,
    validity := .invalid, trim := 0, step := none, stepDue := false, slew := none,
    strobes := ⟨StrobeSlot.initial, StrobeSlot.initial, StrobeSlot.initial, StrobeSlot.initial⟩ }

/-- The schedule after power-on (R106). -/
def Schedule.initial : Schedule :=
  { slots := Vector.replicate 64 { generation := 0#8, entry := none }, admission := 0, quotas := ⟨16, 16, 16, 16⟩, tolerance := 100 }

/-- The record the part stores on its own account at part time 0 right after power-on (R55, R174): quality INVALID, origin PART. -/
def powerOnRecord (seq : Nat) (body : Body) : Record :=
  { seq := seq, time := 0, quality := .invalid, origin := .part, body := body }

/-- The part as power-on ends (R22, R36, R55, R106, R118, R136, R160, R174, R175, R193): the journal holds RESTART(POWER_ON) and
the two CONDITION RAISED records, both level conditions are active and latched, and nothing waits. -/
def State.reset : State :=
  { time := Timebase.initial
    evPins := 0#16
    lines := Vector.replicate 16 EventLine.initial
    journal :=
      { store := [powerOnRecord 0 (.restart .powerOn), powerOnRecord 1 (.conditionRaised .timeInvalid), powerOnRecord 2 (.conditionRaised .refLost)]
        counter := 3, state := .accepting, withheld := 0 }
    schedule := Schedule.initial
    outs := Vector.replicate 8 OutLine.initial
    claims := Vector.replicate 10 { holder := none, waiters := [] }
    permit := Permit.initial
    conditions :=
      { timeInvalid := { active := true, firstLatched := some 0, action := .note }
        refLost := { active := true, firstLatched := some 0, action := .note }
        journalWithheld := { active := false, firstLatched := none, action := .note }
        entryLate := { active := false, firstLatched := none, action := .note }
        partVote := .go, raises := [] }
    ports := ⟨PortState.initial, PortState.initial, PortState.initial, PortState.initial⟩
    rstn := .high
    tickWork := []
    tickStage := .apart
    freeUses := 0
    pending := [] }

end Sys2Proof.Machine
end

