-- ==== Sys2Proof/WellFormed.lean ====
section
/-! DEFINITION. Which terms of Instr are commands the part's protocol can carry. Every field has its width in its type; two rows
carry byte lists, and only they can be ill-formed. exec is total and does not rest on this check: an ill-formed term is
still judged byte by byte, as R176 and R181 say. -/

namespace Sys2Proof

/-- The command sync byte, which opens a command write (R195). -/
def syncByte : Byte := 0xA5#8

/-- The fetch byte (R195). -/
def fetchByte : Byte := 0x3C#8

/-- The clear byte; a port clear is this byte four times (R179, R195). -/
def clearByte : Byte := 0xC3#8

/-- The whole of a port clear (R179). -/
def clearFrame : List Byte := [clearByte, clearByte, clearByte, clearByte]

/-- The bytes of a transaction that is taken as a command write: it has a first byte, that byte is not the fetch byte, and the
whole is not a port clear (R176, R179). -/
def opensCommandWrite (bytes : List Byte) : Bool :=
  match bytes with
  | [] => false
  | b :: _ => b != fetchByte && bytes != clearFrame

/-- POST_NOTE carries 1 to 16 bytes (R53, R196), COMMAND_WRITE the bytes of a command write (R176); the other rows' fields are
of fixed width. -/
def Instr.wellFormed (i : Instr) : Bool :=
  match i with
  | .postNote _ _ note => decide (1 ≤ note.length) && decide (note.length ≤ 16)
  | .commandWrite _ bytes => opensCommandWrite bytes
  | _ => true

end Sys2Proof
end

