-- ==== Sys2Proof/Machine/Operands.lean ====
section
/-! DEFINITION. Operand forms: the codes of R196, read and written; the byte orders of spec 11; the entry descriptor judged by R78
and R199; the layout of a record (R197). Every `ofCode?` answers none for a code the tables do not assign. -/

namespace Sys2Proof.Machine

/-! ### Bytes, most significant first (spec 11) -/

/-- The n-byte encoding of a number, most significant byte first. -/
def be : Nat → Nat → List Byte
  | 0, _ => []
  | n + 1, x => BitVec.ofNat 8 (x / 256 ^ n) :: be n x

/-- The n-byte two's complement encoding of a signed number. -/
def beInt (n : Nat) (x : Int) : List Byte := be n (x % (256 ^ n : Nat)).toNat

/-- The number that bytes spell, most significant byte first. -/
def ofBytes (bs : List Byte) : Nat := bs.foldl (fun acc b => acc * 256 + b.toNat) 0

/-- One code byte. -/
def code (n : Nat) : List Byte := [BitVec.ofNat 8 n]

/-- An optional field of R201: a presence byte, then the field, or as many zero bytes. -/
def optField (width : Nat) (x : Option (List Byte)) : List Byte :=
  match x with
  | some bs => 1#8 :: bs
  | none => 0#8 :: List.replicate width 0#8

/-- A flag byte: clear 00h, set 01h (R196). -/
def flagByte (b : Bool) : Byte := if b then 1#8 else 0#8

/-- Reads a flag byte (R196). -/
def flagOf? (b : Byte) : Option Bool :=
  if b = 0#8 then some false else if b = 1#8 then some true else none

/-- The absence marker of a one-byte code field (R196). -/
def absentByte : Byte := 0xFF#8

/-- The index a number names among n, if it names one. -/
def finOf? (n : Nat) (x : Nat) : Option (Fin n) := if h : x < n then some ⟨x, h⟩ else none

/-! ### Codes of R196 -/

/-- All four ports in order. -/
def allPorts : List Port := [.a, .b, .c, .d]

def portCode : Port → Nat
  | .a => 0
  | .b => 1
  | .c => 2
  | .d => 3

def originCode : Origin → Nat
  | .master p => portCode p
  | .part => 4

def kindCode : Kind → Nat
  | .restart => 1
  | .session => 2
  | .input => 3
  | .chatter => 4
  | .entry => 5
  | .permit => 6
  | .liveness => 7
  | .time => 8
  | .claim => 9
  | .condition => 10
  | .config => 11
  | .note => 12
  | .gap => 13

def qualityCode : Quality → Nat
  | .invalid => 0
  | .holdover => 1
  | .valid => 2

def levelCode : Level → Nat
  | .low => 0
  | .high => 1

def levelOf? (b : Byte) : Option Level :=
  if b = 0#8 then some .low else if b = 1#8 then some .high else none

def edgeCode : Edge → Nat
  | .rise => 0
  | .fall => 1

def edgeSelectCode : EdgeSelect → Nat
  | .rise => 0
  | .fall => 1
  | .both => 2

def edgeSelectOf? (x : Nat) : Option EdgeSelect :=
  if x = 0 then some .rise else if x = 1 then some .fall else if x = 2 then some .both else none

def triggerEdgeOf? (b : Byte) : Option TriggerEdge :=
  if b = 0#8 then some .rise else if b = 1#8 then some .fall else if b = 2#8 then some .either else none

def resourceCode : Resource → Nat
  | .time => 0
  | .config => 1
  | .out n => 16 + n.val

def resourceOf? (b : Byte) : Option Resource :=
  if b = 0#8 then some .time
  else if b = 1#8 then some .config
  else if 16 ≤ b.toNat then (finOf? 8 (b.toNat - 16)).map .out
  else none

/-- The ten resources in the order TIME, CONFIG, OUT0 to OUT7 (R129 to R131). -/
def allResources : List Resource := .time :: .config :: (List.finRange 8).map .out

def readerModeCode : ReaderMode → Nat
  | .retaining => 0
  | .lossy => 1

def readerModeOf? (b : Byte) : Option ReaderMode :=
  if b = 0#8 then some .retaining else if b = 1#8 then some .lossy else none

def voteCode : Vote → Nat
  | .stop => 0
  | .hold => 1
  | .go => 2

def voteOf? (b : Byte) : Option Vote :=
  if b = 0#8 then some .stop else if b = 1#8 then some .hold else if b = 2#8 then some .go else none

def permitStateCode : PermitState → Nat
  | .stopped => 0
  | .arming => 1
  | .running => 2
  | .held => 3

def conditionCode : Condition → Nat
  | .timeInvalid => 0
  | .refLost => 1
  | .journalWithheld => 2
  | .entryLate => 3

def conditionOf? (x : Nat) : Option Condition :=
  if x = 0 then some .timeInvalid
  else if x = 1 then some .refLost
  else if x = 2 then some .journalWithheld
  else if x = 3 then some .entryLate
  else none

/-- The four conditions in code order (R169). -/
def allConditions : List Condition := [.timeInvalid, .refLost, .journalWithheld, .entryLate]

def conditionActionCode : ConditionAction → Nat
  | .note => 0
  | .stop => 1

def conditionActionOf? (x : Nat) : Option ConditionAction :=
  if x = 0 then some .note else if x = 1 then some .stop else none

def actionCode : Action → Nat
  | .set => 0
  | .clear => 1
  | .toggle => 2
  | .pulse => 3
  | .mark => 4

def actionOf? (b : Byte) : Option Action :=
  if b = 0#8 then some .set
  else if b = 1#8 then some .clear
  else if b = 2#8 then some .toggle
  else if b = 3#8 then some .pulse
  else if b = 4#8 then some .mark
  else none

def entryStateCode : EntryState → Nat
  | .awaitingTrigger => 0
  | .pending => 1
  | .deferred => 2
  | .pulsing => 3

/-- COMPLETED, in the ADD_ENTRY response only (R196). -/
def completedCode : Nat := 4

def anchorCode : Anchor → Nat
  | .absolute => 0
  | .relative => 1

def latePolicyOf? (b : Byte) : Option LatePolicy :=
  if b = 0#8 then some .fireLate else if b = 1#8 then some .skip else none

def validityCode : Validity → Nat
  | .invalid => 0
  | .valid => 1

def refStateCode : RefState → Nat
  | .locked => 0
  | .holdover => 1

def journalStateCode : JournalState → Nat
  | .accepting => 0
  | .withholding => 1

def livenessCode : Liveness → Nat
  | .live => 0
  | .lapsed => 1

def cancelCauseCode : CancelCause → Nat
  | .owner => 0
  | .released => 1
  | .closed => 2
  | .permitStop => 3

def claimCauseCode : ClaimCause → Nat
  | .command => 0
  | .fromWait => 1
  | .lapse => 2
  | .close => 3

/-- The cause of a permit change: code, master and vote (R197). -/
def permitCauseBytes : PermitCause → List Byte
  | .vote p v => code 0 ++ code (portCode p) ++ code (voteCode v)
  | .partVote => code 1 ++ [absentByte, absentByte]
  | .delayExpired => code 2 ++ [absentByte, absentByte]
  | .electorate => code 3 ++ [absentByte, absentByte]

/-- The status codes of R196. -/
def statusCode : Status → Nat
  | .ok => 0x00
  | .pending => 0x01
  | .queued => 0x02
  | .heldBy => 0x03
  | .empty => 0x04
  | .withheld => 0x05
  | .none => 0x06
  | .unknown => 0x80
  | .badLength => 0x81
  | .noSession => 0x82
  | .lapsed => 0x83
  | .sessionOpen => 0x84
  | .notHolder => 0x85
  | .wrongState => 0x86
  | .badArg => 0x87
  | .quota => 0x88
  | .tableFull => 0x89
  | .staleHandle => 0x8A

/-- A status with bit 7 set is a refusal (R196). -/
def Status.isRefusal (s : Status) : Bool := decide (0x80 ≤ statusCode s)

/-- A line field: its number, or FFh when absent. -/
def lineByte {n : Nat} (l : Option (Fin n)) : Byte :=
  match l with
  | some k => BitVec.ofNat 8 k.val
  | none => absentByte

/-! ### Sets of R196 -/

/-- Whether a filter names only kinds, lines and origins the part has: kind set bits 0, 14 and 15 and origin set bits 5 to 7
are reserved (R58, R67, R196). Every line set is in range. -/
def Filter.inRange (f : Filter) : Bool := (f.kinds &&& 0xC001#16) == 0#16 && (f.origins &&& 0xE0#8) == 0#8

/-- An attention mask names the six members only: bits 6 and 7 are reserved (R171, R196). -/
def maskInRange (m : Byte) : Bool := (m &&& 0xC0#8) == 0#8

/-! ### The kind of a body, and the layout of a record (R197) -/

def Body.kind : Body → Kind
  | .restart _ => .restart
  | .sessionOpened => .session
  | .sessionClosed _ => .session
  | .input .. => .input
  | .chatter .. => .chatter
  | .entryFired .. => .entry
  | .entrySkipped .. => .entry
  | .entryCompleted .. => .entry
  | .entryCancelled .. => .entry
  | .permit .. => .permit
  | .lapsed => .liveness
  | .renewed => .liveness
  | .time _ => .time
  | .claimGranted .. => .claim
  | .claimReleased .. => .claim
  | .conditionRaised _ => .condition
  | .conditionCleared _ => .condition
  | .config .. => .config
  | .note _ => .note
  | .gap _ => .gap

/-- The line in the body of an INPUT or a CHATTER record; the other kinds have none that a filter reads (R59). -/
def Body.filterLine? : Body → Option (Fin 16)
  | .input l _ _ => some l
  | .chatter l _ _ => some l
  | _ => none

def handleBytes (h : Handle) : List Byte := [BitVec.ofNat 8 h.slot.val, h.generation]

def timeBodyBytes : TimeBody → List Byte
  | .stepApplied t => code 1 ++ be 8 t
  | .stepReplaced o m => code 2 ++ beInt 8 o ++ [flagByte m]
  | .stepRefused o => code 3 ++ beInt 8 o
  | .slewStarted a r => code 4 ++ beInt 4 a ++ be 2 r
  | .slewDone a => code 5 ++ beInt 4 a
  | .slewAbandoned r => code 6 ++ beInt 4 r
  | .trimSet o n => code 7 ++ beInt 4 o ++ beInt 4 n
  | .holdoverEntered => code 8
  | .holdoverLeft => code 9
  | .markedValid => code 10

/-- The body of a record as R197 lays it out. -/
def bodyBytes : Body → List Byte
  | .restart .powerOn => code 0
  | .restart .resetLine => code 1
  | .sessionOpened => code 0 ++ [absentByte]
  | .sessionClosed .command => code 1 ++ code 0
  | .sessionClosed .reset => code 1 ++ code 1
  | .input l v e => code l.val ++ code (levelCode v) ++ code (edgeCode e)
  | .chatter l n v => code l.val ++ be 2 n ++ code (levelCode v)
  | .entryFired h a l late =>
      handleBytes h ++ code (actionCode a) ++ [lineByte l] ++ code 0 ++ optField 8 (late.map (be 8))
  | .entrySkipped h a l => handleBytes h ++ code (actionCode a) ++ [lineByte l] ++ code 1
  | .entryCompleted h a l => handleBytes h ++ code (actionCode a) ++ [lineByte l] ++ code 2
  | .entryCancelled h a l c => handleBytes h ++ code (actionCode a) ++ [lineByte l] ++ code 3 ++ code (cancelCauseCode c)
  | .permit o n c => code (permitStateCode o) ++ code (permitStateCode n) ++ permitCauseBytes c
  | .lapsed => code 0
  | .renewed => code 1
  | .time t => timeBodyBytes t
  | .claimGranted r c => code (resourceCode r) ++ code 0 ++ code (claimCauseCode c)
  | .claimReleased r c => code (resourceCode r) ++ code 1 ++ code (claimCauseCode c)
  | .conditionRaised c => code (conditionCode c) ++ code 0
  | .conditionCleared c => code (conditionCode c) ++ code 1
  | .config p o n => be 2 p.toNat ++ be 4 o ++ be 4 n
  | .note bs => bs
  | .gap n => be 4 n

/-- A record as READ_JOURNAL returns it: a 20-byte header, then the body (R197). -/
def recordBytes (r : Record) : List Byte :=
  be 8 r.seq ++ be 8 r.time ++ code (kindCode r.body.kind) ++ code (originCode r.origin) ++ code (qualityCode r.quality)
    ++ code (bodyBytes r.body).length ++ bodyBytes r.body

/-! ### The entry descriptor (R78, R199) -/

/-- The 26 bytes of a descriptor (R199). -/
def descriptorBytes (d : Descriptor) : List Byte :=
  [d.action, d.line, d.pulseLevel] ++ be 3 d.width.toNat ++ [d.timing] ++ be 8 d.timeValue.toNat ++ [d.trigLine, d.trigEdge, d.rearm]
    ++ be 4 d.period.toNat ++ be 2 d.count.toNat ++ [d.latePolicy, d.flags]

/-- The timing of an entry's first occurrence: one of three forms (R78). -/
inductive Timing where
  | absolute (due : Nat)
  | relative (delay : Nat)
  | trigger (t : Trigger)
  deriving DecidableEq, Repr

/-- A descriptor in range under R78. -/
structure EntrySpec where
  action      : Action
  line        : Option (Fin 8)
  pulseLevel  : Level
  width       : Nat
  timing      : Timing
  rearm       : Bool
  period      : Option Nat
  count       : Option Nat
  late        : LatePolicy
  journalFlag : Bool
  notifyFlag  : Bool
  deriving DecidableEq, Repr

/-- The line field: a line action names OUT0 to OUT7, and MARK carries FFh (R78, R199). -/
def specLine? (a : Action) (b : Byte) : Option (Option (Fin 8)) :=
  match a with
  | .mark => if b = absentByte then some none else none
  | _ => (finOf? 8 b.toNat).map some

/-- Pulse level and width: PULSE carries both, the other actions carry the absence markers FFh and 0 (R78, R114, R199). A level
is answered for the others too, so that the entry has one; nothing reads it. -/
def specPulse? (isPulse : Bool) (level : Byte) (width : BitVec 24) : Option (Level × Nat) :=
  if isPulse then
    match levelOf? level with
    | some l => if 1 ≤ width.toNat then some (l, width.toNat) else none
    | none => none
  else if level = absentByte ∧ width = 0#24 then some (.low, 0) else none

/-- The greatest delay and offset (R78, R199). -/
def maxDelay : Nat := 4294967295

/-- Timing with its trigger fields and rearm flag: exactly one of the three forms, and rearm only with a trigger (R78, R199). -/
def specTiming? (d : Descriptor) : Option (Timing × Bool) :=
  if d.timing = 2#8 then
    match finOf? 16 d.trigLine.toNat, triggerEdgeOf? d.trigEdge, flagOf? d.rearm with
    | some l, some e, some r =>
        if d.timeValue.toNat ≤ maxDelay then some (.trigger { line := l, edge := e, offset := d.timeValue.toNat }, r) else none
    | _, _, _ => none
  else if d.trigLine = absentByte ∧ d.trigEdge = absentByte ∧ d.rearm = 0#8 then
    if d.timing = 0#8 then some (.absolute d.timeValue.toNat, false)
    else if d.timing = 1#8 ∧ d.timeValue.toNat ≤ maxDelay then some (.relative d.timeValue.toNat, false)
    else none
  else none

/-- Period and count: a period is at least 10, a count comes with a period, 0 marks absence (R78, R196, R199). -/
def specRepeat? (d : Descriptor) : Option (Option Nat × Option Nat) :=
  if d.period = 0#32 then
    if d.count = 0#16 then some (none, none) else none
  else if d.period.toNat < 10 then none
  else some (some d.period.toNat, if d.count = 0#16 then none else some d.count.toNat)

/-- A PULSE with a period has a width less than the period, compared as numbers (R78, R199). -/
def widthFits (a : Action) (width : Nat) (period : Option Nat) : Bool :=
  match a, period with
  | .pulse, some p => decide (width < p)
  | _, _ => true

/-- A descriptor read under R78, R196 and R199; none where it is out of range. -/
def descriptorSpec? (d : Descriptor) : Option EntrySpec := do
  let action ← actionOf? d.action
  let line ← specLine? action d.line
  let pulse ← specPulse? (action == .pulse) d.pulseLevel d.width
  let timing ← specTiming? d
  let rep ← specRepeat? d
  let late ← latePolicyOf? d.latePolicy
  if widthFits action pulse.2 rep.1 && (d.flags &&& 0xFC#8) == 0#8 then
    some
      { action := action, line := line, pulseLevel := pulse.1, width := pulse.2, timing := timing.1, rearm := timing.2,
        period := rep.1, count := rep.2, late := late, journalFlag := d.flags.getLsbD 0, notifyFlag := d.flags.getLsbD 1 }
  else none

/-- The line on which a descriptor's checks 1 and 2 are made: a line action whose line lies within OUT0 to OUT7 (R79). -/
def descriptorClaimLine? (d : Descriptor) : Option (Fin 8) :=
  match actionOf? d.action with
  | none => none
  | some .mark => none
  | some _ => finOf? 8 d.line.toNat

end Sys2Proof.Machine
end

