-- ==== Sys2Proof/Machine/Flags.lean ====
section
/-! DEFINITION. The levels and flags the part forms from its state, each by the rule that gives it: time quality, matching and
pinning, the JOURNAL level, the pending set and the ATN lines, the drive of an output line, the aggregate and the part vote;
and the accessors through which all of State is read and written. -/

namespace Sys2Proof.Machine

/-! ### Access to the parts of State -/

def PerPort.get {α : Type} (x : PerPort α) : Port → α
  | .a => x.a
  | .b => x.b
  | .c => x.c
  | .d => x.d

def PerPort.set {α : Type} (x : PerPort α) (p : Port) (v : α) : PerPort α :=
  match p with
  | .a => { x with a := v }
  | .b => { x with b := v }
  | .c => { x with c := v }
  | .d => { x with d := v }

def PerPort.map {α β : Type} (f : α → β) (x : PerPort α) : PerPort β := ⟨f x.a, f x.b, f x.c, f x.d⟩

/-- `map` with the port named to the function. -/
def PerPort.mapIdx {α β : Type} (f : Port → α → β) (x : PerPort α) : PerPort β := ⟨f .a x.a, f .b x.b, f .c x.c, f .d x.d⟩

def State.port (s : State) (p : Port) : PortState := s.ports.get p

def State.setPort (s : State) (p : Port) (x : PortState) : State := { s with ports := s.ports.set p x }

def State.session (s : State) (p : Port) : Option Session := (s.port p).session

/-- Replaces the session of a port; nothing else of the port changes. -/
def State.setSession (s : State) (p : Port) (x : Option Session) : State := s.setPort p { s.port p with session := x }

/-- Applies a change to the session open on a port, if one is open. -/
def State.modSession (s : State) (p : Port) (f : Session → Session) : State := s.setSession p ((s.session p).map f)

def State.line (s : State) (n : Fin 16) : EventLine := s.lines[n]

def State.setEventLine (s : State) (n : Fin 16) (l : EventLine) : State := { s with lines := s.lines.set n l }

def State.out (s : State) (k : Fin 8) : OutLine := s.outs[k]

def State.setOut (s : State) (k : Fin 8) (o : OutLine) : State := { s with outs := s.outs.set k o }

/-- A resource's place among the ten claim records. -/
def resourceIndex : Resource → Fin 10
  | .time => 0
  | .config => 1
  | .out n => ⟨n.val + 2, by omega⟩

def State.claimOf (s : State) (r : Resource) : ClaimRecord := s.claims[resourceIndex r]

def State.setClaim (s : State) (r : Resource) (c : ClaimRecord) : State := { s with claims := s.claims.set (resourceIndex r) c }

/-- Whether a master holds a resource at this moment (R121). -/
def State.holds (s : State) (p : Port) (r : Resource) : Bool := (s.claimOf r).holder == some p

def State.entry (s : State) (i : Fin 64) : Option Entry := (s.schedule.slots[i]).entry

/-- Writes an entry into its slot; the generation stays. -/
def State.putEntry (s : State) (i : Fin 64) (e : Option Entry) : State :=
  { s with schedule := { s.schedule with slots := s.schedule.slots.set i { s.schedule.slots[i] with entry := e } } }

/-- The handle that names the entry a slot holds (R75). -/
def State.handle (s : State) (i : Fin 64) : Handle := { slot := i, generation := (s.schedule.slots[i]).generation }

def Conditions.get (c : Conditions) : Condition → ConditionRecord
  | .timeInvalid => c.timeInvalid
  | .refLost => c.refLost
  | .journalWithheld => c.journalWithheld
  | .entryLate => c.entryLate

def Conditions.set (c : Conditions) (k : Condition) (r : ConditionRecord) : Conditions :=
  match k with
  | .timeInvalid => { c with timeInvalid := r }
  | .refLost => { c with refLost := r }
  | .journalWithheld => { c with journalWithheld := r }
  | .entryLate => { c with entryLate := r }

def State.condition (s : State) (k : Condition) : ConditionRecord := s.conditions.get k

def State.setCondition (s : State) (k : Condition) (r : ConditionRecord) : State := { s with conditions := s.conditions.set k r }

/-- The opposite level. -/
def levelNot : Level → Level
  | .low => .high
  | .high => .low

def levelOfBool (b : Bool) : Level := if b then .high else .low

/-! ### Time quality (R8) -/

def quality (s : State) : Quality :=
  match s.time.validity, s.time.refState with
  | .invalid, _ => .invalid
  | .valid, .locked => .valid
  | .valid, .holdover => .holdover

/-! ### Matching, pinning and the JOURNAL level -/

/-- Whether a record matches a filter (R59). -/
def Filter.accepts (f : Filter) (r : Record) : Bool :=
  f.kinds.getLsbD (kindCode r.body.kind) && f.origins.getLsbD (originCode r.origin)
    && match r.body.filterLine? with
       | some l => f.lines.getLsbD l.val
       | none => true

/-- Whether the reader of this session pins a record (R45, R60). -/
def Session.pins (x : Session) (r : Record) : Bool :=
  x.reader.mode == .retaining && x.reader.filter.accepts r && decide (x.reader.cursor ≤ r.seq)

/-- Whether the session on a port pins a record (R45). -/
def pinsRecord (s : State) (r : Record) (p : Port) : Bool :=
  match s.session p with
  | some x => x.pins r
  | none => false

/-- Whether a record is pinned: at least one session pins it (R45). -/
def pinned (s : State) (r : Record) : Bool := allPorts.any (pinsRecord s r)

/-- Whether the oldest record is pinned (R44, R49). -/
def oldestPinned (s : State) : Bool :=
  match s.journal.store with
  | [] => false
  | r :: _ => pinned s r

/-- The oldest seq held; with nothing held, the seq the next record will receive (spec 03). -/
def oldestSeq (s : State) : Nat :=
  match s.journal.store with
  | [] => s.journal.counter
  | r :: _ => r.seq

/-- One past the newest seq held (spec 03: outside reset it is the sequence counter). -/
def endSeq (s : State) : Nat :=
  match s.journal.store.getLast? with
  | none => s.journal.counter
  | some r => r.seq + 1

/-- The position OLDEST or NEWEST names (R58, R66, R196). -/
def readerStart? (b : Byte) (s : State) : Option Nat :=
  if b = 0#8 then some (oldestSeq s) else if b = 1#8 then some (endSeq s) else none

/-- Whether the store holds a record that the filter matches at or above a seq (R62, R73). -/
def holdsMatch (s : State) (f : Filter) (from_ : Nat) : Bool :=
  s.journal.store.any fun r => f.accepts r && decide (from_ ≤ r.seq)

/-- The JOURNAL level of a session's reader (R73). -/
def journalLevel (s : State) (x : Session) : Bool := holdsMatch s x.reader.filter x.reader.cursor

/-! ### Attention (R170 to R172) -/

/-- The members of the pending set by their bits (R196). -/
def noticeJournal : Byte := 0x01#8
def noticeGrant : Byte := 0x02#8
def noticePermit : Byte := 0x04#8
def noticeStrobe : Byte := 0x08#8
def noticeEntry : Byte := 0x10#8
def noticeCondition : Byte := 0x20#8

/-- The pending set: the latched members, and JOURNAL while the reader's level is true (R170). -/
def pendingSet (s : State) (x : Session) : Byte := if journalLevel s x then x.notices ||| noticeJournal else x.notices

/-- The level of a port's ATN line: LOW while a member of the pending set is in the mask (R172). -/
def atnLevel (s : State) (p : Port) : Level :=
  match s.session p with
  | none => .high
  | some x => if pendingSet s x &&& x.mask = 0#8 then .high else .low

/-- Forms the four ATN lines again (R172). -/
def formAtn (s : State) : State := { s with ports := s.ports.mapIdx fun p x => { x with atn := atnLevel s p } }

/-! ### The drive of an output line (R109) -/

/-- The driven level of a line in a permit state; a gated line in HELD keeps the level it has (R109, R110). -/
def OutLine.drive (o : OutLine) (permit : PermitState) : Level :=
  if o.gated then
    match permit with
    | .stopped => o.safe
    | .arming => o.safe
    | .running => o.commanded
    | .held => o.driven
  else o.commanded

def OutLine.formed (o : OutLine) (permit : PermitState) : OutLine := { o with driven := o.drive permit }

/-- Forms the drive of every line (R109). -/
def formDrives (s : State) : State := { s with outs := s.outs.map fun o => o.formed s.permit.state }

/-- Forms the drive of the gated lines, as a change of permit state does (R147, step 4). -/
def formGatedDrives (s : State) : State := { s with outs := s.outs.map fun o => if o.gated then o.formed s.permit.state else o }

/-- The stage of a tick's pulse ends and firings that an event of the tick brings about. What is no pulse end and no firing of the tick but
can reach a line, the permit or the journal stands apart; the rest leaves the stage as it is (R109, R163). -/
def TickEvent.stage? : TickEvent → Option TickStage
  | .immediatePulseEnd _ => some .pulses
  | .pulseEnd _ => some .schedule
  | .entryDue _ => some .schedule
  | .lineDisable _ => some .apart
  | .budgetChange _ => some .apart
  | .edgeQualified _ => some .apart
  | .chatterWindowEnd _ => some .apart
  | .delayExpired => some .apart
  | .lapse _ => some .apart
  | .strobeCapture _ => none
  | .lineEnable _ => none
  | .filterChange _ => none
  | .edgeSelectChange _ => none

/-- Whether an event of a tick is the schedule's: the pulse ends and the firings of one tick are one event (R163). -/
def TickEvent.isSchedules (e : TickEvent) : Bool := e.stage? == some .schedule

/-- Whether an event of a tick is a pulse end or a firing: the ways in which a tick itself reaches a commanded level (R108). -/
def TickEvent.movesLevel (e : TickEvent) : Bool := e.isSchedules || e.stage? == some .pulses

/-- Some of the latest tick's pulse ends and firings are carried out and some are not: the event that changes the levels is not
complete (R109). -/
def tickOpen (s : State) : Bool := s.tickStage != .apart && s.tickWork.any TickEvent.movesLevel

/-- The first event with which the schedule goes on with a tick it has begun, if one remains (R163). -/
def unfinished? (s : State) : Option TickEvent :=
  if s.tickStage = .schedule then s.tickWork.find? TickEvent.isSchedules else none

/-- The state with an event of the latest tick taken off the list. -/
def State.without (s : State) (e : TickEvent) : State :=
  let work := s.tickWork.erase e
  { s with tickWork := work, tickStage := if work.any TickEvent.movesLevel then e.stage?.getD s.tickStage else .apart }

/-- What every event of the part ends with: the drives are formed (R109), once for the pulse ends and firings of a tick together, and never
while RSTn holds the pins LOW (R118); then the ATN lines are formed (R172). -/
def conclude (s : State) : State := formAtn (if !tickOpen s && s.rstn == .high then formDrives s else s)

/-! ### The aggregate and the part vote -/

/-- The votes of the electors, in the order A to D (R137). -/
def votes (pm : Permit) : List Vote := (allPorts.filterMap pm.electors.get).map Elector.vote

/-- The aggregate, row by row of R144. -/
def formAggregate (pm : Permit) : Vote :=
  if votes pm = [] then .stop
  else if .stop ∈ votes pm then .stop
  else if pm.partVote = .stop then .stop
  else if .hold ∈ votes pm then .hold
  else .go

/-- Where a change of aggregate moves the permit (R146; R150 for a start delay of 0). -/
def nextPermitState (st : PermitState) (aggregate : Vote) (startDelay : Nat) : PermitState :=
  match st, aggregate with
  | .stopped, .go => if startDelay = 0 then .running else .arming
  | .stopped, _ => .stopped
  | .arming, .go => .arming
  | .arming, _ => .stopped
  | .running, .go => .running
  | .running, .hold => .held
  | .running, .stop => .stopped
  | .held, .go => .running
  | .held, .hold => .held
  | .held, .stop => .stopped

/-- The part vote: STOP while any condition whose action is STOP is latched (R168). -/
def formPartVote (c : Conditions) : Vote :=
  if allConditions.any fun k => (c.get k).action == .stop && (c.get k).firstLatched.isSome then .stop else .go

/-! ### Small readings of State -/

/-- The slots in slot order. -/
def allSlots : List (Fin 64) := List.finRange 64

/-- The slots whose entry meets a test, in slot order. -/
def slotsWhere (s : State) (test : Entry → Bool) : List (Fin 64) :=
  allSlots.filter fun i =>
    match s.entry i with
    | some e => test e
    | none => false

/-- An entry's place in admission order (R76). -/
def admissionOf (s : State) (i : Fin 64) : Nat :=
  match s.entry i with
  | some e => e.admission
  | none => 0

/-- An entry's due time, for ordering entries that have one (R82). -/
def dueOf (s : State) (i : Fin 64) : Nat :=
  match s.entry i with
  | some e => e.due.getD 0
  | none => 0

/-- Slots in admission order (R76). -/
def byAdmission (s : State) (l : List (Fin 64)) : List (Fin 64) := l.insertionSort fun i j => admissionOf s i ≤ admissionOf s j

/-- Slots in due order: by due time, and among equal due times by admission number (R82, R90). -/
def byDue (s : State) (l : List (Fin 64)) : List (Fin 64) :=
  l.insertionSort fun i j => dueOf s i < dueOf s j ∨ (dueOf s i = dueOf s j ∧ admissionOf s i ≤ admissionOf s j)

/-- The number of entries a master owns (R77, R79). -/
def owned (s : State) (p : Port) : Nat := (slotsWhere s fun e => e.owner == p).length

/-- The number of free slots (R105). -/
def freeSlots (s : State) : Nat := (allSlots.filter fun i => (s.entry i).isNone).length

/-- Whether an entry acts on a gated line (R97, R99). -/
def onGatedLine (s : State) (e : Entry) : Bool :=
  match e.line with
  | some k => (s.out k).gated
  | none => false

/-- Whether an occurrence that comes due now is deferred (R97). -/
def deferredNow (s : State) (e : Entry) : Bool := s.permit.state == .held && onGatedLine s e

/-- Whether a master is an elector (R137). -/
def isElector (s : State) (p : Port) : Bool := (s.permit.electors.get p).isSome

/-- The remaining amount of a slew: the magnitude less the progress, rounded toward zero to whole microseconds, with the sign
of the amount (R17). -/
def Slew.remaining (x : Slew) : Int :=
  let left : Int := ((x.amount.natAbs : Rat) - x.progress).floor
  if 0 ≤ x.amount then left else -left

/-- Whether a slew has reached its amount (R16). -/
def Slew.done (x : Slew) : Bool := decide ((x.amount.natAbs : Rat) ≤ x.progress)

end Sys2Proof.Machine
end

