-- ==== Sys2Proof/Machine/Ops.lean ====
section
/-! DEFINITION. Operations that several blocks share: offering a record to the journal and leaving WITHHOLDING, raising attention and
conditions, and changing an output line's commanded level. -/

namespace Sys2Proof.Machine

/-! ### Small updates of State -/

def State.setTime (s : State) (t : Timebase) : State := { s with time := t }

def State.setJournal (s : State) (j : Journal) : State := { s with journal := j }

def State.setPermit (s : State) (pm : Permit) : State := { s with permit := pm }

/-! ### The journal -/

/-- Adds 1 to a count that stops at 4,294,967,295 (R48, R72). -/
def satSucc (n : Nat) : Nat := if n < Config.countLimit then n + 1 else n

/-- Stores a record at the newest end with the counter's value as its seq, and the counter increases by 1 (R41, R43). -/
def storeRecord (t : Nat) (q : Quality) (o : Origin) (b : Body) (s : State) : State :=
  s.setJournal
    { s.journal with
      store := s.journal.store ++ [{ seq := s.journal.counter, time := t, quality := q, origin := o, body := b }]
      counter := s.journal.counter + 1 }

/-- The push a retirement of record `r` gives a session's reader (R46). -/
def Session.pushPast (r : Record) (x : Session) : Session :=
  let hit := x.reader.cursor = r.seq
  let cursor := if hit then r.seq + 1 else x.reader.cursor
  let missed := if hit ∧ x.reader.filter.accepts r then satSucc x.reader.missed else x.reader.missed
  { x with reader := { x.reader with cursor := cursor, missed := missed, readMark := max x.reader.readMark cursor } }

/-- Retires the oldest record and pushes the readers past it (R46). -/
def retireOldest (s : State) : State :=
  match s.journal.store with
  | [] => s
  | r :: rest =>
      { s with
        journal := { s.journal with store := rest }
        ports := s.ports.map fun x => { x with session := x.session.map (Session.pushPast r) } }

/-- Hands a raise to the condition unit, which takes it once the event is complete; while RSTn is LOW the unit takes none
(R163, R174). -/
def handRaise (c : Condition) (s : State) : State :=
  if s.rstn = .low then s else { s with conditions := { s.conditions with raises := s.conditions.raises ++ [c] } }

/-- Withholds the offer that finds the oldest record pinned: the count becomes 1, the journal enters WITHHOLDING and hands one
JOURNAL_WITHHELD event (R44, R47). -/
def enterWithholding (s : State) : State :=
  handRaise .journalWithheld (s.setJournal { s.journal with state := .withholding, withheld := 1 })

/-- Withholds an offer made in WITHHOLDING: it is counted and leaves no other trace (R48). -/
def withhold (s : State) : State := s.setJournal { s.journal with withheld := satSucc s.journal.withheld }

/-- What the journal answers the block that offers a record now: the seq the record receives, or none when it is withheld
(R52) or, while RSTn is LOW, dropped (R56). -/
def offerSeq (s : State) : Option Nat :=
  if s.rstn = .low then none
  else
    match s.journal.state with
    | .withholding => none
    | .accepting =>
        if s.journal.store.length < Config.journalCapacity then some s.journal.counter
        else if oldestPinned s then none
        else some s.journal.counter

/-- Offers a record of a given time and quality to the journal: the append decision (R43, R44, R48, R56). -/
def offerAs (t : Nat) (q : Quality) (o : Origin) (b : Body) (s : State) : State :=
  if s.rstn = .low then s
  else
    match s.journal.state with
    | .withholding => withhold s
    | .accepting =>
        if s.journal.store.length < Config.journalCapacity then storeRecord t q o b s
        else if oldestPinned s then enterWithholding s
        else storeRecord t q o b (retireOldest s)

/-- Offers a record timed at the present part time, with the quality of this moment (R8, R39). -/
def offer (o : Origin) (b : Body) (s : State) : State := offerAs s.time.partTime (quality s) o b s

/-- The re-examination of R49: in WITHHOLDING, an unpinned oldest record is retired, a GAP record takes its place, and the
journal accepts again (R50). In ACCEPTING nothing happens. -/
def reexamine (s : State) : State :=
  match s.journal.state with
  | .accepting => s
  | .withholding =>
      if oldestPinned s then s
      else
        let count := s.journal.withheld
        let s := storeRecord s.time.partTime (quality s) .part (.gap count) (retireOldest s)
        s.setJournal { s.journal with withheld := 0, state := .accepting }

/-! ### Attention (R170) -/

/-- Adds a member to a session's latched notices. -/
def Session.notice (n : Byte) (x : Session) : Session := { x with notices := x.notices ||| n }

/-- Raises a latched member for the session open on a port; with none open the raise is not kept (R170). -/
def raiseNotice (n : Byte) (p : Port) (s : State) : State := s.modSession p (Session.notice n)

/-- Raises a latched member for every open session but the excepted one (R142, R158, R164). -/
def raiseForAll (n : Byte) (except_ : Option Port) (s : State) : State :=
  { s with ports := s.ports.mapIdx fun p x => if except_ = some p then x else { x with session := x.session.map (Session.notice n) } }

/-! ### Output lines -/

/-- Sets a line's commanded level and ends its immediate pulse, without its trailing level: a level handed by the schedule
(R83, R85, R108, R115), the release of the claim (R116) and the ways to the safe level (R111, R113). -/
def handLevel (k : Fin 8) (l : Level) (s : State) : State := s.setOut k { s.out k with commanded := l, pulse := none }

/-- Sets every gated line to its safe level and ends its immediate pulse (R111). -/
def gatedLinesSafe (s : State) : State :=
  { s with outs := s.outs.map fun o => if o.gated then { o with commanded := o.safe, pulse := none } else o }

/-- The level a TOGGLE gives: the opposite of the commanded level as it stands (R83, R114). -/
def toggled (k : Fin 8) (s : State) : Level := levelNot (s.out k).commanded

/-! ### Free values -/

/-- The next free part time (notes/assumptions/5.md). -/
def freeTimeNow (s : State) : Nat := (Config.freeTime s.freeUses).toNat

def useFree (s : State) : State := { s with freeUses := s.freeUses + 1 }

end Sys2Proof.Machine
end

