-- ==== Sys2Proof/Machine/Entries.lean ====
section
/-! DEFINITION. What befalls an entry of the schedule, said once (spec 05): firing, skipping, advancing, completing, rearming,
catching up, deferring, cancelling, taking a trigger, and moving with a step of part time. -/

namespace Sys2Proof.Machine

/-- Applies a change to the entry in a slot, if it holds one. -/
def modEntry (i : Fin 64) (f : Entry → Entry) (s : State) : State := s.putEntry i ((s.entry i).map f)

/-- The level a firing hands its line; MARK hands nothing (R83). -/
def firedLevel (e : Entry) (k : Fin 8) (s : State) : Level :=
  match e.action with
  | .set => .high
  | .clear => .low
  | .toggle => toggled k s
  | .pulse => e.pulseLevel
  | .mark => (s.out k).commanded

/-- Hands a firing's level to the output line unit (R83). -/
def handFiring (e : Entry) (s : State) : State :=
  match e.line, e.action with
  | none, _ => s
  | some _, .mark => s
  | some k, _ => handLevel k (firedLevel e k s) s

/-- The running pulse a firing gives the entry (R85). -/
def startedPulse (e : Entry) : Option RunningPulse :=
  match e.action with
  | .pulse => some { left := e.width, trailing := levelNot e.pulseLevel }
  | _ => e.running

/-- Whether a firing is later than the tolerance in force (R84). -/
def tooLate (lateBy : Option Nat) (s : State) : Bool :=
  match lateBy with
  | none => false
  | some n => decide (s.schedule.tolerance < n)

/-- Fires the entry in a slot: its action, then its FIRED record if the journal flag is set, then the ENTRY_LATE event if it is
too late, then ENTRY attention if the notify flag is set (R83, R84, R85). -/
def fire (i : Fin 64) (lateBy : Option Nat) (s : State) : State :=
  match s.entry i with
  | none => s
  | some e =>
      let s := handFiring e s
      let s := modEntry i (fun e => { e with running := startedPulse e }) s
      let s := if e.journalFlag then offer (.master e.owner) (.entryFired (s.handle i) e.action e.line lateBy) s else s
      let s := if tooLate lateBy s then handRaise .entryLate s else s
      if e.notifyFlag then raiseNotice noticeEntry e.owner s else s

/-- Skips an occurrence: a SKIPPED record if the journal flag is set, and nothing else (R84). -/
def skip (i : Fin 64) (s : State) : State :=
  match s.entry i with
  | none => s
  | some e => if e.journalFlag then offer (.master e.owner) (.entrySkipped (s.handle i) e.action e.line) s else s

/-- Moves an entry past k grid points: the due time by k periods, a remaining count down by k. Without a period, with the count at
0, or with a due time above 2^64 - 1 there is no next occurrence (R87, R90). -/
def Entry.advance (k : Nat) (e : Entry) : Entry :=
  match e.period, e.due with
  | some p, some d =>
      let remaining := e.remaining.map fun n => n - k
      let next := d + k * p
      { e with remaining := remaining, due := if remaining = some 0 ∨ Config.maxPartTime < next then none else some next }
  | _, _ => { e with due := none }

/-- The number of grid points from a due time up to and including T (R90). -/
def gridPoints (period : Option Nat) (due T : Nat) : Nat :=
  match period with
  | some p => (T - due) / p + 1
  | none => 1

/-- Completes an entry: a COMPLETED record, and the slot becomes free with its generation kept (R75, R88). -/
def complete (i : Fin 64) (s : State) : State :=
  match s.entry i with
  | none => s
  | some e => (offer (.master e.owner) (.entryCompleted (s.handle i) e.action e.line) s).putEntry i none

/-- Returns a rearming entry to AWAITING_TRIGGER (R89). -/
def Entry.rearmed (e : Entry) : Entry := { e with state := .awaitingTrigger, due := none, remaining := e.initial }

/-- The state an entry takes after an occurrence or the end of a pulse: PULSING while a pulse runs, PENDING with a next
occurrence, else it completes or rearms (R85, R87, R88, R89). -/
def closeOccurrence (i : Fin 64) (s : State) : State :=
  match s.entry i with
  | none => s
  | some e =>
      match e.running, e.due with
      | some _, _ => modEntry i (fun e => { e with state := .pulsing }) s
      | none, some _ => modEntry i (fun e => { e with state := .pending }) s
      | none, none => if e.rearm then modEntry i Entry.rearmed s else complete i s

/-- Ends an entry's running pulse: the trailing level is handed and the pulse removed (R85, R86). -/
def endPulse (i : Fin 64) (s : State) : State :=
  match s.entry i with
  | none => s
  | some e =>
      match e.running with
      | none => s
      | some r =>
          let s := match e.line with
            | some k => handLevel k r.trailing s
            | none => s
          modEntry i (fun e => { e with running := none }) s

/-- Fires the entry at the tick that made its due time; a pulse still running is ended first (R82, R86, R87). -/
def fireAtTick (i : Fin 64) (s : State) : State :=
  closeOccurrence i (modEntry i (Entry.advance 1) (fire i none (endPulse i s)))

/-- Catches an entry up to T: it fires or skips once, moves to the first grid point after T, and completes or rearms where it has no
next occurrence (R90). A pulse still running is ended first (R86). -/
def catchUp (T : Nat) (i : Fin 64) (s : State) : State :=
  let s := endPulse i s
  match s.entry i with
  | none => s
  | some e =>
      match e.due with
      | none => s
      | some d =>
          let s := match e.late with
            | .fireLate => fire i (some (T - d)) s
            | .skip => skip i s
          closeOccurrence i (modEntry i (Entry.advance (gridPoints e.period d T)) s)

/-- Defers an occurrence: a pulse still running is ended, and the entry enters DEFERRED with its due time and count (R97). -/
def defer (i : Fin 64) (s : State) : State := modEntry i (fun e => { e with state := .deferred }) (endPulse i s)

/-- Handles a late occurrence at T: deferred on a gated line in HELD, else caught up (R81, R91, R93, R97). -/
def takeLate (T : Nat) (s : State) (i : Fin 64) : State :=
  match s.entry i with
  | none => s
  | some e => if deferredNow s e then defer i s else catchUp T i s

/-- Whether an entry stands in the due order: PENDING, or PULSING with a next occurrence (R82). -/
def Entry.inDueOrder (e : Entry) : Bool := (e.state == .pending || e.state == .pulsing) && e.due.isSome

/-- ENTRY_DUE: the entry in a slot whose due time is the part time of this tick fires, or is deferred on a gated line in HELD
(R82, R97). -/
def entryComesDue (i : Fin 64) (s : State) : State :=
  match s.entry i with
  | none => s
  | some e =>
      if e.inDueOrder && e.due == some s.time.partTime then
        if deferredNow s e then defer i s else fireAtTick i s
      else s

/-- PULSE_END: the pulse whose ticks left have reached 0 ends, and the entry leaves PULSING (R85). -/
def pulseRunsOut (i : Fin 64) (s : State) : State :=
  match s.entry i with
  | none => s
  | some e =>
      match e.running with
      | some r => if r.left = 0 then closeOccurrence i (endPulse i s) else s
      | none => s

/-! ### Cancellation (R99 to R103) -/

/-- Whether a cancellation hands a running pulse's trailing level: for OWNER and CLOSED only (R100). -/
def handsTrailing : CancelCause → Bool
  | .owner => true
  | .closed => true
  | .released => false
  | .permitStop => false

/-- Cancels the entry in a slot: a CANCELLED record with its cause, the slot free, and the trailing level where the cause hands it
(R100). -/
def cancel (cause : CancelCause) (s : State) (i : Fin 64) : State :=
  match s.entry i with
  | none => s
  | some e =>
      let s := offer (.master e.owner) (.entryCancelled (s.handle i) e.action e.line cause) s
      let s := if handsTrailing cause then endPulse i s else s
      s.putEntry i none

/-- Cancels every entry that meets a test, in admission order (R100). -/
def cancelWhere (cause : CancelCause) (test : Entry → Bool) (s : State) : State :=
  (byAdmission s (slotsWhere s test)).foldl (cancel cause) s

/-! ### The return from HELD (R98) -/

/-- One DEFERRED entry at the resume time R: caught up where its due time is at or below R, else PENDING (R98). -/
def resumeEntry (R : Nat) (s : State) (i : Fin 64) : State :=
  match s.entry i with
  | none => s
  | some e =>
      if e.due.getD 0 ≤ R then catchUp R i s else modEntry i (fun e => { e with state := .pending }) s

/-- Resumes every DEFERRED entry in the order of their due times (R98). -/
def resumeDeferred (s : State) : State :=
  (byDue s (slotsWhere s fun e => e.state == .deferred)).foldl (resumeEntry s.time.partTime) s

/-! ### Triggers (R91) -/

/-- Whether a trigger takes an edge (R91). -/
def Trigger.takes (t : Trigger) (n : Fin 16) (edge : Edge) : Bool :=
  t.line == n
    && match t.edge, edge with
       | .either, _ => true
       | .rise, .rise => true
       | .fall, .fall => true
       | _, _ => false

/-- Whether an entry waits for this edge (R91). -/
def Entry.awaits (e : Entry) (n : Fin 16) (edge : Edge) : Bool :=
  e.state == .awaitingTrigger
    && match e.trigger with
       | some t => t.takes n edge
       | none => false

/-- A due time, absent where it would lie above 2^64 - 1 (R87). -/
def boundedDue (d : Nat) : Option Nat := if Config.maxPartTime < d then none else some d

/-- A waiting entry takes an edge: the due time record time + offset, RELATIVE, PENDING; without a due time in range it completes or
rearms at once (R87, R91). -/
def takeTrigger (recordTime : Nat) (s : State) (i : Fin 64) : State :=
  match s.entry i with
  | none => s
  | some e =>
      let offset := match e.trigger with
        | some t => t.offset
        | none => 0
      closeOccurrence i (modEntry i (fun e => { e with anchor := .relative, due := boundedDue (recordTime + offset) }) s)

/-- Whether the entry in a slot is PENDING with a due time at or below part time. -/
def lateNow (s : State) (i : Fin 64) : Bool :=
  match s.entry i with
  | none => false
  | some e =>
      match e.due with
      | some d => e.state == .pending && decide (d ≤ s.time.partTime)
      | none => false

/-- The hand-off of an admitted edge: every matching entry takes it, and those late at once are handled in due order
(R34, R91). DESIGN CHOICE (notes/assumptions/23.md): an entry whose due time would lie above 2^64 - 1 completes or rearms as it takes the
edge, so before those late at once are handled. -/
def handEdge (n : Fin 16) (edge : Edge) (recordTime : Nat) (s : State) : State :=
  let takers := byAdmission s (slotsWhere s fun e => e.awaits n edge)
  let s := takers.foldl (takeTrigger recordTime) s
  (byDue s (takers.filter (lateNow s))).foldl (takeLate s.time.partTime) s

/-! ### A step of part time (R93 to R95) -/

/-- A RELATIVE due time moved by a step: absent above 2^64 - 1 (R87). Below 0, where the document states no value, it is the free
value given (notes/assumptions/5.md). -/
def shiftDue (delta : Int) (free : Nat) (d : Nat) : Option Nat :=
  let x := (d : Int) + delta
  if x < 0 then some free else boundedDue x.toNat

/-- Moves the entry in a slot with a step, if it is RELATIVE with a due time. It stays in its state, but where the due time falls
away it completes or rearms once no pulse runs (R87, R94). -/
def shiftEntry (delta : Int) (s : State) (i : Fin 64) : State :=
  match s.entry i with
  | none => s
  | some e =>
      match e.anchor, e.due with
      | .relative, some d =>
          let due := shiftDue delta (freeTimeNow s) d
          let s := if (d : Int) + delta < 0 then useFree s else s
          let s := modEntry i (fun e => { e with due := due }) s
          if due = none then closeOccurrence i s else s
      | _, _ => s

/-- Whether a forward step from t0 to t1 passes over an ABSOLUTE entry's due time (R93). -/
def Entry.passedOver (t0 t1 : Nat) (e : Entry) : Bool :=
  e.anchor == .absolute && e.inDueOrder
    && match e.due with
       | some d => decide (t0 < d) && decide (d ≤ t1)
       | none => false

/-- The step handed to the schedule: RELATIVE due times move, and a forward step catches up or defers the ABSOLUTE entries it
passes over, to T = t1 (R93, R94, R95). DESIGN CHOICE (notes/assumptions/25.md): the shift comes first, in admission order, so an entry whose
due time it carries above 2^64 - 1 completes or rearms (R87) before any of those passed over is caught up. -/
def scheduleStep (t0 t1 : Nat) (s : State) : State :=
  let s := (byAdmission s (slotsWhere s fun _ => true)).foldl (shiftEntry ((t1 : Int) - t0)) s
  (byDue s (slotsWhere s (Entry.passedOver t0 t1))).foldl (takeLate t1) s

end Sys2Proof.Machine
end

