-- ==== Sys2Proof/Machine/Transitions.lean ====
section
/-! DEFINITION. What passes between blocks, each operation said once: a change of permit state (R147), the aggregate formed again
(R144 to R146), the raise of a condition and the part vote (R143, R164, R168), the hand-over of a claim (R125, R126), and the
lapse and the close of a session (R186, R189). -/

namespace Sys2Proof.Machine

/-! ### The permit -/

/-- Step 1 of a change of permit state: the state, the arming timer and the last change (R147, R148). -/
def enterPermitState (new : PermitState) (cause : PermitCause) (s : State) : State :=
  s.setPermit
    { s.permit with
      state := new
      timer := if new = .arming then some (1000 * s.permit.startDelay) else none
      lastChange := some (s.time.partTime, cause) }

/-- Step 3: the schedule cancels every entry on a gated line on entry to STOPPED, and resumes its DEFERRED entries on a return from
HELD to RUNNING (R98, R99, R147). -/
def permitToSchedule (old new : PermitState) (s : State) : State :=
  match old, new with
  | _, .stopped => cancelWhere .permitStop (onGatedLine s) s
  | .held, .running => resumeDeferred s
  | _, _ => s

/-- Step 4: gated lines go to their safe levels on entry to STOPPED; then the drive of every gated line is formed (R109 to R112,
R147). -/
def permitToLines (new : PermitState) (s : State) : State :=
  formGatedDrives (if new = .stopped then gatedLinesSafe s else s)

/-- Step 5: PRUN and PHOLD (R156). -/
def setPermitPins (s : State) : State :=
  s.setPermit
    { s.permit with prun := levelOfBool (s.permit.state == .running), phold := levelOfBool (s.permit.state == .held) }

/-- A change of permit state, as one event in the six steps of R147. A closing session gets no PERMIT attention (R142, R158). -/
def changePermit (new : PermitState) (cause : PermitCause) (except_ : Option Port) (s : State) : State :=
  let old := s.permit.state
  let s := enterPermitState new cause s
  let s := offer .part (.permit old new cause) s
  let s := permitToSchedule old new s
  let s := permitToLines new s
  let s := setPermitPins s
  raiseForAll noticePermit except_ s

/-- Forms the aggregate again; a change of it may change the permit state, and the same value does nothing (R144, R145, R146). -/
def takeAggregate (cause : PermitCause) (except_ : Option Port) (s : State) : State :=
  let aggregate := formAggregate s.permit
  if aggregate = s.permit.aggregate then s
  else
    let s := s.setPermit { s.permit with aggregate := aggregate }
    let new := nextPermitState s.permit.state aggregate s.permit.startDelay
    if new = s.permit.state then s else changePermit new cause except_ s

/-- Writes a master's elector record, and forms the aggregate again (R138 to R142). -/
def setElector (p : Port) (e : Option Elector) (cause : PermitCause) (except_ : Option Port) (s : State) : State :=
  takeAggregate cause except_ (s.setPermit { s.permit with electors := s.permit.electors.set p e })

/-- DELAY_EXPIRED: the arming timer that has reached 0 takes the permit from ARMING to RUNNING (R148). -/
def armingExpires (s : State) : State :=
  match s.permit.state, s.permit.timer with
  | .arming, some 0 => changePermit .running .delayExpired none s
  | _, _ => s

/-! ### Conditions and the part vote -/

/-- PART_VOTE_CHANGE: the permit unit takes the part vote the condition unit formed, and forms the aggregate again (R143). -/
def takePartVote (s : State) : State :=
  if s.conditions.partVote = s.permit.partVote then s
  else takeAggregate .partVote none (s.setPermit { s.permit with partVote := s.conditions.partVote })

/-- Forms the part vote again; the permit unit takes a change of it as an event of its own (R168). -/
def formPartVoteAgain (s : State) : State :=
  { s with conditions := { s.conditions with partVote := formPartVote s.conditions } }

/-- Whether a condition is a level condition, which keeps an active flag (R162, R163). -/
def isLevelCondition : Condition → Bool
  | .timeInvalid => true
  | .refLost => true
  | .journalWithheld => false
  | .entryLate => false

/-- CONDITION_RAISE: sets the active flag of a level condition; a condition not latched latches, offers CONDITION RAISED, raises
CONDITION attention and, with action STOP, forms the part vote again (R162, R164). -/
def raiseCondition (c : Condition) (s : State) : State :=
  let r := s.condition c
  let r := { r with active := r.active || isLevelCondition c }
  if r.firstLatched.isSome then s.setCondition c r
  else
    let s := s.setCondition c { r with firstLatched := some s.time.partTime }
    let s := offer .part (.conditionRaised c) s
    let s := raiseForAll noticeCondition none s
    if r.action = .stop then formPartVoteAgain s else s

/-- The fall of a level: the active flag is cleared and the latch stays (R162). -/
def levelFalls (c : Condition) (s : State) : State := s.setCondition c { s.condition c with active := false }

/-- Takes the raise at the head of those handed (R163). -/
def takeFirstRaise (s : State) : State :=
  match s.conditions.raises with
  | [] => s
  | c :: rest => raiseCondition c { s with conditions := { s.conditions with raises := rest } }

/-! ### Claims -/

/-- Step 2 of a hand-over, for an output line: the releasing master's entries on it are cancelled, its immediate pulse ends, its
commanded level becomes the rest level, and its drive is formed (R102, R116, R126). -/
def clearLine (p : Port) (k : Fin 8) (s : State) : State :=
  let s := cancelWhere .released (fun e => e.owner == p && e.line == some k) s
  let s := handLevel k (s.out k).rest s
  s.setOut k ((s.out k).formed s.permit.state)

/-- Steps 3 and 4 of a hand-over: the holder goes, and the first waiter, if any, becomes holder with CLAIM GRANTED and GRANT
attention (R125). -/
def passOn (r : Resource) (s : State) : State :=
  match (s.claimOf r).waiters with
  | [] => s.setClaim r { holder := none, waiters := [] }
  | w :: rest =>
      let s := s.setClaim r { holder := some w, waiters := rest }
      let s := offer (.master w) (.claimGranted r .fromWait) s
      raiseNotice noticeGrant w s

/-- The hand-over of a resource that `p` holds (R125). -/
def handOver (p : Port) (cause : ClaimCause) (r : Resource) (s : State) : State :=
  let s := offer (.master p) (.claimReleased r cause) s
  let s := match r with
    | .out k => clearLine p k s
    | .time => s
    | .config => s
  passOn r s

/-- Hands a resource over if `p` holds it (R129, R130). -/
def handOverIfHeld (p : Port) (cause : ClaimCause) (s : State) (r : Resource) : State :=
  if s.holds p r then handOver p cause r s else s

/-- Removes a master from every wait list; those behind it move up (R129, R130). -/
def leaveWaitLists (p : Port) (s : State) : State :=
  { s with claims := s.claims.map fun c => { c with waiters := c.waiters.filter (· ≠ p) } }

/-! ### Lapse and close -/

/-- The lapse as the permit unit takes it: an elector's vote becomes STOP with its forced mark set (R141). -/
def forceStop (p : Port) (s : State) : State :=
  match s.permit.electors.get p with
  | none => s
  | some _ => setElector p (some { vote := .stop, forced := true }) (.vote p .stop) none s

/-- A session as a lapse leaves it (R189, step 1). -/
def Session.lapsed (x : Session) : Session := { x with liveness := .lapsed, deadline := none }

/-- A session whose reader has been demoted (R69). -/
def Session.demoted (x : Session) : Session := { x with reader := { x.reader with mode := .lossy } }

/-- The lapse of the session on a port, in the five steps of R189. -/
def lapseSession (p : Port) (s : State) : State :=
  let s := s.modSession p Session.lapsed
  let s := offer (.master p) .lapsed s
  let s := forceStop p s
  let s := leaveWaitLists p s
  let s := handOverIfHeld p .lapse s .time
  let s := handOverIfHeld p .lapse s .config
  let s := s.modSession p Session.demoted
  reexamine s

/-- LAPSE: the deadline that has reached 0 lapses a session that is OPEN and LIVE (R189). -/
def deadlineExpires (p : Port) (s : State) : State :=
  match s.session p with
  | some x => if x.liveness = .live ∧ x.deadline = some 0 then lapseSession p s else s
  | none => s

/-- The elector record of a closing master is removed (R142). -/
def dropElector (p : Port) (s : State) : State :=
  match s.permit.electors.get p with
  | none => s
  | some _ => setElector p none .electorate (some p) s

/-- The close of the session on a port, in the six steps of R186. The reader goes at step 4 and the rest of the session at step 6; no
rule of steps 5 and 6 reads the session between, so the whole of it is removed at step 4, before the re-examination. -/
def closeSessionOn (p : Port) (cause : CloseCause) (s : State) : State :=
  let s := cancelWhere .closed (fun e => e.owner == p) s
  let s := leaveWaitLists p s
  let s := allResources.foldl (handOverIfHeld p .close) s
  let s := dropElector p s
  let s := reexamine (s.setSession p none)
  offer (.master p) (.sessionClosed cause) s

end Sys2Proof.Machine
end

