-- ==== Sys2Proof/Machine/Timeline.lean ====
section
/-! DEFINITION. The timebase and what a tick does: feeding the accumulator (R1, R16), issuing a tick and handing it to every block (R2),
each event of a tick (spec 02, 05, 06, 08, 10), the application of a step (R12, R13), the loss and return of the reference (R4, R6),
and `settle`, which carries out every event that is due before the next thing from outside is taken (notes/assumptions/1.md). -/

namespace Sys2Proof.Machine

/-! ### Feeding the accumulator -/

/-- The increment of R1 without its slew part: (1,000,000 / F) × (1 + trim / 1,000,000,000) ticks. -/
def baseIncrement (F : Nat) (trim : Int) : Rat := (1000000 / (F : Rat)) * (1 + (trim : Rat) / 1000000000)

/-- What a cycle of a source of frequency F adds to a slew's progress: rate / F, or less where that would carry the progress past the
amount (R16). -/
def slewShare (F : Nat) (x : Slew) : Rat := min ((x.rate : Rat) / (F : Rat)) ((x.amount.natAbs : Rat) - x.progress)

/-- What the slew in flight adds to the increment: its share with the sign of its amount (R1, R16). -/
def slewIncrement (F : Nat) (x : Option Slew) : Rat :=
  match x with
  | none => 0
  | some x => if 0 ≤ x.amount then slewShare F x else -slewShare F x

/-- One cycle of the source feeds the accumulator and the progress of a slew (R1, R16). -/
def feed (F : Nat) (s : State) : State :=
  s.setTime
    { s.time with
      acc := s.time.acc + (baseIncrement F s.time.trim + slewIncrement F s.time.slew)
      slew := s.time.slew.map fun x => { x with progress := x.progress + slewShare F x } }

/-- Whether a slew in flight has reached its amount and is still to end (R16). -/
def slewIsDone (s : State) : Bool :=
  match s.time.slew with
  | some x => x.done
  | none => false

/-- SLEW_DONE: the slew that has reached its amount ends, and SLEW_DONE is offered (R16). -/
def endSlew (s : State) : State :=
  match s.time.slew with
  | none => s
  | some x =>
      if x.done then
        offer (.master x.issuer) (.time (.slewDone x.amount)) (s.setTime { s.time with slew := none })
      else s

/-- Abandons the slew in flight with its record (R17). -/
def abandonSlew (s : State) : State :=
  match s.time.slew with
  | none => s
  | some x =>
      offer (.master x.issuer) (.time (.slewAbandoned x.remaining)) (s.setTime { s.time with slew := none })

/-! ### Strobe captures (R18, R19) -/

/-- STROBE_CAPTURE: the armed capture of a port's slot is taken (R18, R19). -/
def takeCapture (p : Port) (s : State) : State :=
  let slot := s.time.strobes.get p
  if slot.armed then
    let captured : Capture := { time := s.time.partTime, quality := quality s, stepPending := s.time.step.isSome }
    let overwrite := if slot.captured.isSome then min (slot.overwrite + 1) Config.overwriteLimit else 0
    let slot : StrobeSlot := { captured := some captured, overwrite := overwrite, armed := false }
    raiseNotice noticeStrobe p (s.setTime { s.time with strobes := s.time.strobes.set p slot })
  else s

/-! ### Event inputs (spec 02) -/

/-- Applies a change to one event line. -/
def modLine (n : Fin 16) (f : EventLine → EventLine) (s : State) : State := s.setEventLine n (f (s.line n))

/-- Offers the CHATTER record of a nonzero excess count (R26, R32, R33). -/
def reportExcess (n : Fin 16) (s : State) : State :=
  let l := s.line n
  if l.excess = 0 then s else offer .part (.chatter n l.excess (l.tracked.getD .low)) s

/-- The window position with which a window begins: 1 for a nonzero budget, 0 where no window runs (R26, R33). -/
def firstPosition (budget : Nat) : Nat := if budget = 0 then 0 else 1

/-- LINE_ENABLE: the tracked level is the sample, no qualification, no counts, and a window begins if the budget is nonzero (R26). -/
def EventLine.enable (l : EventLine) : EventLine :=
  { l with inForce := l.cfg, tracked := some l.raw, qual := .idle, window := firstPosition l.cfg.budget, admitted := 0, excess := 0 }

/-- LINE_DISABLE: the working state is cleared (R26). -/
def EventLine.disable (l : EventLine) : EventLine :=
  { l with inForce := l.cfg, tracked := none, qual := .idle, window := 0, admitted := 0, excess := 0 }

/-- BUDGET_CHANGE: the counts return to 0 and a new window begins if the new budget is nonzero (R33). -/
def EventLine.newBudget (l : EventLine) : EventLine :=
  { l with inForce := { l.inForce with budget := l.cfg.budget }, window := firstPosition l.cfg.budget, admitted := 0, excess := 0 }

/-- Takes a sample through an IDLE line under filter length L ≥ 1: a level that differs from the tracked level begins an interval
(R27). -/
def EventLine.beginInterval (l : EventLine) : EventLine :=
  if l.tracked = some l.raw ∨ l.inForce.filter = 0 then l else { l with qual := .qualifying l.raw 0 }

/-- FILTER_CHANGE: an interval in progress is abandoned, and the tick's sample is taken as in IDLE under the new length; a new length
of 0 qualifies a level that differs as an EDGE_QUALIFIED of the same tick (R28). -/
def EventLine.newFilter (l : EventLine) : EventLine :=
  { l with inForce := { l.inForce with filter := l.cfg.filter }, qual := .idle }.beginInterval

/-- EDGE_SELECT_CHANGE: the new selection applies to the next change that is qualified (R28). -/
def EventLine.newEdgeSelect (l : EventLine) : EventLine := { l with inForce := { l.inForce with edge := l.cfg.edge } }

/-- Whether an edge is selected (R29). -/
def EdgeSelect.selects (x : EdgeSelect) (e : Edge) : Bool :=
  match x, e with
  | .both, _ => true
  | .rise, .rise => true
  | .fall, .fall => true
  | _, _ => false

/-- The edge of a change to a level (R29). -/
def edgeTo : Level → Edge
  | .high => .rise
  | .low => .fall

/-- An admitted edge: one INPUT record, back-dated by the filter length and not below 0, then the hand-off to the schedule (R30, R34). -/
def admitEdge (n : Fin 16) (level : Level) (s : State) : State :=
  let recordTime := s.time.partTime - (s.line n).inForce.filter
  let s := offerAs recordTime (quality s) .part (.input n level (edgeTo level)) s
  handEdge n (edgeTo level) recordTime s

/-- EDGE_QUALIFIED: the sample becomes the tracked level; a selected edge is admitted, or refused by the chatter budget
(R29, R31). -/
def qualifyEdge (n : Fin 16) (s : State) : State :=
  let l := s.line n
  let level := l.raw
  let s := s.setEventLine n { l with tracked := some level, qual := .idle }
  if l.inForce.edge.selects (edgeTo level) then
    if l.inForce.budget = 0 then admitEdge n level s
    else if l.admitted < l.inForce.budget then
      admitEdge n level (modLine n (fun l => { l with admitted := l.admitted + 1 }) s)
    else modLine n (fun l => { l with excess := l.excess + 1 }) s
  else s

/-- CHATTER_WINDOW_END: any excess is reported, and the counts return to 0 (R32). -/
def endWindow (n : Fin 16) (s : State) : State :=
  modLine n (fun l => { l with admitted := 0, excess := 0 }) (reportExcess n s)

/-! ### The events of a tick, carried out -/

/-- IMMEDIATE_PULSE_END: the immediate pulse whose ticks left have reached 0 sets its trailing level (R115). -/
def endImmediatePulse (k : Fin 8) (s : State) : State :=
  match (s.out k).pulse with
  | some q => if q.left = 0 then handLevel k q.trailing s else s
  | none => s

/-- Carries out one event of a tick. -/
def doTickEvent (s : State) (e : TickEvent) : State :=
  match e with
  | .strobeCapture p => takeCapture p s
  | .lineEnable n => modLine n EventLine.enable s
  | .lineDisable n => modLine n EventLine.disable (reportExcess n s)
  | .filterChange n => modLine n EventLine.newFilter s
  | .edgeSelectChange n => modLine n EventLine.newEdgeSelect s
  | .budgetChange n => modLine n EventLine.newBudget (reportExcess n s)
  | .edgeQualified n => qualifyEdge n s
  | .chatterWindowEnd n => endWindow n s
  | .entryDue i => entryComesDue i s
  | .pulseEnd i => pulseRunsOut i s
  | .immediatePulseEnd k => endImmediatePulse k s
  | .delayExpired => armingExpires s
  | .lapse p => deadlineExpires p s

/-! ### A tick (R2) and what it makes due -/

/-- The level a pin shows in a sample. -/
def pinLevel (pins : BitVec 16) (n : Fin 16) : Level := levelOfBool (pins.getLsbD n.val)

/-- An enabled line's next window position under an unchanged budget: the tick of the window, 1 to 10,000 (R31). -/
def nextPosition (budget position : Nat) : Nat :=
  if budget = 0 then 0 else if position < Config.chatterWindow then position + 1 else 1

/-- Takes a sample through the qualification of an enabled line whose filter length is unchanged (R27): the line after it, and whether
the change is qualified at this tick. -/
def EventLine.sample (l : EventLine) : EventLine × Bool :=
  match l.qual with
  | .idle =>
      if l.tracked = some l.raw then (l, false)
      else if l.inForce.filter = 0 then (l, true)
      else ({ l with qual := .qualifying l.raw 0 }, false)
  | .qualifying c h =>
      if l.raw = c then ({ l with qual := .qualifying c (h + 1) }, decide (l.inForce.filter ≤ h + 1))
      else ({ l with qual := .idle }, false)

/-- One tick at one line (R24 to R33): the sample, and the line's events of this tick in the order of R24. A disabled line only takes
the sample and the stored values. -/
def EventLine.tick (n : Fin 16) (sample : Level) (l : EventLine) : EventLine × List TickEvent :=
  let l := { l with raw := sample }
  if l.inForce.enabled then
    if l.cfg.enabled then
      let budgetChanged := l.cfg.budget ≠ l.inForce.budget
      let filterChanged := l.cfg.filter ≠ l.inForce.filter
      let edgeChanged := l.cfg.edge ≠ l.inForce.edge
      let l := if budgetChanged then l else { l with window := nextPosition l.inForce.budget l.window }
      let q := if filterChanged then (l, decide (l.cfg.filter = 0 ∧ l.tracked ≠ some sample)) else l.sample
      (q.1,
        (if budgetChanged then [.budgetChange n] else []) ++ (if filterChanged then [.filterChange n] else [])
          ++ (if edgeChanged then [.edgeSelectChange n] else []) ++ (if q.2 then [.edgeQualified n] else [])
          ++ if ¬ budgetChanged ∧ q.1.window = Config.chatterWindow then [.chatterWindowEnd n] else [])
    else (l, [.lineDisable n])
  else if l.cfg.enabled then (l, [.lineEnable n])
  else ({ l with inForce := l.cfg }, [])

/-- The part time a tick makes: one more. Part time does not wrap: at 2^64 - 1 it stays (R2; notes/assumptions/4.md). -/
def nextPartTime (t : Nat) : Nat := if t < Config.maxPartTime then t + 1 else t

/-- Counts a running pulse of an entry down (R85). -/
def Entry.countDown (e : Entry) : Entry := { e with running := e.running.map fun r => { r with left := r.left - 1 } }

/-- Counts an immediate pulse down (R115). -/
def OutLine.countDown (o : OutLine) : OutLine := { o with pulse := o.pulse.map fun q => { q with left := q.left - 1 } }

/-- Counts a session's deadline down (R188). -/
def Session.countDown (x : Session) : Session := { x with deadline := x.deadline.map fun n => n - 1 }

/-- The counters every tick moves: immediate pulses, schedule pulses, the arming timer and the deadlines (R85, R115, R148, R188). -/
def countTick (s : State) : State :=
  { s with
    outs := s.outs.map OutLine.countDown
    schedule := { s.schedule with slots := s.schedule.slots.map fun x => { x with entry := x.entry.map Entry.countDown } }
    permit := { s.permit with timer := s.permit.timer.map fun n => n - 1 }
    ports := s.ports.map fun x => { x with session := x.session.map Session.countDown } }

/-- The event inputs sampled at this tick (R25). -/
def sampleLines (s : State) : State :=
  { s with lines := Vector.ofFn fun n => ((s.line n).tick n (pinLevel s.evPins n)).1 }

/-- The line events this tick makes due, line by line (R24 to R33); `s` is the state before sampling. -/
def lineEvents (s : State) : List TickEvent := (List.finRange 16).flatMap fun n => ((s.line n).tick n (pinLevel s.evPins n)).2

/-- The captures armed before this tick (R18). -/
def captureEvents (s : State) : List TickEvent := (allPorts.filter fun p => (s.time.strobes.get p).armed).map .strobeCapture

/-- The immediate pulses that end at this tick (R115). -/
def immediateEvents (s : State) : List TickEvent :=
  ((List.finRange 8).filter fun k =>
    match (s.out k).pulse with
    | some q => q.left == 0
    | none => false).map .immediatePulseEnd

/-- The schedule pulses that end at this tick, in admission order (R85). -/
def pulseEvents (s : State) : List TickEvent :=
  (byAdmission s (slotsWhere s fun e =>
    match e.running with
    | some r => r.left == 0
    | none => false)).map .pulseEnd

/-- The entries whose due time is the part time of this tick, in due order (R82). -/
def dueEvents (s : State) : List TickEvent :=
  (byDue s (slotsWhere s fun e => e.inDueOrder && e.due == some s.time.partTime)).map .entryDue

/-- The arming timer's expiry at this tick (R148). -/
def delayEvents (s : State) : List TickEvent :=
  if s.permit.state = .arming ∧ s.permit.timer = some 0 then [.delayExpired] else []

/-- The sessions whose deadline this tick brings to 0 (R189). -/
def lapseEvents (s : State) : List TickEvent :=
  (allPorts.filter fun p =>
    match s.session p with
    | some x => x.liveness == .live && x.deadline == some 0
    | none => false).map .lapse

/-- Issues one tick: 1 leaves the accumulator, part time takes its next value, every counter and every line takes the tick, and the
events it makes due are listed. A pending step at a millisecond boundary becomes due (R1, R2, R12). The order of events that no rule
orders is the model's (notes/assumptions/3.md). -/
def issueTick (s : State) : State :=
  let t := nextPartTime s.time.partTime
  let s := s.setTime
    { s.time with partTime := t, acc := s.time.acc - 1, stepDue := decide (t % Config.boundary = 0) && s.time.step.isSome }
  let fromLines := lineEvents s
  let s := sampleLines (countTick s)
  { s with
    tickWork := s.tickWork ++ (captureEvents s ++ immediateEvents s ++ pulseEvents s ++ dueEvents s ++ fromLines ++ delayEvents s
      ++ lapseEvents s) }

/-! ### A step of part time (R12, R13) -/

/-- Refuses the step at its boundary (R12). -/
def refuseStep (x : PendingStep) (s : State) : State :=
  offer (.master x.issuer) (.time (.stepRefused x.offset)) (s.setTime { s.time with step := none, stepDue := false })

/-- Applies a step that lies in range. Validity and part time are set first, because the records of the whole application carry the
part time and the quality after the step (R8, R13, R93); the records follow in the order of R13. -/
def acceptStep (x : PendingStep) (target : Nat) (s : State) : State :=
  let b := s.time.partTime
  let marks := x.markValid && s.time.validity == .invalid
  let s := s.setTime { s.time with partTime := target, validity := if marks then .valid else s.time.validity }
  let s := abandonSlew s
  let s := scheduleStep b target s
  let s := offer (.master x.issuer) (.time (.stepApplied b)) s
  let s := if marks then levelFalls .timeInvalid (offer (.master x.issuer) (.time .markedValid) s) else s
  s.setTime { s.time with step := none, stepDue := false }

/-- STEP_APPLICATION: the step that is due is refused or applied (R12, R13). -/
def applyStep (s : State) : State :=
  match s.time.step with
  | none => s.setTime { s.time with stepDue := false }
  | some x =>
      let target := (s.time.partTime : Int) + x.offset
      if target < 0 ∨ (Config.maxPartTime : Int) < target then refuseStep x s else acceptStep x target.toNat s

/-! ### Settling -/

/-- The part's own events in the order in which it carries them out when no command says otherwise. -/
inductive DueEvent where
  | unfinished (e : TickEvent)
  | partVote
  | raise
  | tickEvent (e : TickEvent)
  | step
  | slewDone
  | tick
  deriving DecidableEq, Repr

/-- An event's place in that order: first what is left of a tick that the schedule has begun; then a changed part vote, then the raises, so
that each is taken once the event that handed it is complete and before the next (R155, R163); then the other events of the tick, a step at
its boundary (R13), SLEW_DONE and the next tick (notes/assumptions/3.md, 10.md). -/
def DueEvent.rank : DueEvent → Nat
  | .unfinished _ => 0
  | .partVote => 1
  | .raise => 2
  | .tickEvent _ => 3
  | .step => 4
  | .slewDone => 5
  | .tick => 6

/-- The first event that is due. -/
def nextEvent (s : State) : Option DueEvent :=
  match unfinished? s with
  | some e => some (.unfinished e)
  | none =>
      if s.conditions.partVote ≠ s.permit.partVote then some .partVote
      else if s.conditions.raises ≠ [] then some .raise
      else
        match s.tickWork with
        | e :: _ => some (.tickEvent e)
        | [] =>
            if s.time.stepDue then some .step
            else if slewIsDone s then some .slewDone
            else if 1 ≤ s.time.acc then some .tick
            else none

/-- Carries out one event that is due, and concludes it. -/
def carryOut (e : DueEvent) (s : State) : State :=
  conclude <| match e with
    | .unfinished e => doTickEvent (s.without e) e
    | .partVote => takePartVote s
    | .raise => takeFirstRaise s
    | .tickEvent e => doTickEvent (s.without e) e
    | .step => applyStep s
    | .slewDone => endSlew s
    | .tick => issueTick s

/-- Carries out the due events of rank below `limit`, in order, at most `fuel` of them. -/
def drain (limit : Nat) : Nat → State → State
  | 0, s => s
  | fuel + 1, s =>
      match nextEvent s with
      | none => s
      | some e => if e.rank < limit then drain limit fuel (carryOut e s) else s

/-- More events than can be due at once: what is listed, and 1000 for each tick in the accumulator and 2000 beside (a tick makes at most
225 events due, and these hand at most one raise for each of 64 entries and one for the journal). -/
def workBound (s : State) : Nat := s.tickWork.length + s.conditions.raises.length + 1000 * (s.time.acc.floor.toNat + 2)

/-- Carries out every due event of rank below `limit`. -/
def drainBelow (limit : Nat) (s : State) : State := drain limit (workBound s) s

/-! ### The reference (R4, R6) -/

/-- Whether the loss of the reference is due: LOCKED with the loss count at 100 (R4). -/
def lossIsDue (s : State) : Bool := s.time.refState == .locked && decide (Config.lossLimit ≤ s.time.lossCount)

/-- Whether a break of the reference is due: HOLDOVER, an edge has arrived, and the loss count is at 100 (R6). -/
def breakIsDue (s : State) : Bool :=
  s.time.refState == .holdover && s.time.refSeen && decide (Config.lossLimit ≤ s.time.lossCount)

/-- Whether the end of HOLDOVER is due: the exit count is at 20,000 (R6). -/
def exitIsDue (s : State) : Bool := s.time.refState == .holdover && decide (Config.exitLimit ≤ s.time.exitCount)

/-- Credits n oscillator cycles to the accumulator; a slew that reaches its amount within the credit is done there (R4). -/
def credit : Nat → State → State
  | 0, s => s
  | n + 1, s => credit n (endSlew (feed Config.oscillatorHz s))

/-- HOLDOVER_ENTERED: the gap since the last edge is credited and its ticks are issued, each with all it makes due; then the reference
state is HOLDOVER, REF_LOST is raised, and the record is offered (R4, in the order of its steps). DESIGN CHOICE (notes/assumptions/24.md):
SLEW_DONE and each credited tick are events of their own, so a JOURNAL_WITHHELD that a SLEW_DONE record of the credit hands, and the change
of part vote it causes, are taken before the credited ticks and the HOLDOVER_ENTERED record. -/
def enterHoldover (s : State) : State :=
  let s := drainBelow 7 (credit s.time.lossCount s)
  let s := s.setTime { s.time with refState := .holdover, exitCount := 0, refSeen := false }
  offer .part (.time .holdoverEntered) (handRaise .refLost s)

/-- REFERENCE_BREAK: the exit count returns to 0 and starts again at the next edge (R6). -/
def breakReference (s : State) : State := s.setTime { s.time with exitCount := 0, refSeen := false }

/-- HOLDOVER_LEFT: the reference state is LOCKED, the REF_LOST level drops and the record is offered (R6, R162). -/
def leaveHoldover (s : State) : State :=
  levelFalls .refLost (offer .part (.time .holdoverLeft) (s.setTime { s.time with refState := .locked }))

/-- Carries out the reference event that is due, if one is. -/
def takeReferenceEvent (s : State) : State :=
  if lossIsDue s then conclude (enterHoldover s)
  else if breakIsDue s then conclude (breakReference s)
  else if exitIsDue s then conclude (leaveHoldover s)
  else s

/-- Carries out everything that is due. What comes from outside is taken after this (R97, R101, R154, R163, R187: a command or a change
comes before a tick or after it with all its events). -/
def settle (s : State) : State := drainBelow 7 (takeReferenceEvent (drainBelow 7 s))

/-- Nothing is due. -/
def quiet (s : State) : Bool := (nextEvent s).isNone && !lossIsDue s && !breakIsDue s && !exitIsDue s

/-- One event that is due, if any: what the part does of itself when no command waits (notes/assumptions/1.md). -/
def idleStep (s : State) : State :=
  match nextEvent s with
  | some e => carryOut e s
  | none => takeReferenceEvent s

end Sys2Proof.Machine
end

