-- ==== Sys2Proof/Machine/Events.lean ====
section
/-! DEFINITION. The event rows of the table. An event row carries out ITS event where that event is due, after the events that the rules
place before it, and changes nothing where it is not due (notes/assumptions/2.md). Events of one tick that no rule orders can so be
taken in any order the sender names (R42); what the sender does not name, `settle` takes in the order of the list. -/

namespace Sys2Proof.Machine

/-- The answer of every meaning: the part never stops. -/
abbrev Result := Host.Outcome State Fault Refusal

/-! ### Which events of a tick come before which -/

/-- The input line an event of a tick belongs to. -/
def TickEvent.inputLine? : TickEvent → Option (Fin 16)
  | .lineEnable n => some n
  | .lineDisable n => some n
  | .filterChange n => some n
  | .edgeSelectChange n => some n
  | .budgetChange n => some n
  | .edgeQualified n => some n
  | .chatterWindowEnd n => some n
  | _ => none

/-- Whether an event of a tick can end in a firing or a pulse end on an output line. -/
def TickEvent.actsOnLines : TickEvent → Bool
  | .edgeQualified _ => true
  | .entryDue _ => true
  | .pulseEnd _ => true
  | _ => false

/-- Whether the rules place event `x`, which stands ahead in the list, before event `y`: events of one input line keep the order of R24
and R32; an immediate pulse ends before the schedule's changes (R115); pulses end in admission order, before the firings
(R85); entries fire in due order (R82). -/
def TickEvent.comesBefore (x y : TickEvent) : Bool :=
  (x.inputLine?.isSome && x.inputLine? == y.inputLine?)
    || match x, y with
       | .immediatePulseEnd _, y => y.actsOnLines
       | .pulseEnd _, .pulseEnd _ => true
       | .pulseEnd _, .entryDue _ => true
       | .entryDue _, .entryDue _ => true
       | _, _ => false

/-- Takes one event of a tick that is listed. What the events before it left due comes first: the rest of a tick that the schedule has
begun, a changed part vote and the raises handed, unless the event is itself of that rest (R163). -/
def takeListed (s : State) (e : TickEvent) : State :=
  let s := if (unfinished? s).isSome && e.isSchedules then s else drainBelow 3 s
  if e ∈ s.tickWork then conclude (doTickEvent (s.without e) e) else s

/-- Takes an event of the latest tick that is due: first the events ahead of it that the rules place before it, in order, then the event;
the others stay listed. -/
def takeTickEvent (e : TickEvent) (s : State) : State :=
  if e ∈ s.tickWork then
    takeListed (((s.tickWork.takeWhile (· ≠ e)).filter fun x => x.comesBefore e).foldl takeListed s) e
  else s

/-! ### The rows of the timebase -/

/-- REFCLK_CYCLE: a REFCLK edge returns the loss count to 0, and in LOCKED the cycle feeds the accumulator (R1, R4, R6). -/
def execRefclkCycle (s : State) : Result :=
  let s := settle s
  let s := s.setTime { s.time with lossCount := 0, refSeen := true }
  .next (conclude (if s.time.refState = .locked then feed s.time.refHz s else s))

/-- Counts one oscillator cycle since the last REFCLK edge, to 100 at most (spec 01, section 1.2). -/
def countLoss (t : Timebase) : Timebase := { t with lossCount := min (t.lossCount + 1) Config.lossLimit }

/-- The detector in HOLDOVER: an oscillator cycle adds 1 to the exit count while an edge has arrived and the loss count stays below 100
(R6). -/
def countExit (t : Timebase) : Timebase :=
  if t.refSeen ∧ t.lossCount < Config.lossLimit then { t with exitCount := min (t.exitCount + 1) Config.exitLimit } else t

/-- OSCILLATOR_CYCLE: the detector counts; in HOLDOVER the cycle feeds the accumulator with F = 20,000,000 (R4, R5, R6). -/
def execOscillatorCycle (s : State) : Result :=
  let s := settle s
  .next <| conclude <|
    match s.time.refState with
    | .locked => s.setTime (countLoss s.time)
    | .holdover =>
        let s := feed Config.oscillatorHz s
        s.setTime (countExit (countLoss s.time))

/-- TICK: the tick the accumulator holds is issued, with these levels at EV0 to EV15 (R1, R2, R25). -/
def execTick (levels : BitVec 16) (s : State) : Result :=
  if 1 ≤ s.time.acc then
    let s := drainBelow 6 s
    .next (conclude (issueTick { s with evPins := levels }))
  else .next s

/-- HOLDOVER_ENTERED (R4), with these levels at EV0 to EV15 for the ticks of the credit. -/
def execHoldoverEntered (levels : BitVec 16) (s : State) : Result :=
  if lossIsDue s then
    let s := drainBelow 7 s
    .next (conclude (enterHoldover { s with evPins := levels }))
  else .next s

/-- REFERENCE_BREAK (R6). -/
def execReferenceBreak (s : State) : Result :=
  if breakIsDue s then .next (conclude (breakReference (drainBelow 7 s))) else .next s

/-- HOLDOVER_LEFT (R6). -/
def execHoldoverLeft (s : State) : Result :=
  if exitIsDue s then .next (conclude (leaveHoldover (drainBelow 7 s))) else .next s

/-- STEP_APPLICATION (R12, R13). -/
def execStepApplication (s : State) : Result :=
  if s.time.stepDue then .next (conclude (applyStep (drainBelow 4 s))) else .next s

/-- SLEW_DONE (R16). -/
def execSlewDone (s : State) : Result :=
  if slewIsDone s then .next (conclude (endSlew (drainBelow 5 s))) else .next s

/-- STROBE_EDGE: a rising edge arms the capture of its slot; edges are ignored while RSTn is LOW (R18). -/
def execStrobeEdge (p : Port) (s : State) : Result :=
  let s := settle s
  if s.rstn = .low then .next s
  else
    .next (conclude (s.setTime { s.time with strobes := s.time.strobes.set p { s.time.strobes.get p with armed := true } }))

/-- STROBE_CAPTURE (R18, R19). -/
def execStrobeCapture (p : Port) (s : State) : Result := .next (takeTickEvent (.strobeCapture p) s)

/-! ### The rows of the event inputs -/

/-- LINE_ENABLE (R26). -/
def execLineEnable (n : Fin 16) (s : State) : Result := .next (takeTickEvent (.lineEnable n) s)

/-- LINE_DISABLE (R26). -/
def execLineDisable (n : Fin 16) (s : State) : Result := .next (takeTickEvent (.lineDisable n) s)

/-- FILTER_CHANGE (R28). -/
def execFilterChange (n : Fin 16) (s : State) : Result := .next (takeTickEvent (.filterChange n) s)

/-- EDGE_SELECT_CHANGE (R28). -/
def execEdgeSelectChange (n : Fin 16) (s : State) : Result := .next (takeTickEvent (.edgeSelectChange n) s)

/-- BUDGET_CHANGE (R33). -/
def execBudgetChange (n : Fin 16) (s : State) : Result := .next (takeTickEvent (.budgetChange n) s)

/-- EDGE_QUALIFIED (R29 to R31, R34, R91). -/
def execEdgeQualified (n : Fin 16) (s : State) : Result := .next (takeTickEvent (.edgeQualified n) s)

/-- CHATTER_WINDOW_END (R32). -/
def execChatterWindowEnd (n : Fin 16) (s : State) : Result := .next (takeTickEvent (.chatterWindowEnd n) s)

/-! ### The rows of the schedule, the lines, the permit, the conditions and the sessions -/

/-- ENTRY_DUE (R82, R97). -/
def execEntryDue (i : Fin 64) (s : State) : Result := .next (takeTickEvent (.entryDue i) s)

/-- PULSE_END (R85). -/
def execPulseEnd (i : Fin 64) (s : State) : Result := .next (takeTickEvent (.pulseEnd i) s)

/-- IMMEDIATE_PULSE_END (R115). -/
def execImmediatePulseEnd (k : Fin 8) (s : State) : Result := .next (takeTickEvent (.immediatePulseEnd k) s)

/-- DELAY_EXPIRED (R148). -/
def execDelayExpired (s : State) : Result := .next (takeTickEvent .delayExpired s)

/-- LAPSE (R189). -/
def execLapse (p : Port) (s : State) : Result := .next (takeTickEvent (.lapse p) s)

/-- PART_VOTE_CHANGE, once the event that caused it is complete (R143, R163). -/
def execPartVoteChange (s : State) : Result :=
  if s.conditions.partVote ≠ s.permit.partVote then .next (conclude (takePartVote (drainBelow 1 s))) else .next s

/-- Takes one raise after what comes before it. -/
def takeOneRaise (s : State) : State := conclude (takeFirstRaise (drainBelow 2 s))

/-- CONDITION_RAISE: the raises handed are taken in the order handed, up to and including this condition's (R163, R164). -/
def execConditionRaise (c : Condition) (s : State) : Result :=
  if c ∈ s.conditions.raises then
    .next ((List.range ((s.conditions.raises.takeWhile (· ≠ c)).length + 1)).foldl (fun s _ => takeOneRaise s) s)
  else .next s

end Sys2Proof.Machine
end

