-- ==== Sys2Proof/Machine/Ports.lean ====
section
/-! DEFINITION. How a port takes a command: acceptance of a sound frame, the common checks, the response (R177, R180, R181, R188). The
meaning of every command row goes through `onCommand`, and COMMAND_WRITE through the same `takeFrame`. -/

namespace Sys2Proof.Machine

/-- The status and the payload a command is answered with (R180). -/
structure Reply where
  status  : Status
  payload : List Byte
  deriving DecidableEq, Repr

/-- A refusal carries no payload (R180). -/
def refuse (st : Status) : Reply := { status := st, payload := [] }

/-- An OK answer. -/
def okay (payload : List Byte) : Reply := { status := .ok, payload := payload }

/-- From which sessions a command is taken: with no session open, and from a LAPSED one (R181; spec 10, section 10.2). -/
structure TakenFrom where
  noSession : Bool
  lapsed    : Bool
  deriving DecidableEq, Repr

/-- IDENTIFY and OPEN. -/
def TakenFrom.anyPort : TakenFrom := { noSession := true, lapsed := false }

/-- RENEW, KEEPALIVE, STATUS, GET_TIME, READ_JOURNAL, ACK_JOURNAL and CLOSE. -/
def TakenFrom.anySession : TakenFrom := { noSession := false, lapsed := true }

/-- Every other command. -/
def TakenFrom.liveSession : TakenFrom := { noSession := false, lapsed := false }

/-- A command's own checks, effect and answer. -/
abbrev Act := State → State × Reply

/-- What a sound frame holds: a code that names no command, a payload length its command does not allow, or a command (R181). -/
inductive FrameCommand where
  | unknown
  | badLength
  | known (from_ : TakenFrom) (act : Act)

/-- The common checks of R181, in order, and then the command's own. A refused command changes nothing (R180). -/
def commonChecks (p : Port) (c : FrameCommand) (s : State) : State × Reply :=
  match c with
  | .unknown => (s, refuse .unknown)
  | .badLength => (s, refuse .badLength)
  | .known from_ act =>
      match s.session p with
      | none => if from_.noSession then act s else (s, refuse .noSession)
      | some x => if x.liveness = .lapsed ∧ from_.lapsed = false then (s, refuse .lapsed) else act s

/-- A session's deadline as an accepted frame restarts it: 1000 times the window, for a LIVE session with a window (R188). -/
def Session.restarted (x : Session) : Session :=
  if x.liveness = .live ∧ x.window ≠ 0 then { x with deadline := some (1000 * x.window) } else x

/-- Places a response at the newest end of a port's queue (R177). -/
def respond (p : Port) (tag : Byte) (r : Reply) (s : State) : State :=
  let x := s.port p
  s.setPort p { x with queue := x.queue ++ [{ tag := tag, status := r.status, payload := r.payload }] }

/-- Takes a sound frame: with 4 responses queued it is dropped and OVERRUN is set; else it is accepted, the deadline restarts, and the
command is taken and answered (R177). -/
def takeFrame (p : Port) (tag : Byte) (c : FrameCommand) (s : State) : State :=
  let x := s.port p
  if Config.outstandingLimit ≤ x.queue.length then s.setPort p { x with overrun := true }
  else
    let r := commonChecks p c (s.modSession p Session.restarted)
    respond p tag r.2 r.1

/-- Whether a transaction of this kind can end on the port with its effect: one is in progress, or the port is IDLE and the row stands for
the whole transaction. While a discarded transaction has chip select LOW, none can (R176, R193; notes/assumptions/7.md). -/
def canEnd (kind : Transaction) (x : PortState) : Bool := x.discarded == .idle && (x.transaction == .idle || x.transaction == kind)

/-- The ready count the port shifts out during a transaction's first byte (R176). -/
def readyCount (x : PortState) : Byte := BitVec.ofNat 8 x.queue.length

/-- What the port shifts out over the `clocked` bytes of a command write or a port clear: the ready count, and 00h for every later byte
(R176). -/
def writeBytes (clocked : Nat) (x : PortState) : List Byte := readyCount x :: List.replicate (clocked - 1) 0#8

/-- Ends a command write of `clocked` bytes on the port: IDLE again (R176). -/
def endWrite (p : Port) (clocked : Nat) (s : State) : State :=
  let x := s.port p
  s.setPort p { x with transaction := .idle, shifted := writeBytes clocked x }

/-- A transaction of `clocked` bytes ends without effect: the discarded one of this kind, or a whole one while RSTn is LOW. While RSTn is LOW
the port shifts out 00h; what it shifts out of a discarded transaction once RSTn is HIGH is not stated, and not recorded (R176, R193;
notes/assumptions/7.md, 14.md). -/
def endWithoutEffect (p : Port) (kind : Transaction) (clocked : Nat) (s : State) : State :=
  let x := s.port p
  if x.discarded = .idle ∨ x.discarded = kind then
    s.setPort p { x with discarded := .idle, shifted := if s.rstn = .low then List.replicate clocked 0#8 else x.shifted }
  else s

/-- A transaction of this kind and of `clocked` bytes ends on the port, after everything that is due: with its effect, or without one while
RSTn is LOW (R193) and where a reset has discarded it (R176). -/
def endTransaction (p : Port) (kind : Transaction) (clocked : Nat) (effect : State → State) (s : State) : State :=
  let s := settle s
  if s.rstn = .low ∨ (s.port p).discarded ≠ .idle then endWithoutEffect p kind clocked s
  else if canEnd kind (s.port p) then conclude (effect s)
  else s

/-- A sound frame with a payload of `width` bytes ends on the port. -/
def onFrame (p : Port) (tag : Byte) (width : Nat) (c : FrameCommand) (s : State) : State :=
  let clocked := width + Config.frameOverhead
  endTransaction p .commandWrite clocked (fun s => takeFrame p tag c (endWrite p clocked s)) s

/-- A command row: the end of a command write whose frame is sound and carries this command in a payload of `width` bytes. -/
def onCommand (p : Port) (tag : Byte) (width : Nat) (from_ : TakenFrom) (act : Act) (s : State) : State :=
  onFrame p tag width (.known from_ act) s

/-- Runs a command's act with the session open on the port. The common checks refuse a command that needs one before this; so the other
answer is never given by a frame. -/
def withSession (p : Port) (f : Session → Act) : Act := fun s =>
  match s.session p with
  | some x => f x s
  | none => (s, refuse .noSession)

end Sys2Proof.Machine
end

