-- ==== Sys2Proof/Machine/ClaimCommands.lean ====
section
/-! DEFINITION. The commands of the claim table (spec 07): CLAIM, RELEASE, WITHDRAW and QUERY_CLAIMS. -/

namespace Sys2Proof.Machine

/-- A waiter's position, counted from 1 (R120). -/
def position (p : Port) (waiters : List Port) : Nat := waiters.idxOf p + 1

/-- The QUEUED answer: the holder and the requester's position (R196). -/
def queuedReply (holder : Port) (pos : Nat) : Reply := { status := .queued, payload := code (portCode holder) ++ code pos }

/-- A CLAIM of a resource held by another master (R122, the last four rows). -/
def claimHeld (p : Port) (r : Resource) (holder : Port) (wait : Bool) (s : State) : State × Reply :=
  let c := s.claimOf r
  if wait then
    if p ∈ c.waiters then (s, queuedReply holder (position p c.waiters))
    else (s.setClaim r { c with waiters := c.waiters ++ [p] }, queuedReply holder (c.waiters.length + 1))
  else (s, { status := .heldBy, payload := code (portCode holder) })

/-- CLAIM, by the table of R122. -/
def takeClaim (p : Port) (resource wait : Byte) : Act := fun s =>
  match resourceOf? resource, flagOf? wait with
  | some r, some w =>
      match (s.claimOf r).holder with
      | none =>
          let s := s.setClaim r { s.claimOf r with holder := some p }
          (offer (.master p) (.claimGranted r .command) s, okay (code (portCode p)))
      | some h => if h = p then (s, okay (code (portCode p))) else claimHeld p r h w s
  | _, _ => (s, refuse .badArg)

def execClaim (p : Port) (tag resource wait : Byte) (s : State) : Result :=
  .next (onCommand p tag 2 .liveSession (takeClaim p resource wait) s)

/-- RELEASE: BAD_ARG, NOT_HOLDER, else the hand-over with cause COMMAND (R124). -/
def takeRelease (p : Port) (resource : Byte) : Act := fun s =>
  match resourceOf? resource with
  | none => (s, refuse .badArg)
  | some r => if s.holds p r then (handOver p .command r s, okay []) else (s, refuse .notHolder)

def execRelease (p : Port) (tag resource : Byte) (s : State) : Result :=
  .next (onCommand p tag 1 .liveSession (takeRelease p resource) s)

/-- WITHDRAW leaves the wait list; a requester that is not in it is refused BAD_ARG (R127). -/
def takeWithdraw (p : Port) (resource : Byte) : Act := fun s =>
  match resourceOf? resource with
  | none => (s, refuse .badArg)
  | some r =>
      let c := s.claimOf r
      if p ∈ c.waiters then (s.setClaim r { c with waiters := c.waiters.filter (· ≠ p) }, okay [])
      else (s, refuse .badArg)

def execWithdraw (p : Port) (tag resource : Byte) (s : State) : Result :=
  .next (onCommand p tag 1 .liveSession (takeWithdraw p resource) s)

/-- Whether the session of a master is lapsed. -/
def isLapsed (s : State) (p : Port) : Bool :=
  match s.session p with
  | some x => x.liveness == .lapsed
  | none => false

/-- One claim record, 7 bytes (R131, R201). -/
def claimBytes (s : State) (r : Resource) : List Byte :=
  let c := s.claimOf r
  code (resourceCode r)
    ++ (match c.holder with
        | some h => code (portCode h) ++ [flagByte (isLapsed s h)]
        | none => [absentByte, absentByte])
    ++ code c.waiters.length ++ c.waiters.flatMap (fun p => code (portCode p)) ++ List.replicate (3 - c.waiters.length) absentByte

/-- QUERY_CLAIMS changes nothing (R131). -/
def takeQueryClaims (p : Port) : Act := withSession p fun _ s => (s, okay (allResources.flatMap (claimBytes s)))

def execQueryClaims (p : Port) (tag : Byte) (s : State) : Result := .next (onCommand p tag 0 .liveSession (takeQueryClaims p) s)

end Sys2Proof.Machine
end

