-- ==== Sys2Proof/Machine/ConfigCommands.lean ====
section
/-! DEFINITION. CONFIGURE, one row for each group of parameters, and READ_CONFIG (R132 to R135, R200). What a new value does is said by
the chapter of the block that uses it; each row's `store` cites it. -/

namespace Sys2Proof.Machine

/-! ### What is common to all parameters -/

/-- The identifier of a parameter: the group in the high byte, the instance in the low byte (R200). -/
def paramId (group inst : Byte) : BitVec 16 := group ++ inst

/-- One group of parameters: how its instances and its values are read, when check 4 of R132 forbids the write, the stored value as R200
encodes it, and what an accepted write stores and does. -/
structure Parameter (ι α : Type) where
  group  : Byte
  index? : Byte → Option ι
  value? : Nat → Option α
  barred : ι → α → State → Bool
  stored : ι → State → Nat
  store  : ι → α → State → State

/-- CONFIGURE of one group: the checks of R132 in order; then the CONFIG record, ahead of every record the value causes (R133); then
the value and its effect; answered with the old and the new value. -/
def Parameter.configure {ι α : Type} (x : Parameter ι α) (p : Port) (inst : Byte) (value : BitVec 32) : Act := fun s =>
  if !s.holds p .config then (s, refuse .notHolder)
  else
    match x.index? inst with
    | none => (s, refuse .badArg)
    | some i =>
        match x.value? value.toNat with
        | none => (s, refuse .badArg)
        | some v =>
            if x.barred i v s then (s, refuse .wrongState)
            else
              let old := x.stored i s
              let s := offer (.master p) (.config (paramId x.group inst) old value.toNat) s
              (x.store i v s, okay (be 4 old ++ be 4 value.toNat))

/-- READ_CONFIG of one group: the stored value of an instance the group has (R135). -/
def Parameter.read? {ι α : Type} (x : Parameter ι α) (inst : Byte) (s : State) : Option Nat := (x.index? inst).map fun i => x.stored i s

/-- A group with the single instance 00h (R200). -/
def single? (inst : Byte) : Option Unit := if inst = 0#8 then some () else none

/-- A number in a range (R200). -/
def numberIn? (low high x : Nat) : Option Nat := if low ≤ x ∧ x ≤ high then some x else none

/-- A yes or no value: 00h or 01h (R200). -/
def yesNo? (x : Nat) : Option Bool := if x = 0 then some false else if x = 1 then some true else none

def yesNoCode (b : Bool) : Nat := if b then 1 else 0

/-- A level as a value: LOW 00h, HIGH 01h (R200). -/
def levelValue? (x : Nat) : Option Level := if x = 0 then some .low else if x = 1 then some .high else none

/-- A master as an instance: A to D (R200). -/
def masterInstance? (inst : Byte) : Option Port :=
  if inst = 0#8 then some .a else if inst = 1#8 then some .b else if inst = 2#8 then some .c else if inst = 3#8 then some .d else none

def inputInstance? (inst : Byte) : Option (Fin 16) := finOf? 16 inst.toNat

def outputInstance? (inst : Byte) : Option (Fin 8) := finOf? 8 inst.toNat

/-- A write that no state of the part forbids. -/
def neverBarred {ι α : Type} (_ : ι) (_ : α) (_ : State) : Bool := false

/-- A write allowed in STOPPED only (R132, check 4). -/
def stoppedOnly {ι α : Type} (_ : ι) (_ : α) (s : State) : Bool := s.permit.state != .stopped

/-! ### The twelve groups -/

/-- REF_HZ, in force from the next REFCLK cycle (R3). -/
def paramRefHz : Parameter Unit Nat :=
  { group := 0x01#8, index? := single?, value? := numberIn? 1000000 50000000, barred := neverBarred
    stored := fun _ s => s.time.refHz
    store := fun _ v s => s.setTime { s.time with refHz := v } }

/-- Writes the stored configuration of an event input; it acts from the next tick (R24). -/
def storeLineConfig (n : Fin 16) (f : LineConfig → LineConfig) (s : State) : State := modLine n (fun l => { l with cfg := f l.cfg }) s

/-- Enabled (R24, R26). -/
def paramEnabled : Parameter (Fin 16) Bool :=
  { group := 0x02#8, index? := inputInstance?, value? := yesNo?, barred := neverBarred
    stored := fun n s => yesNoCode (s.line n).cfg.enabled
    store := fun n v => storeLineConfig n fun c => { c with enabled := v } }

/-- Edge select (R24, R28). -/
def paramEdgeSelect : Parameter (Fin 16) EdgeSelect :=
  { group := 0x03#8, index? := inputInstance?, value? := edgeSelectOf?, barred := neverBarred
    stored := fun n s => edgeSelectCode (s.line n).cfg.edge
    store := fun n v => storeLineConfig n fun c => { c with edge := v } }

/-- Filter length (R24, R28). -/
def paramFilterLength : Parameter (Fin 16) Nat :=
  { group := 0x04#8, index? := inputInstance?, value? := numberIn? 0 65535, barred := neverBarred
    stored := fun n s => (s.line n).cfg.filter
    store := fun n v => storeLineConfig n fun c => { c with filter := v } }

/-- Chatter budget (R24, R33). -/
def paramChatterBudget : Parameter (Fin 16) Nat :=
  { group := 0x05#8, index? := inputInstance?, value? := numberIn? 0 255, barred := neverBarred
    stored := fun n s => (s.line n).cfg.budget
    store := fun n v => storeLineConfig n fun c => { c with budget := v } }

/-- Quota: not below the number of entries that master owns (R77, R132). -/
def paramQuota : Parameter Port Nat :=
  { group := 0x06#8, index? := masterInstance?, value? := numberIn? 1 64
    barred := fun m v s => decide (v < owned s m)
    stored := fun m s => s.schedule.quotas.get m
    store := fun m v s => { s with schedule := { s.schedule with quotas := s.schedule.quotas.set m v } } }

/-- Late tolerance (R77, R84). -/
def paramLateTolerance : Parameter Unit Nat :=
  { group := 0x07#8, index? := single?, value? := numberIn? 0 65535, barred := neverBarred
    stored := fun _ s => s.schedule.tolerance
    store := fun _ v s => { s with schedule := { s.schedule with tolerance := v } } }

/-- Rest level, used at the next release (R113). -/
def paramRestLevel : Parameter (Fin 8) Level :=
  { group := 0x08#8, index? := outputInstance?, value? := levelValue?, barred := neverBarred
    stored := fun k s => levelCode (s.out k).rest
    store := fun k v s => s.setOut k { s.out k with rest := v } }

/-- A changed safe level: on a gated line the commanded level becomes the new safe level, and an immediate pulse, should one run, ends
(R113); on an ungated line nothing else changes. -/
def storeSafeLevel (k : Fin 8) (v : Level) (s : State) : State :=
  let o := s.out k
  if o.safe = v then s
  else if o.gated then handLevel k v (s.setOut k { o with safe := v })
  else s.setOut k { o with safe := v }

/-- Safe level (R113). -/
def paramSafeLevel : Parameter (Fin 8) Level :=
  { group := 0x09#8, index? := outputInstance?, value? := levelValue?, barred := stoppedOnly
    stored := fun k s => levelCode (s.out k).safe
    store := storeSafeLevel }

/-- A changed gated flag (R99, R113). Set: every entry on the line is cancelled with PERMIT_STOP, then the immediate pulse ends and the
commanded level is the safe level. Cleared: entries, commanded level and pulse are kept. The drive is formed as the command
concludes. -/
def storeGatedFlag (k : Fin 8) (v : Bool) (s : State) : State :=
  if (s.out k).gated = v then s
  else if v then
    let s := cancelWhere .permitStop (fun e => e.line == some k) s
    handLevel k (s.out k).safe (s.setOut k { s.out k with gated := true })
  else s.setOut k { s.out k with gated := false }

/-- Gated flag (R113). -/
def paramGatedFlag : Parameter (Fin 8) Bool :=
  { group := 0x0A#8, index? := outputInstance?, value? := yesNo?, barred := stoppedOnly
    stored := fun k s => yesNoCode (s.out k).gated
    store := storeGatedFlag }

/-- Start delay in ms, used at the next arming (R149). -/
def paramStartDelay : Parameter Unit Nat :=
  { group := 0x0B#8, index? := single?, value? := numberIn? 0 60000, barred := neverBarred
    stored := fun _ s => s.permit.startDelay
    store := fun _ v s => s.setPermit { s.permit with startDelay := v } }

/-- A changed condition action: the part vote is formed again, and the permit unit takes a change of it (R167, R168). -/
def storeConditionAction (c : Condition) (v : ConditionAction) (s : State) : State :=
  if (s.condition c).action = v then s
  else takePartVote (formPartVoteAgain (s.setCondition c { s.condition c with action := v }))

/-- Condition action (R167). -/
def paramConditionAction : Parameter Condition ConditionAction :=
  { group := 0x0C#8, index? := fun inst => conditionOf? inst.toNat, value? := conditionActionOf?, barred := stoppedOnly
    stored := fun c s => conditionActionCode (s.condition c).action
    store := storeConditionAction }

/-! ### The rows -/

def takeConfigureRefHz (p : Port) (inst : Byte) (value : BitVec 32) : Act := paramRefHz.configure p inst value

/-- CONFIGURE of REF_HZ. -/
def execConfigureRefHz (p : Port) (tag inst : Byte) (value : BitVec 32) (s : State) : Result :=
  .next (onCommand p tag 6 .liveSession (takeConfigureRefHz p inst value) s)

def takeConfigureEnabled (p : Port) (inst : Byte) (value : BitVec 32) : Act := paramEnabled.configure p inst value

/-- CONFIGURE of enabled. -/
def execConfigureEnabled (p : Port) (tag inst : Byte) (value : BitVec 32) (s : State) : Result :=
  .next (onCommand p tag 6 .liveSession (takeConfigureEnabled p inst value) s)

def takeConfigureEdgeSelect (p : Port) (inst : Byte) (value : BitVec 32) : Act := paramEdgeSelect.configure p inst value

/-- CONFIGURE of edge select. -/
def execConfigureEdgeSelect (p : Port) (tag inst : Byte) (value : BitVec 32) (s : State) : Result :=
  .next (onCommand p tag 6 .liveSession (takeConfigureEdgeSelect p inst value) s)

def takeConfigureFilterLength (p : Port) (inst : Byte) (value : BitVec 32) : Act := paramFilterLength.configure p inst value

/-- CONFIGURE of filter length. -/
def execConfigureFilterLength (p : Port) (tag inst : Byte) (value : BitVec 32) (s : State) : Result :=
  .next (onCommand p tag 6 .liveSession (takeConfigureFilterLength p inst value) s)

def takeConfigureChatterBudget (p : Port) (inst : Byte) (value : BitVec 32) : Act := paramChatterBudget.configure p inst value

/-- CONFIGURE of chatter budget. -/
def execConfigureChatterBudget (p : Port) (tag inst : Byte) (value : BitVec 32) (s : State) : Result :=
  .next (onCommand p tag 6 .liveSession (takeConfigureChatterBudget p inst value) s)

def takeConfigureQuota (p : Port) (inst : Byte) (value : BitVec 32) : Act := paramQuota.configure p inst value

/-- CONFIGURE of a quota. -/
def execConfigureQuota (p : Port) (tag inst : Byte) (value : BitVec 32) (s : State) : Result :=
  .next (onCommand p tag 6 .liveSession (takeConfigureQuota p inst value) s)

def takeConfigureLateTolerance (p : Port) (inst : Byte) (value : BitVec 32) : Act := paramLateTolerance.configure p inst value

/-- CONFIGURE of the late tolerance. -/
def execConfigureLateTolerance (p : Port) (tag inst : Byte) (value : BitVec 32) (s : State) : Result :=
  .next (onCommand p tag 6 .liveSession (takeConfigureLateTolerance p inst value) s)

def takeConfigureRestLevel (p : Port) (inst : Byte) (value : BitVec 32) : Act := paramRestLevel.configure p inst value

/-- CONFIGURE of a rest level. -/
def execConfigureRestLevel (p : Port) (tag inst : Byte) (value : BitVec 32) (s : State) : Result :=
  .next (onCommand p tag 6 .liveSession (takeConfigureRestLevel p inst value) s)

def takeConfigureSafeLevel (p : Port) (inst : Byte) (value : BitVec 32) : Act := paramSafeLevel.configure p inst value

/-- CONFIGURE of a safe level. -/
def execConfigureSafeLevel (p : Port) (tag inst : Byte) (value : BitVec 32) (s : State) : Result :=
  .next (onCommand p tag 6 .liveSession (takeConfigureSafeLevel p inst value) s)

def takeConfigureGatedFlag (p : Port) (inst : Byte) (value : BitVec 32) : Act := paramGatedFlag.configure p inst value

/-- CONFIGURE of a gated flag. -/
def execConfigureGatedFlag (p : Port) (tag inst : Byte) (value : BitVec 32) (s : State) : Result :=
  .next (onCommand p tag 6 .liveSession (takeConfigureGatedFlag p inst value) s)

def takeConfigureStartDelay (p : Port) (inst : Byte) (value : BitVec 32) : Act := paramStartDelay.configure p inst value

/-- CONFIGURE of the start delay. -/
def execConfigureStartDelay (p : Port) (tag inst : Byte) (value : BitVec 32) (s : State) : Result :=
  .next (onCommand p tag 6 .liveSession (takeConfigureStartDelay p inst value) s)

def takeConfigureConditionAction (p : Port) (inst : Byte) (value : BitVec 32) : Act := paramConditionAction.configure p inst value

/-- CONFIGURE of a condition action. -/
def execConfigureConditionAction (p : Port) (tag inst : Byte) (value : BitVec 32) (s : State) : Result :=
  .next (onCommand p tag 6 .liveSession (takeConfigureConditionAction p inst value) s)

/-! ### READ_CONFIG -/

/-- The group and the instance of an identifier (R200). -/
def groupOf (param : BitVec 16) : Byte := param.extractLsb' 8 8

def instanceOf (param : BitVec 16) : Byte := param.extractLsb' 0 8

/-- The stored value of the parameter an identifier names; none where it names none of the 99 (R135, R200). -/
def parameterValue? (param : BitVec 16) (s : State) : Option Nat :=
  let inst := instanceOf param
  match (groupOf param).toNat with
  | 0x01 => paramRefHz.read? inst s
  | 0x02 => paramEnabled.read? inst s
  | 0x03 => paramEdgeSelect.read? inst s
  | 0x04 => paramFilterLength.read? inst s
  | 0x05 => paramChatterBudget.read? inst s
  | 0x06 => paramQuota.read? inst s
  | 0x07 => paramLateTolerance.read? inst s
  | 0x08 => paramRestLevel.read? inst s
  | 0x09 => paramSafeLevel.read? inst s
  | 0x0A => paramGatedFlag.read? inst s
  | 0x0B => paramStartDelay.read? inst s
  | 0x0C => paramConditionAction.read? inst s
  | _ => none

/-- READ_CONFIG changes nothing (R135). -/
def takeReadConfig (param : BitVec 16) : Act := fun s =>
  match parameterValue? param s with
  | some v => (s, okay (be 2 param.toNat ++ be 4 v))
  | none => (s, refuse .badArg)

def execReadConfig (p : Port) (tag : Byte) (param : BitVec 16) (s : State) : Result :=
  .next (onCommand p tag 2 .liveSession (takeReadConfig param) s)

end Sys2Proof.Machine
end

