-- ==== Sys2Proof/Machine/JournalCommands.lean ====
section
/-! DEFINITION. The commands of the journal (spec 03) and of its readers (spec 04). -/

namespace Sys2Proof.Machine

/-- Whether a note's length is one POST_NOTE allows (R53). -/
def noteFits (note : List Byte) : Bool := decide (1 ≤ note.length) && decide (note.length ≤ 16)

/-- POST_NOTE offers a NOTE and answers OK with its seq, or WITHHELD (R53). -/
def takePostNote (p : Port) (note : List Byte) : Act := fun s =>
  match offerSeq s with
  | some seq => (offer (.master p) (.note note) s, okay (be 8 seq))
  | none => (offer (.master p) (.note note) s, { status := .withheld, payload := [] })

/-- A note of another length is refused BAD_LENGTH by the common checks (R53, R181). -/
def postNoteCommand (p : Port) (note : List Byte) : FrameCommand :=
  if noteFits note then .known .liveSession (takePostNote p note) else .badLength

/-- POST_NOTE as a row: the frame's payload is the note, so a note of another length is a frame of bad length. -/
def execPostNote (p : Port) (tag : Byte) (note : List Byte) (s : State) : Result :=
  .next (onFrame p tag note.length (postNoteCommand p note) s)

/-- The masters whose sessions pin the oldest record, as an origin set (R54, R201). -/
def pinnedBy (s : State) : Byte :=
  match s.journal.store with
  | [] => 0#8
  | r :: _ => allPorts.foldl (fun b p => if pinsRecord s r p then b ||| (1#8 <<< portCode p) else b) 0#8

/-- The QUERY_JOURNAL payload (R54, R201). -/
def journalBytes (s : State) : List Byte :=
  be 2 s.journal.store.length ++ be 8 (oldestSeq s) ++ be 8 (endSeq s - 1) ++ code (journalStateCode s.journal.state) ++ be 4 s.journal.withheld
    ++ [pinnedBy s]

/-- QUERY_JOURNAL changes nothing (R54). -/
def takeQueryJournal (p : Port) : Act := withSession p fun _ s => (s, okay (journalBytes s))

def execQueryJournal (p : Port) (tag : Byte) (s : State) : Result := .next (onCommand p tag 0 .liveSession (takeQueryJournal p) s)

/-- The scan of R61 over the records at and above the cursor: the matching records met, and the seq of the last record examined. It stops
once n records have matched, or at the newest record. -/
def scan (f : Filter) : Nat → List Record → List Record × Option Nat
  | 0, _ => ([], none)
  | _ + 1, [] => ([], none)
  | n + 1, r :: rest =>
      if f.accepts r then
        let x := scan f n rest
        (r :: x.1, some (x.2.getD r.seq))
      else
        let x := scan f (n + 1) rest
        (x.1, some (x.2.getD r.seq))

/-- The records a scan begins with: those at and above the cursor (R61, R71). -/
def scanStart (s : State) (x : Session) : List Record := s.journal.store.filter fun r => x.reader.cursor ≤ r.seq

/-- A reader after a read: read_mark one past the last record examined, and with commit the cursor too (R62). -/
def Reader.afterRead (r : Reader) (last : Option Nat) (commit : Bool) : Reader :=
  let mark := match last with
    | some q => q + 1
    | none => r.cursor
  { r with readMark := mark, cursor := if commit then mark else r.cursor }

/-- READ_JOURNAL: BAD_ARG for an n of 0 or above 8 or a flag out of range; else the scan, the new read_mark, and with commit the new
cursor and, once the response is formed, the re-examination (R49, R61, R62, R198). -/
def takeReadJournal (p : Port) (n commit : Byte) : Act := withSession p fun x s =>
  match flagOf? commit with
  | none => (s, refuse .badArg)
  | some c =>
      if n = 0#8 ∨ Config.readLimit < n.toNat then (s, refuse .badArg)
      else
        let found := scan x.reader.filter n.toNat (scanStart s x)
        let reader := x.reader.afterRead found.2 c
        let s := s.setSession p (some { x with reader := reader })
        let more := holdsMatch s reader.filter reader.readMark
        let reply := okay (be 1 found.1.length ++ [flagByte more] ++ be 4 reader.missed ++ found.1.flatMap recordBytes)
        (if c then reexamine s else s, reply)

def execReadJournal (p : Port) (tag n commit : Byte) (s : State) : Result :=
  .next (onCommand p tag 2 .anySession (takeReadJournal p n commit) s)

/-- ACK_JOURNAL: below the cursor nothing changes, at or above read_mark it is refused, between the cursor becomes upto + 1; an OK is
followed by the re-examination (R49, R64). -/
def takeAckJournal (p : Port) (upto : BitVec 64) : Act := withSession p fun x s =>
  if x.reader.readMark ≤ upto.toNat ∧ x.reader.cursor ≤ upto.toNat then (s, refuse .badArg)
  else if x.reader.cursor ≤ upto.toNat then
    (reexamine (s.setSession p (some { x with reader := { x.reader with cursor := upto.toNat + 1 } })), okay [])
  else (reexamine s, okay [])

def execAckJournal (p : Port) (tag : Byte) (upto : BitVec 64) (s : State) : Result :=
  .next (onCommand p tag 8 .anySession (takeAckJournal p upto) s)

/-- The target of a seek: OLDEST, NEWEST, or a seq from the oldest held to one past the newest; the seq field is 0 unless it is named
(R66, R196). -/
def seekTarget? (where_ : Byte) (seq : Nat) (s : State) : Option Nat :=
  if where_ = 2#8 then
    if oldestSeq s ≤ seq ∧ seq ≤ endSeq s then some seq else none
  else if seq = 0 then readerStart? where_ s
  else none

/-- SEEK_JOURNAL sets both positions to the target; an OK is followed by the re-examination (R49, R66). -/
def takeSeekJournal (p : Port) (where_ : Byte) (seq : BitVec 64) : Act := withSession p fun x s =>
  match seekTarget? where_ seq.toNat s with
  | some t => (reexamine (s.setSession p (some { x with reader := { x.reader with cursor := t, readMark := t } })), okay [])
  | none => (s, refuse .badArg)

def execSeekJournal (p : Port) (tag where_ : Byte) (seq : BitVec 64) (s : State) : Result :=
  .next (onCommand p tag 9 .liveSession (takeSeekJournal p where_ seq) s)

/-- SET_FILTER replaces the filter whole and sets read_mark back to the cursor; an OK is followed by the re-examination (R49, R67). -/
def takeSetFilter (p : Port) (f : Filter) : Act := withSession p fun x s =>
  if f.inRange then
    (reexamine (s.setSession p (some { x with reader := { x.reader with filter := f, readMark := x.reader.cursor } })), okay [])
  else (s, refuse .badArg)

def execSetFilter (p : Port) (tag : Byte) (kinds lines : BitVec 16) (origins : Byte) (s : State) : Result :=
  .next (onCommand p tag 5 .liveSession (takeSetFilter p { kinds := kinds, lines := lines, origins := origins }) s)

/-- SET_READER_MODE sets the mode; an OK is followed by the re-examination (R49, R68). -/
def takeSetReaderMode (p : Port) (mode : Byte) : Act := withSession p fun x s =>
  match readerModeOf? mode with
  | some m => (reexamine (s.setSession p (some { x with reader := { x.reader with mode := m } })), okay [])
  | none => (s, refuse .badArg)

def execSetReaderMode (p : Port) (tag mode : Byte) (s : State) : Result :=
  .next (onCommand p tag 1 .liveSession (takeSetReaderMode p mode) s)

/-- The number of stored records a session's reader pins (R74). -/
def pinCount (s : State) (x : Session) : Nat := (s.journal.store.filter x.pins).length

/-- The QUERY_READER payload (R74, R201). -/
def readerBytes (x : Session) (s : State) : List Byte :=
  code (readerModeCode x.reader.mode) ++ be 2 x.reader.filter.kinds.toNat ++ be 2 x.reader.filter.lines.toNat ++ [x.reader.filter.origins]
    ++ be 8 x.reader.cursor ++ be 8 x.reader.readMark ++ be 4 x.reader.missed ++ be 2 (pinCount s x)

/-- QUERY_READER changes nothing (R74). -/
def takeQueryReader (p : Port) : Act := withSession p fun x s => (s, okay (readerBytes x s))

def execQueryReader (p : Port) (tag : Byte) (s : State) : Result := .next (onCommand p tag 0 .liveSession (takeQueryReader p) s)

end Sys2Proof.Machine
end

