-- ==== Sys2Proof/Machine/OutputCommands.lean ====
section
/-! DEFINITION. The commands of the output lines (spec 06): SET_LINE and READ_OUTPUTS. -/

namespace Sys2Proof.Machine

/-- An immediate action in range: SET, CLEAR, TOGGLE, or PULSE with its level and width (R114). -/
inductive LineAction where
  | set
  | clear
  | toggle
  | pulse (level : Level) (width : Nat)
  deriving DecidableEq, Repr

/-- Check 3 of R114 on the action, the pulse level and the width; MARK is no immediate action. -/
def lineAction? (action pulseLevel : Byte) (width : BitVec 24) : Option LineAction :=
  match actionOf? action, specPulse? (action == 3#8) pulseLevel width with
  | some .set, some _ => some .set
  | some .clear, some _ => some .clear
  | some .toggle, some _ => some .toggle
  | some .pulse, some (l, w) => some (.pulse l w)
  | _, _ => none

/-- An accepted SET_LINE: the line's immediate pulse ends without its trailing level, then the action acts on the commanded level
(R114). -/
def LineAction.apply (a : LineAction) (o : OutLine) : OutLine :=
  match a with
  | .set => { o with commanded := .high, pulse := none }
  | .clear => { o with commanded := .low, pulse := none }
  | .toggle => { o with commanded := levelNot o.commanded, pulse := none }
  | .pulse l w => { o with commanded := l, pulse := some { level := l, left := w, trailing := levelNot l } }

/-- SET_LINE's effect on a line and its answer, the levels after the action (R114). -/
def actOnLine (k : Fin 8) (a : LineAction) (s : State) : State × Reply :=
  let o := (a.apply (s.out k)).formed s.permit.state
  (s.setOut k o, okay (code (levelCode o.commanded) ++ code (levelCode o.driven)))

/-- SET_LINE with the three checks of R114 in order. -/
def takeSetLine (p : Port) (line action pulseLevel : Byte) (width : BitVec 24) : Act := fun s =>
  match finOf? 8 line.toNat with
  | none => (s, refuse .badArg)
  | some k =>
      if !s.holds p (.out k) then (s, refuse .notHolder)
      else if (s.out k).gated && s.permit.state != .running then (s, refuse .wrongState)
      else
        match lineAction? action pulseLevel width with
        | none => (s, refuse .badArg)
        | some a => actOnLine k a s

def execSetLine (p : Port) (tag line action pulseLevel : Byte) (width : BitVec 24) (s : State) : Result :=
  .next (onCommand p tag 6 .liveSession (takeSetLine p line action pulseLevel width) s)

/-- A master, or FFh when there is none (R201). -/
def holderByte (h : Option Port) : Byte :=
  match h with
  | some p => BitVec.ofNat 8 (portCode p)
  | none => absentByte

/-- The number of entries in PULSING on a line (R117). -/
def pulsingOn (s : State) (k : Fin 8) : Nat := (slotsWhere s fun e => e.state == .pulsing && e.line == some k).length

/-- One line as READ_OUTPUTS reports it, 11 bytes (R117, R201). -/
def outputBytes (s : State) (k : Fin 8) : List Byte :=
  let o := s.out k
  code (levelCode o.commanded) ++ code (levelCode o.driven) ++ code (levelCode o.rest) ++ code (levelCode o.safe) ++ [flagByte o.gated]
    ++ [holderByte (s.claimOf (.out k)).holder]
    ++ (match o.pulse with
        | some q => code (levelCode q.level) ++ be 3 q.left
        | none => absentByte :: be 3 0)
    ++ code (pulsingOn s k)

/-- READ_OUTPUTS changes nothing (R117). -/
def takeReadOutputs (p : Port) : Act := withSession p fun _ s =>
  (s, okay (be 8 s.time.partTime ++ code (permitStateCode s.permit.state) ++ code (levelCode s.permit.prun) ++ code (levelCode s.permit.phold)
    ++ (List.finRange 8).flatMap (outputBytes s)))

def execReadOutputs (p : Port) (tag : Byte) (s : State) : Result := .next (onCommand p tag 0 .liveSession (takeReadOutputs p) s)

end Sys2Proof.Machine
end

