-- ==== Sys2Proof/Machine/PermitCommands.lean ====
section
/-! DEFINITION. The commands of the run permit (spec 08) and of the conditions (spec 09). -/

namespace Sys2Proof.Machine

/-- The answer of ENROLL, LEAVE and VOTE: the permit state once any change has been taken (R138 to R140, R201). -/
def permitReply (s : State) : State × Reply := (s, okay (code (permitStateCode s.permit.state)))

/-- The vote an ENROLL carries: STOP when it carries none, and none for a code the tables do not assign (R138, R196). -/
def enrollVote? (v : Option Byte) : Option Vote :=
  match v with
  | none => some .stop
  | some b => voteOf? b

/-- ENROLL: WRONG_STATE for an elector, BAD_ARG for another vote, else the record is added (R138). -/
def takeEnroll (p : Port) (v : Option Byte) : Act := fun s =>
  if isElector s p then (s, refuse .wrongState)
  else
    match enrollVote? v with
    | none => (s, refuse .badArg)
    | some w => permitReply (setElector p (some { vote := w, forced := false }) .electorate none s)

def execEnroll (p : Port) (tag : Byte) (v : Option Byte) (s : State) : Result :=
  .next (onCommand p tag v.toList.length .liveSession (takeEnroll p v) s)

/-- LEAVE: WRONG_STATE for a master that is no elector, else the record is removed (R139). -/
def takeLeave (p : Port) : Act := fun s =>
  if isElector s p then permitReply (setElector p none .electorate none s) else (s, refuse .wrongState)

def execLeave (p : Port) (tag : Byte) (s : State) : Result := .next (onCommand p tag 0 .liveSession (takeLeave p) s)

/-- VOTE: WRONG_STATE, BAD_ARG, else the vote is set and the forced mark cleared (R140). -/
def takeVote (p : Port) (v : Byte) : Act := fun s =>
  if isElector s p then
    match voteOf? v with
    | none => (s, refuse .badArg)
    | some w => permitReply (setElector p (some { vote := w, forced := false }) (.vote p w) none s)
  else (s, refuse .wrongState)

def execVote (p : Port) (tag v : Byte) (s : State) : Result := .next (onCommand p tag 1 .liveSession (takeVote p v) s)

/-- One elector's place, 4 bytes (R159, R201). -/
def electorBytes (s : State) (p : Port) : List Byte :=
  match s.permit.electors.get p with
  | none => []
  | some e =>
      code (portCode p) ++ code (voteCode e.vote)
        ++ [flagByte e.forced,
            flagByte (match s.session p with
              | some x => x.liveness == .lapsed
              | none => false)]

/-- The four elector places: the electors first, then FFh (R201). -/
def electoratePlaces (s : State) : List Byte :=
  let used := allPorts.flatMap (electorBytes s)
  used ++ List.replicate (16 - used.length) absentByte

/-- The last change as QUERY_PERMIT reports it (R159, R201). -/
def lastChangeBytes (x : Nat × PermitCause) : List Byte := be 8 x.1 ++ permitCauseBytes x.2

/-- The QUERY_PERMIT payload (R159, R201). -/
def permitBytes (s : State) : List Byte :=
  let pm := s.permit
  code (permitStateCode pm.state) ++ code (levelCode pm.prun) ++ code (levelCode pm.phold) ++ code (voteCode pm.aggregate)
    ++ code (voteCode pm.partVote) ++ code (votes pm).length ++ electoratePlaces s ++ optField 4 (pm.timer.map (be 4)) ++ be 2 pm.startDelay
    ++ optField 11 (pm.lastChange.map lastChangeBytes)

/-- QUERY_PERMIT changes nothing (R159). -/
def takeQueryPermit (p : Port) : Act := withSession p fun _ s => (s, okay (permitBytes s))

def execQueryPermit (p : Port) (tag : Byte) (s : State) : Result := .next (onCommand p tag 0 .liveSession (takeQueryPermit p) s)

/-! ### Conditions -/

/-- Clears a latched condition with its record, and the permit unit takes a changed part vote (R165, R168). -/
def clearLatch (p : Port) (c : Condition) (s : State) : State :=
  let s := s.setCondition c { s.condition c with firstLatched := none }
  let s := offer (.master p) (.conditionCleared c) s
  takePartVote (formPartVoteAgain s)

/-- The answer of CLEAR_CONDITION (R165, R201). -/
def clearReply (s : State) : State × Reply :=
  (s, okay (code (voteCode s.conditions.partVote) ++ code (permitStateCode s.permit.state)))

/-- CLEAR_CONDITION: NOT_HOLDER, BAD_ARG, WRONG_STATE, else the latch is cleared, if there is one (R165). -/
def takeClearCondition (p : Port) (condition : Byte) : Act := fun s =>
  if !isElector s p && !s.holds p .config then (s, refuse .notHolder)
  else
    match conditionOf? condition.toNat with
    | none => (s, refuse .badArg)
    | some c =>
        if isLevelCondition c && (s.condition c).active then (s, refuse .wrongState)
        else if (s.condition c).firstLatched.isSome then clearReply (clearLatch p c s)
        else clearReply s

def execClearCondition (p : Port) (tag condition : Byte) (s : State) : Result :=
  .next (onCommand p tag 1 .liveSession (takeClearCondition p condition) s)

/-- One condition, 12 bytes (R169, R201). -/
def conditionBytes (s : State) (c : Condition) : List Byte :=
  let r := s.condition c
  [flagByte r.firstLatched.isSome] ++ code (conditionActionCode r.action) ++ optField 8 (r.firstLatched.map (be 8))
    ++ [if isLevelCondition c then flagByte r.active else absentByte]

/-- QUERY_CONDITIONS changes nothing (R169). -/
def takeQueryConditions (p : Port) : Act := withSession p fun _ s =>
  (s, okay (allConditions.flatMap (conditionBytes s) ++ code (voteCode s.conditions.partVote)))

def execQueryConditions (p : Port) (tag : Byte) (s : State) : Result := .next (onCommand p tag 0 .liveSession (takeQueryConditions p) s)

end Sys2Proof.Machine
end

