-- ==== Sys2Proof/Machine/ScheduleCommands.lean ====
section
/-! DEFINITION. The commands of the schedule (spec 05): ADD_ENTRY, CANCEL_ENTRY, QUERY_ENTRY and LIST_ENTRIES. -/

namespace Sys2Proof.Machine

/-! ### Admission -/

/-- The lowest-numbered free slot (R75). -/
def lowestFree (s : State) : Option (Fin 64) := (allSlots.filter fun i => (s.entry i).isNone).head?

/-- The entry a descriptor gives, with its first anchor, due time and state (R80). -/
def newEntry (p : Port) (d : Descriptor) (x : EntrySpec) (admission partTime : Nat) : Entry :=
  { owner := p, admission := admission, descriptor := d, action := x.action, line := x.line, pulseLevel := x.pulseLevel, width := x.width
    anchor := match x.timing with
      | .absolute _ => .absolute
      | .relative _ => .relative
      | .trigger _ => .relative
    due := match x.timing with
      | .absolute t => some t
      | .relative r => boundedDue (partTime + r)
      | .trigger _ => none
    trigger := match x.timing with
      | .trigger t => some t
      | _ => none
    rearm := x.rearm, period := x.period, initial := x.count, remaining := x.count, late := x.late
    journalFlag := x.journalFlag, notifyFlag := x.notifyFlag
    state := match x.timing with
      | .trigger _ => .awaitingTrigger
      | _ => .pending
    running := none }

/-- Places an admitted entry: the slot's generation increases by 1, wrapping, and the admission counter by 1 (R75, R76). -/
def placeEntry (i : Fin 64) (e : Entry) (s : State) : State :=
  { s with
    schedule :=
      { s.schedule with
        slots := s.schedule.slots.set i { generation := (s.schedule.slots[i]).generation + 1#8, entry := some e }
        admission := s.schedule.admission + 1 } }

/-- Whether an entry has a due time at or below part time. -/
def Entry.lateAt (t : Nat) (e : Entry) : Bool :=
  match e.due with
  | some d => decide (d ≤ t)
  | none => false

/-- What follows at once from an admission: a late entry is handled (R81, R97); one whose due time would lie above 2^64 - 1 has no
next occurrence and completes (R87). -/
def afterAdmission (i : Fin 64) (e : Entry) (s : State) : State :=
  if e.state = .awaitingTrigger then s
  else if e.due.isNone then closeOccurrence i s
  else if e.lateAt s.time.partTime then takeLate s.time.partTime s i
  else s

/-- The ADD_ENTRY payload: handle, admission number, the state after admission or COMPLETED, and the due time (R80, R199). -/
def admissionBytes (h : Handle) (admission : Nat) (after : Option Entry) : List Byte :=
  handleBytes h ++ be 8 admission
    ++ match after with
       | some e => code (entryStateCode e.state) ++ optField 8 (e.due.map (be 8))
       | none => code completedCode ++ optField 8 none

/-- Admits an entry into slot `i` and answers it (R80, R81). -/
def enterEntry (p : Port) (d : Descriptor) (x : EntrySpec) (i : Fin 64) (s : State) : State × Reply :=
  let e := newEntry p d x s.schedule.admission s.time.partTime
  let s := placeEntry i e s
  let s := afterAdmission i e s
  (s, okay (admissionBytes (s.handle i) e.admission (s.entry i)))

/-- Check 1 of R79: a line action on a line the requester does not hold. -/
def lacksLine (p : Port) (d : Descriptor) (s : State) : Bool :=
  match descriptorClaimLine? d with
  | some k => !s.holds p (.out k)
  | none => false

/-- Check 2 of R79: a line action on a gated line while the permit is STOPPED or ARMING. -/
def gateShut (d : Descriptor) (s : State) : Bool :=
  match descriptorClaimLine? d with
  | some k => (s.out k).gated && (s.permit.state == .stopped || s.permit.state == .arming)
  | none => false

/-- ADD_ENTRY with the five checks of R79 in order. -/
def takeAddEntry (p : Port) (d : Descriptor) : Act := fun s =>
  if lacksLine p d s then (s, refuse .notHolder)
  else if gateShut d s then (s, refuse .wrongState)
  else
    match descriptorSpec? d with
    | none => (s, refuse .badArg)
    | some x =>
        if s.schedule.quotas.get p ≤ owned s p then (s, refuse .quota)
        else
          match lowestFree s with
          | none => (s, refuse .tableFull)
          | some i => enterEntry p d x i s

def execAddEntry (p : Port) (tag : Byte) (d : Descriptor) (s : State) : Result := .next (onCommand p tag 26 .liveSession (takeAddEntry p d) s)

/-! ### Handles -/

/-- What a handle names: nothing that could be a handle, no present entry, or an entry (R75, R101, R104). -/
inductive HandleLookup where
  | outside
  | stale
  | found (i : Fin 64) (e : Entry)

def lookUp (slot generation : Byte) (s : State) : HandleLookup :=
  match finOf? 64 slot.toNat with
  | none => .outside
  | some i =>
      match s.entry i with
      | none => .stale
      | some e => if (s.handle i).generation = generation then .found i e else .stale

/-- CANCEL_ENTRY, by the table of R101. -/
def takeCancelEntry (p : Port) (slot generation : Byte) : Act := fun s =>
  match lookUp slot generation s with
  | .outside => (s, refuse .badArg)
  | .stale => (s, refuse .staleHandle)
  | .found i e => if e.owner = p then (cancel .owner s i, okay []) else (s, refuse .notHolder)

def execCancelEntry (p : Port) (tag slot generation : Byte) (s : State) : Result :=
  .next (onCommand p tag 2 .liveSession (takeCancelEntry p slot generation) s)

/-- The QUERY_ENTRY payload of 53 bytes (R104, R199). -/
def entryBytes (h : Handle) (e : Entry) : List Byte :=
  handleBytes h ++ code (portCode e.owner) ++ be 8 e.admission ++ descriptorBytes e.descriptor ++ code (entryStateCode e.state)
    ++ code (anchorCode e.anchor) ++ code ((if e.due.isSome then 1 else 0) + (if e.remaining.isSome then 2 else 0)) ++ be 8 (e.due.getD 0)
    ++ be 2 (e.remaining.getD 0) ++ be 3 ((e.running.map RunningPulse.left).getD 0)

/-- QUERY_ENTRY changes nothing (R104). -/
def takeQueryEntry (slot generation : Byte) : Act := fun s =>
  match lookUp slot generation s with
  | .outside => (s, refuse .badArg)
  | .stale => (s, refuse .staleHandle)
  | .found i e => (s, okay (entryBytes (s.handle i) e))

def execQueryEntry (p : Port) (tag slot generation : Byte) (s : State) : Result :=
  .next (onCommand p tag 2 .liveSession (takeQueryEntry slot generation) s)

/-! ### LIST_ENTRIES -/

/-- OWN takes the requester's entries, ALL every entry (R105, R196). -/
def scopeOf? (p : Port) (b : Byte) : Option (Entry → Bool) :=
  if b = 0#8 then some fun e => e.owner == p else if b = 1#8 then some fun _ => true else none

/-- A summary of 15 bytes (R105, R199). -/
def summaryBytes (s : State) (i : Fin 64) : List Byte :=
  match s.entry i with
  | none => []
  | some e =>
      handleBytes (s.handle i) ++ code (portCode e.owner) ++ code (entryStateCode e.state) ++ code (actionCode e.action) ++ [lineByte e.line]
        ++ optField 8 (e.due.map (be 8))

/-- next_slot: one past the last summary's slot when a further slot at or above it holds an entry in scope, FFh otherwise (R105). -/
def nextSlotByte (listed rest : List (Fin 64)) : Byte :=
  match listed.getLast?, rest with
  | some i, _ :: _ => BitVec.ofNat 8 (i.val + 1)
  | _, _ => absentByte

/-- The LIST_ENTRIES payload (R105, R199). -/
def listBytes (p : Port) (test : Entry → Bool) (from_ : Nat) (s : State) : List Byte :=
  let slots := (slotsWhere s test).filter fun i => from_ ≤ i.val
  let listed := slots.take Config.listLimit
  code listed.length ++ [nextSlotByte listed (slots.drop Config.listLimit)] ++ code (freeSlots s) ++ code (owned s p)
    ++ code (s.schedule.quotas.get p) ++ listed.flatMap (summaryBytes s)

/-- LIST_ENTRIES changes nothing (R105). -/
def takeListEntries (p : Port) (scope fromSlot : Byte) : Act := fun s =>
  match scopeOf? p scope with
  | none => (s, refuse .badArg)
  | some test => if fromSlot.toNat < 64 then (s, okay (listBytes p test fromSlot.toNat s)) else (s, refuse .badArg)

def execListEntries (p : Port) (tag scope fromSlot : Byte) (s : State) : Result :=
  .next (onCommand p tag 2 .liveSession (takeListEntries p scope fromSlot) s)

end Sys2Proof.Machine
end

