-- ==== Sys2Proof/Machine/SessionCommands.lean ====
section
/-! DEFINITION. The commands of a session itself: IDENTIFY, OPEN, CLOSE, KEEPALIVE, RENEW (spec 10), STATUS and SET_ATTENTION_MASK
(spec 09). -/

namespace Sys2Proof.Machine

/-- Seven ASCII characters padded with 00h to 8 bytes (R201). -/
def ascii8 (t : String) : List Byte :=
  let cs := t.toList.map fun c => BitVec.ofNat 8 c.toNat
  cs ++ List.replicate (8 - cs.length) 0#8

/-- The IDENTIFY payload (R183, R201). -/
def identityBytes (p : Port) (s : State) : List Byte :=
  ascii8 "Oxendis" ++ ascii8 "OXT-412" ++ code 1 ++ code (portCode p) ++ [flagByte (s.session p).isSome] ++ code 4 ++ code Config.outstandingLimit
    ++ be 2 Config.payloadLimit ++ code 16 ++ code 8 ++ be 2 Config.journalCapacity ++ code Config.readLimit ++ code 64 ++ code 10 ++ code 4

/-- IDENTIFY changes nothing (R183). -/
def takeIdentify (p : Port) : Act := fun s => (s, okay (identityBytes p s))

def execIdentify (p : Port) (tag : Byte) (s : State) : Result := .next (onCommand p tag 0 .anyPort (takeIdentify p) s)

/-- Whether a window is allowed: 0, or 10 to 60,000 ms (R184). -/
def windowInRange (w : Nat) : Bool := w == 0 || (decide (10 ≤ w) && decide (w ≤ 60000))

/-- All six members of the attention set: the mask of a new session (R171). -/
def fullMask : Byte := 0x3F#8

/-- The session an OPEN begins (R58, R170, R171, R184). -/
def newSession (mode : ReaderMode) (filter : Filter) (cursor window : Nat) : Session :=
  { liveness := .live, window := window, deadline := if window = 0 then none else some (1000 * window)
    reader := { mode := mode, filter := filter, cursor := cursor, readMark := cursor, missed := 0 }
    notices := 0#8, mask := fullMask }

/-- OPEN: SESSION_OPEN with a session open, BAD_ARG for an argument out of range, else the session opens with its reader and
SESSION OPENED is offered (R58, R184). -/
def takeOpen (p : Port) (mode : Byte) (filter : Filter) (start : Byte) (window : BitVec 16) : Act := fun s =>
  if (s.session p).isSome then (s, refuse .sessionOpen)
  else
    match readerModeOf? mode, readerStart? start s with
    | some m, some cursor =>
        if filter.inRange && windowInRange window.toNat then
          let s := s.setSession p (some (newSession m filter cursor window.toNat))
          let seq := offerSeq s
          let s := offer (.master p) .sessionOpened s
          let x := ((s.session p).map Session.reader).getD (newSession m filter cursor window.toNat).reader
          (s, okay (be 8 x.cursor ++ be 8 x.readMark ++ optField 8 (seq.map (be 8))))
        else (s, refuse .badArg)
    | _, _ => (s, refuse .badArg)

def execOpenSession (p : Port) (tag mode : Byte) (kinds lines : BitVec 16) (origins start : Byte) (window : BitVec 16) (s : State) : Result :=
  .next (onCommand p tag 9 .anyPort (takeOpen p mode { kinds := kinds, lines := lines, origins := origins } start window) s)

/-- CLOSE, with cause COMMAND (R186). -/
def takeClose (p : Port) : Act := withSession p fun _ s => (closeSessionOn p .command s, okay [])

def execCloseSession (p : Port) (tag : Byte) (s : State) : Result := .next (onCommand p tag 0 .anySession (takeClose p) s)

/-- KEEPALIVE reports; the restart of the deadline is the accepted frame's (R190). -/
def takeKeepalive (p : Port) : Act := withSession p fun x s =>
  (s, okay (code (livenessCode x.liveness) ++ be 2 x.window ++ optField 4 (x.deadline.map (be 4))))

def execKeepalive (p : Port) (tag : Byte) (s : State) : Result := .next (onCommand p tag 0 .anySession (takeKeepalive p) s)

/-- A LAPSED session renewed: LIVE, with its deadline set where the window is nonzero (R191). -/
def Session.renewed (x : Session) : Session :=
  { x with liveness := .live, deadline := if x.window = 0 then none else some (1000 * x.window) }

/-- RENEW: from LAPSED the session is LIVE again and LIVENESS RENEWED is offered; from LIVE nothing more happens (R191). -/
def takeRenew (p : Port) : Act := withSession p fun x s =>
  match x.liveness with
  | .lapsed => (offer (.master p) .renewed (s.setSession p (some x.renewed)), okay (code (livenessCode .live)))
  | .live => (s, okay (code (livenessCode .live)))

def execRenew (p : Port) (tag : Byte) (s : State) : Result := .next (onCommand p tag 0 .anySession (takeRenew p) s)

/-- The set of latched conditions, bit n for condition code n (R196). -/
def latchedSet (c : Conditions) : Byte :=
  allConditions.foldl (fun b k => if (c.get k).firstLatched.isSome then b ||| (1#8 <<< conditionCode k) else b) 0#8

/-- The STATUS payload (R173, R201). -/
def statusBytes (x : Session) (s : State) : List Byte :=
  [pendingSet s x, x.mask] ++ code (livenessCode x.liveness) ++ [latchedSet s.conditions] ++ code (voteCode s.conditions.partVote)

/-- STATUS reports, and then the five latched members are removed (R173). -/
def takeStatus (p : Port) : Act := withSession p fun x s =>
  (s.setSession p (some { x with notices := 0#8 }), okay (statusBytes x s))

def execStatus (p : Port) (tag : Byte) (s : State) : Result := .next (onCommand p tag 0 .anySession (takeStatus p) s)

/-- SET_ATTENTION_MASK replaces the mask whole (R171). -/
def takeSetAttentionMask (p : Port) (mask : Byte) : Act := withSession p fun x s =>
  if maskInRange mask then (s.setSession p (some { x with mask := mask }), okay [mask, pendingSet s x])
  else (s, refuse .badArg)

def execSetAttentionMask (p : Port) (tag mask : Byte) (s : State) : Result :=
  .next (onCommand p tag 1 .liveSession (takeSetAttentionMask p mask) s)

end Sys2Proof.Machine
end

