-- ==== Sys2Proof/Machine/TimeCommands.lean ====
section
/-! DEFINITION. The commands of part time (spec 01): GET_TIME, STEP_TIME, SLEW_TIME, SET_TRIM and READ_STROBE; and READ_INPUTS of the event
inputs (spec 02). -/

namespace Sys2Proof.Machine

/-- The pending step as GET_TIME reports it (R201). -/
def pendingStepBytes (x : PendingStep) : List Byte := beInt 8 x.offset ++ [flagByte x.markValid] ++ code (portCode x.issuer)

/-- The slew in flight as GET_TIME reports it (R201). -/
def slewBytes (x : Slew) : List Byte := beInt 4 x.amount ++ be 2 x.rate ++ code (portCode x.issuer) ++ beInt 4 x.remaining

/-- The GET_TIME payload (R21, R201). -/
def timeBytes (s : State) : List Byte :=
  be 8 s.time.partTime ++ code (validityCode s.time.validity) ++ code (refStateCode s.time.refState) ++ code (qualityCode (quality s))
    ++ beInt 4 s.time.trim ++ be 4 s.time.refHz ++ optField 10 (s.time.step.map pendingStepBytes) ++ optField 11 (s.time.slew.map slewBytes)

/-- GET_TIME changes nothing (R21). -/
def takeGetTime (p : Port) : Act := withSession p fun _ s => (s, okay (timeBytes s))

def execGetTime (p : Port) (tag : Byte) (s : State) : Result := .next (onCommand p tag 0 .anySession (takeGetTime p) s)

/-- STEP_TIME's offset has a magnitude from 1 to 2^62 µs (R11). -/
def stepInRange (offset : Int) : Bool := decide (1 ≤ offset.natAbs) && decide (offset.natAbs ≤ 2 ^ 62)

/-- The STEP_REPLACED record of a step that another replaces (R11). -/
def reportReplaced (s : State) : State :=
  match s.time.step with
  | none => s
  | some x => offer (.master x.issuer) (.time (.stepReplaced x.offset x.markValid)) s

/-- STEP_TIME: NOT_HOLDER, BAD_ARG, else the step is placed in the slot, replacing one that waits; answered PENDING (R9, R11). -/
def takeStepTime (p : Port) (offset : BitVec 64) (markValid : Byte) : Act := fun s =>
  if s.holds p .time then
    match flagOf? markValid with
    | some m =>
        if stepInRange offset.toInt then
          let s := reportReplaced s
          (s.setTime { s.time with step := some { offset := offset.toInt, markValid := m, issuer := p } }, { status := .pending, payload := [] })
        else (s, refuse .badArg)
    | none => (s, refuse .badArg)
  else (s, refuse .notHolder)

def execStepTime (p : Port) (tag : Byte) (offset : BitVec 64) (markValid : Byte) (s : State) : Result :=
  .next (onCommand p tag 9 .liveSession (takeStepTime p offset markValid) s)

/-- SLEW_TIME's amount is nonzero, from -1,000,000 to +1,000,000 µs, and its rate 1 to 500 ppm (R15). -/
def slewInRange (amount : Int) (rate : Nat) : Bool :=
  decide (1 ≤ amount.natAbs) && decide (amount.natAbs ≤ 1000000) && decide (1 ≤ rate) && decide (rate ≤ 500)

/-- SLEW_TIME: NOT_HOLDER, BAD_ARG, else a slew in flight is abandoned and the new one starts (R9, R15, R17). -/
def takeSlewTime (p : Port) (amount : BitVec 32) (rate : BitVec 16) : Act := fun s =>
  if s.holds p .time then
    if slewInRange amount.toInt rate.toNat then
      let s := abandonSlew s
      let s := s.setTime { s.time with slew := some { amount := amount.toInt, rate := rate.toNat, progress := 0, issuer := p } }
      (offer (.master p) (.time (.slewStarted amount.toInt rate.toNat)) s, okay [])
    else (s, refuse .badArg)
  else (s, refuse .notHolder)

def execSlewTime (p : Port) (tag : Byte) (amount : BitVec 32) (rate : BitVec 16) (s : State) : Result :=
  .next (onCommand p tag 6 .liveSession (takeSlewTime p amount rate) s)

/-- A trim is from -500,000 to +500,000 ppb (R10). -/
def trimInRange (t : Int) : Bool := decide (t.natAbs ≤ 500000)

/-- SET_TRIM: NOT_HOLDER, BAD_ARG, else the trim is set and TRIM_SET offered (R9, R10). -/
def takeSetTrim (p : Port) (trim : BitVec 32) : Act := fun s =>
  if s.holds p .time then
    if trimInRange trim.toInt then
      let old := s.time.trim
      (offer (.master p) (.time (.trimSet old trim.toInt)) (s.setTime { s.time with trim := trim.toInt }), okay [])
    else (s, refuse .badArg)
  else (s, refuse .notHolder)

def execSetTrim (p : Port) (tag : Byte) (trim : BitVec 32) (s : State) : Result :=
  .next (onCommand p tag 4 .liveSession (takeSetTrim p trim) s)

/-- A capture as READ_STROBE reports it (R201). -/
def captureBytes (c : Capture) (overwrite : Nat) : List Byte :=
  be 8 c.time ++ code (qualityCode c.quality) ++ [flagByte c.stepPending] ++ be 1 overwrite

/-- READ_STROBE returns and empties the slot of the requester's own port, or answers EMPTY (R20). An armed capture stays armed. -/
def takeReadStrobe (p : Port) : Act := fun s =>
  let slot := s.time.strobes.get p
  match slot.captured with
  | some c =>
      (s.setTime { s.time with strobes := s.time.strobes.set p { slot with captured := none, overwrite := 0 } },
        okay (captureBytes c slot.overwrite))
  | none => (s, { status := .empty, payload := [] })

def execReadStrobe (p : Port) (tag : Byte) (s : State) : Result := .next (onCommand p tag 0 .liveSession (takeReadStrobe p) s)

/-- One line as READ_INPUTS reports it: raw level, enabled, qualifying, tracked level or FFh (R35, R201). -/
def inputBytes (l : EventLine) : List Byte :=
  code (levelCode l.raw) ++ [flagByte l.inForce.enabled, flagByte (l.qual != .idle)]
    ++ match l.tracked with
       | some v => code (levelCode v)
       | none => [absentByte]

/-- READ_INPUTS changes nothing (R35). -/
def takeReadInputs (p : Port) : Act := withSession p fun _ s =>
  (s, okay (be 8 s.time.partTime ++ s.lines.toList.flatMap inputBytes))

def execReadInputs (p : Port) (tag : Byte) (s : State) : Result := .next (onCommand p tag 0 .liveSession (takeReadInputs p) s)

end Sys2Proof.Machine
end

