-- ==== Sys2Proof/Machine/Link.lean ====
section
/-! DEFINITION. The link: the CRC, the two frames (R195), the command a frame carries (R196), and the rows TRANSACTION_START,
COMMAND_WRITE, FETCH and PORT_CLEAR (R176 to R179). -/

namespace Sys2Proof.Machine

/-! ### The CRC (R195) -/

/-- One bit enters the CRC register: it shifts left with 0 from the right, and 1021h is added where the bit shifted out differs from the
incoming bit. -/
def crcBit (r : BitVec 16) (bit : Bool) : BitVec 16 :=
  let shifted := r <<< 1
  if r.msb = bit then shifted else shifted ^^^ 0x1021#16

/-- One byte enters the register, most significant bit first. -/
def crcByte (r : BitVec 16) (b : Byte) : BitVec 16 := [7, 6, 5, 4, 3, 2, 1, 0].foldl (fun r i => crcBit r (b.getLsbD i)) r

/-- The CRC over a list of bytes: the register starts at FFFFh. -/
def crc (bytes : List Byte) : BitVec 16 := bytes.foldl crcByte 0xFFFF#16

/-- The CRC as it is sent, high byte first. -/
def crcBytes (bytes : List Byte) : List Byte := be 2 (crc bytes).toNat

/-! ### Frames (R195) -/

/-- The part of a command frame that its CRC covers: length, tag, command code, payload. -/
def frameBody (tag command : Byte) (payload : List Byte) : List Byte := be 2 payload.length ++ [tag, command] ++ payload

/-- A whole command frame: sync, body, CRC. -/
def commandFrame (tag command : Byte) (payload : List Byte) : List Byte :=
  syncByte :: (frameBody tag command payload ++ crcBytes (frameBody tag command payload))

/-- What a sound command frame holds. -/
structure Frame where
  tag     : Byte
  command : Byte
  payload : List Byte
  deriving DecidableEq, Repr

/-- The judgement of a frame: none for a bad sync, a length above 300, a number of bytes other than the length declares, or a wrong CRC
(R177, R195). -/
def readFrame? (bytes : List Byte) : Option Frame :=
  match bytes with
  | sync :: l1 :: l0 :: tag :: command :: rest =>
      let n := ofBytes [l1, l0]
      let payload := rest.take n
      if sync = syncByte ∧ n ≤ Config.payloadLimit ∧ rest.length = n + 2
          ∧ rest.drop n = crcBytes ([l1, l0, tag, command] ++ payload) then
        some { tag := tag, command := command, payload := payload }
      else none
  | _ => none

/-- The sync of a response frame. -/
def responseSync : Byte := 0x5A#8

/-- The link flags byte: bit 0 CRC_DROPPED, bit 1 OVERRUN (R195). -/
def flagsByte (x : PortState) : Byte := (if x.crcDropped then 1#8 else 0#8) ||| (if x.overrun then 2#8 else 0#8)

/-- The part of a response frame that its CRC covers: length, tag, status, link flags, payload. -/
def responseBody (flags : Byte) (r : Response) : List Byte :=
  be 2 r.payload.length ++ [r.tag] ++ code (statusCode r.status) ++ [flags] ++ r.payload

/-- A whole response frame with the flags standing when its fetch begins (R178, R195). -/
def responseFrame (flags : Byte) (r : Response) : List Byte :=
  responseSync :: (responseBody flags r ++ crcBytes (responseBody flags r))

/-- What a fetch returns from an empty queue: tag 0, status NONE, no payload (R178, R195). -/
def emptyResponse : Response := { tag := 0#8, status := .none, payload := [] }

/-! ### The command a frame carries (R196) -/

/-- Bytes `first` to `first + width - 1` of a payload. -/
def slice (first width : Nat) (payload : List Byte) : List Byte := (payload.drop first).take width

/-- A field of w bits read from a payload, most significant byte first (R196). -/
def field (w first width : Nat) (payload : List Byte) : BitVec w := BitVec.ofNat w (ofBytes (slice first width payload))

/-- One byte of a payload. -/
def byteAt (i : Nat) (payload : List Byte) : Byte := payload.getD i 0#8

/-- The descriptor of an ADD_ENTRY payload (R199). -/
def readDescriptor (x : List Byte) : Descriptor :=
  { action := byteAt 0 x, line := byteAt 1 x, pulseLevel := byteAt 2 x, width := field 24 3 3 x, timing := byteAt 6 x
    timeValue := field 64 7 8 x, trigLine := byteAt 15 x, trigEdge := byteAt 16 x, rearm := byteAt 17 x, period := field 32 18 4 x
    count := field 16 22 2 x, latePolicy := byteAt 24 x, flags := byteAt 25 x }

/-- A command whose payload must have one length (R181, check 2). -/
def ofLength (n : Nat) (payload : List Byte) (from_ : TakenFrom) (act : Act) : FrameCommand :=
  if payload.length = n then .known from_ act else .badLength

/-- CONFIGURE of an identifier that names no group: NOT_HOLDER comes first, then BAD_ARG (R132). -/
def configureNothing (p : Port) : Act := fun s => if s.holds p .config then (s, refuse .badArg) else (s, refuse .notHolder)

/-- CONFIGURE by the group of its identifier (R200). -/
def configureAct (p : Port) (group inst : Byte) (value : BitVec 32) : Act :=
  match group.toNat with
  | 0x01 => takeConfigureRefHz p inst value
  | 0x02 => takeConfigureEnabled p inst value
  | 0x03 => takeConfigureEdgeSelect p inst value
  | 0x04 => takeConfigureFilterLength p inst value
  | 0x05 => takeConfigureChatterBudget p inst value
  | 0x06 => takeConfigureQuota p inst value
  | 0x07 => takeConfigureLateTolerance p inst value
  | 0x08 => takeConfigureRestLevel p inst value
  | 0x09 => takeConfigureSafeLevel p inst value
  | 0x0A => takeConfigureGatedFlag p inst value
  | 0x0B => takeConfigureStartDelay p inst value
  | 0x0C => takeConfigureConditionAction p inst value
  | _ => configureNothing p

/-- ENROLL by its payload: empty, or one byte (R138, R196). -/
def enrollCommand (p : Port) (payload : List Byte) : FrameCommand :=
  match payload with
  | [] => .known .liveSession (takeEnroll p none)
  | [v] => .known .liveSession (takeEnroll p (some v))
  | _ => .badLength

/-- The filter of OPEN and SET_FILTER, from the byte where it begins (R196). -/
def filterAt (first : Nat) (x : List Byte) : Filter :=
  { kinds := field 16 first 2 x, lines := field 16 (first + 2) 2 x, origins := byteAt (first + 4) x }

/-- The command that a code and a payload name, by the table of R196: unknown for a code that names none, badLength for a length that the
command does not allow. -/
def frameCommand (p : Port) (command : Byte) (x : List Byte) : FrameCommand :=
  match command.toNat with
  | 0x01 => ofLength 0 x .anyPort (takeIdentify p)
  | 0x02 => ofLength 9 x .anyPort (takeOpen p (byteAt 0 x) (filterAt 1 x) (byteAt 6 x) (field 16 7 2 x))
  | 0x03 => ofLength 0 x .anySession (takeClose p)
  | 0x04 => ofLength 0 x .anySession (takeKeepalive p)
  | 0x05 => ofLength 0 x .anySession (takeRenew p)
  | 0x06 => ofLength 0 x .anySession (takeStatus p)
  | 0x07 => ofLength 1 x .liveSession (takeSetAttentionMask p (byteAt 0 x))
  | 0x10 => ofLength 0 x .anySession (takeGetTime p)
  | 0x11 => ofLength 9 x .liveSession (takeStepTime p (field 64 0 8 x) (byteAt 8 x))
  | 0x12 => ofLength 6 x .liveSession (takeSlewTime p (field 32 0 4 x) (field 16 4 2 x))
  | 0x13 => ofLength 4 x .liveSession (takeSetTrim p (field 32 0 4 x))
  | 0x14 => ofLength 0 x .liveSession (takeReadStrobe p)
  | 0x18 => ofLength 0 x .liveSession (takeReadInputs p)
  | 0x20 => postNoteCommand p x
  | 0x21 => ofLength 0 x .liveSession (takeQueryJournal p)
  | 0x22 => ofLength 2 x .anySession (takeReadJournal p (byteAt 0 x) (byteAt 1 x))
  | 0x23 => ofLength 8 x .anySession (takeAckJournal p (field 64 0 8 x))
  | 0x24 => ofLength 9 x .liveSession (takeSeekJournal p (byteAt 0 x) (field 64 1 8 x))
  | 0x25 => ofLength 5 x .liveSession (takeSetFilter p (filterAt 0 x))
  | 0x26 => ofLength 1 x .liveSession (takeSetReaderMode p (byteAt 0 x))
  | 0x27 => ofLength 0 x .liveSession (takeQueryReader p)
  | 0x30 => ofLength 26 x .liveSession (takeAddEntry p (readDescriptor x))
  | 0x31 => ofLength 2 x .liveSession (takeCancelEntry p (byteAt 0 x) (byteAt 1 x))
  | 0x32 => ofLength 2 x .liveSession (takeQueryEntry (byteAt 0 x) (byteAt 1 x))
  | 0x33 => ofLength 2 x .liveSession (takeListEntries p (byteAt 0 x) (byteAt 1 x))
  | 0x38 => ofLength 6 x .liveSession (takeSetLine p (byteAt 0 x) (byteAt 1 x) (byteAt 2 x) (field 24 3 3 x))
  | 0x39 => ofLength 0 x .liveSession (takeReadOutputs p)
  | 0x40 => ofLength 2 x .liveSession (takeClaim p (byteAt 0 x) (byteAt 1 x))
  | 0x41 => ofLength 1 x .liveSession (takeRelease p (byteAt 0 x))
  | 0x42 => ofLength 1 x .liveSession (takeWithdraw p (byteAt 0 x))
  | 0x43 => ofLength 0 x .liveSession (takeQueryClaims p)
  | 0x44 => ofLength 6 x .liveSession (configureAct p (byteAt 0 x) (byteAt 1 x) (field 32 2 4 x))
  | 0x45 => ofLength 2 x .liveSession (takeReadConfig (field 16 0 2 x))
  | 0x50 => enrollCommand p x
  | 0x51 => ofLength 0 x .liveSession (takeLeave p)
  | 0x52 => ofLength 1 x .liveSession (takeVote p (byteAt 0 x))
  | 0x53 => ofLength 0 x .liveSession (takeQueryPermit p)
  | 0x58 => ofLength 1 x .liveSession (takeClearCondition p (byteAt 0 x))
  | 0x59 => ofLength 0 x .liveSession (takeQueryConditions p)
  | _ => .unknown

/-! ### The other direction: the frame that carries a command row -/

/-- The port, the tag, the code and the payload with which a master sends a command row (R196, R199, R200); none for the rows that are no
command frames. -/
def frameFields? (i : Instr) : Option (Port × Byte × Byte × List Byte) :=
  match i with
  | .identify p t => some (p, t, 0x01#8, [])
  | .openSession p t m k l o st w => some (p, t, 0x02#8, m :: (be 2 k.toNat ++ be 2 l.toNat ++ [o, st] ++ be 2 w.toNat))
  | .closeSession p t => some (p, t, 0x03#8, [])
  | .keepalive p t => some (p, t, 0x04#8, [])
  | .renew p t => some (p, t, 0x05#8, [])
  | .status p t => some (p, t, 0x06#8, [])
  | .setAttentionMask p t m => some (p, t, 0x07#8, [m])
  | .getTime p t => some (p, t, 0x10#8, [])
  | .stepTime p t o m => some (p, t, 0x11#8, be 8 o.toNat ++ [m])
  | .slewTime p t a r => some (p, t, 0x12#8, be 4 a.toNat ++ be 2 r.toNat)
  | .setTrim p t x => some (p, t, 0x13#8, be 4 x.toNat)
  | .readStrobe p t => some (p, t, 0x14#8, [])
  | .readInputs p t => some (p, t, 0x18#8, [])
  | .postNote p t note => some (p, t, 0x20#8, note)
  | .queryJournal p t => some (p, t, 0x21#8, [])
  | .readJournal p t n c => some (p, t, 0x22#8, [n, c])
  | .ackJournal p t u => some (p, t, 0x23#8, be 8 u.toNat)
  | .seekJournal p t w q => some (p, t, 0x24#8, w :: be 8 q.toNat)
  | .setFilter p t k l o => some (p, t, 0x25#8, be 2 k.toNat ++ be 2 l.toNat ++ [o])
  | .setReaderMode p t m => some (p, t, 0x26#8, [m])
  | .queryReader p t => some (p, t, 0x27#8, [])
  | .addEntry p t d => some (p, t, 0x30#8, descriptorBytes d)
  | .cancelEntry p t i g => some (p, t, 0x31#8, [i, g])
  | .queryEntry p t i g => some (p, t, 0x32#8, [i, g])
  | .listEntries p t sc f => some (p, t, 0x33#8, [sc, f])
  | .setLine p t l a v w => some (p, t, 0x38#8, [l, a, v] ++ be 3 w.toNat)
  | .readOutputs p t => some (p, t, 0x39#8, [])
  | .claim p t r w => some (p, t, 0x40#8, [r, w])
  | .release p t r => some (p, t, 0x41#8, [r])
  | .withdraw p t r => some (p, t, 0x42#8, [r])
  | .queryClaims p t => some (p, t, 0x43#8, [])
  | .configureRefHz p t n v => some (p, t, 0x44#8, [0x01#8, n] ++ be 4 v.toNat)
  | .configureEnabled p t n v => some (p, t, 0x44#8, [0x02#8, n] ++ be 4 v.toNat)
  | .configureEdgeSelect p t n v => some (p, t, 0x44#8, [0x03#8, n] ++ be 4 v.toNat)
  | .configureFilterLength p t n v => some (p, t, 0x44#8, [0x04#8, n] ++ be 4 v.toNat)
  | .configureChatterBudget p t n v => some (p, t, 0x44#8, [0x05#8, n] ++ be 4 v.toNat)
  | .configureQuota p t n v => some (p, t, 0x44#8, [0x06#8, n] ++ be 4 v.toNat)
  | .configureLateTolerance p t n v => some (p, t, 0x44#8, [0x07#8, n] ++ be 4 v.toNat)
  | .configureRestLevel p t n v => some (p, t, 0x44#8, [0x08#8, n] ++ be 4 v.toNat)
  | .configureSafeLevel p t n v => some (p, t, 0x44#8, [0x09#8, n] ++ be 4 v.toNat)
  | .configureGatedFlag p t n v => some (p, t, 0x44#8, [0x0A#8, n] ++ be 4 v.toNat)
  | .configureStartDelay p t n v => some (p, t, 0x44#8, [0x0B#8, n] ++ be 4 v.toNat)
  | .configureConditionAction p t n v => some (p, t, 0x44#8, [0x0C#8, n] ++ be 4 v.toNat)
  | .readConfig p t x => some (p, t, 0x45#8, be 2 x.toNat)
  | .enroll p t v => some (p, t, 0x50#8, v.toList)
  | .leave p t => some (p, t, 0x51#8, [])
  | .vote p t v => some (p, t, 0x52#8, [v])
  | .queryPermit p t => some (p, t, 0x53#8, [])
  | .clearCondition p t c => some (p, t, 0x58#8, [c])
  | .queryConditions p t => some (p, t, 0x59#8, [])
  | .commandWrite _ _ => none
  | .fetch _ _ => none
  | .portClear _ => none
  | .powerOn => none
  | .rstnFall => none
  | .rstnRise => none
  | .refclkCycle => none
  | .oscillatorCycle => none
  | .tick _ => none
  | .holdoverEntered _ => none
  | .referenceBreak => none
  | .holdoverLeft => none
  | .stepApplication => none
  | .slewDone => none
  | .strobeEdge _ => none
  | .strobeCapture _ => none
  | .lineEnable _ => none
  | .lineDisable _ => none
  | .filterChange _ => none
  | .edgeSelectChange _ => none
  | .budgetChange _ => none
  | .edgeQualified _ => none
  | .chatterWindowEnd _ => none
  | .entryDue _ => none
  | .pulseEnd _ => none
  | .immediatePulseEnd _ => none
  | .delayExpired => none
  | .partVoteChange => none
  | .conditionRaise _ => none
  | .lapse _ => none
  | .transactionStart _ _ => none

/-! ### Transactions -/

/-- The kind of transaction a first byte opens (R176). -/
def kindOpened (first : Byte) : Transaction :=
  if first = fetchByte then .fetch else if first = clearByte then .portClear else .commandWrite

/-- TRANSACTION_START: the first byte is complete; the port's transaction state is the kind it opens, and the ready count has been
shifted out (R176). Begun while RSTn is LOW it is discarded, and the port shifts out 00h (R193). A port takes one transaction at a time, so
nothing comes about on a port that is in one, or whose chip select a discarded one still holds LOW. -/
def execTransactionStart (p : Port) (first : Byte) (s : State) : Result :=
  let s := settle s
  let x := s.port p
  if x.transaction ≠ .idle ∨ x.discarded ≠ .idle then .next s
  else if s.rstn = .low then .next (s.setPort p { x with discarded := kindOpened first, shifted := [0#8] })
  else .next (conclude (s.setPort p { x with transaction := kindOpened first, shifted := [readyCount x] }))

/-- A bad frame is dropped and sets CRC_DROPPED (R177, R179). -/
def dropFrame (p : Port) (s : State) : State := s.setPort p { s.port p with crcDropped := true }

/-- What a fetch of `clocked` bytes after the fetch byte shifts out after its ready count: the frame, and 00h past its end (R178). -/
def clockedOut (clocked : Nat) (frame : List Byte) : List Byte :=
  frame.take clocked ++ List.replicate (clocked - frame.length) 0#8

/-- A fetch: the oldest response, or an empty frame; when its last byte has been clocked out, the response leaves the queue and both link
flags are cleared (R178). -/
def fetchOn (p : Port) (clocked : Nat) (s : State) : State :=
  let x := s.port p
  let frame := responseFrame (flagsByte x) (x.queue.head?.getD emptyResponse)
  let shifted := readyCount x :: clockedOut clocked frame
  if frame.length ≤ clocked then
    s.setPort p { x with transaction := .idle, shifted := shifted, queue := x.queue.tail, crcDropped := false, overrun := false }
  else s.setPort p { x with transaction := .idle, shifted := shifted }

/-- A fetch ends on the port. -/
def onFetch (p : Port) (clocked : Nat) (s : State) : State := endTransaction p .fetch (clocked + 1) (fetchOn p clocked) s

/-- FETCH (R178). -/
def execFetch (p : Port) (clocked : Nat) (s : State) : Result := .next (onFetch p clocked s)

/-- A port clear, in the three steps of R179. -/
def clearPort (p : Port) (s : State) : State :=
  let x := s.port p
  let s := s.setPort p { x with transaction := .idle, shifted := writeBytes clearFrame.length x, queue := [], crcDropped := false, overrun := false }
  if (s.session p).isSome then closeSessionOn p .reset s else s

/-- A port clear ends on the port. -/
def onPortClear (p : Port) (s : State) : State := endTransaction p .portClear clearFrame.length (clearPort p) s

/-- PORT_CLEAR (R179). -/
def execPortClear (p : Port) (s : State) : Result := .next (onPortClear p s)

/-- A transaction of `clocked` bytes ends as a command write whose frame is bad. It may have opened with any byte but the fetch byte (R176, R179). -/
def onBadFrame (p : Port) (first : Byte) (clocked : Nat) (s : State) : State :=
  endTransaction p (kindOpened first) clocked (fun s => dropFrame p (endWrite p clocked s)) s

/-- COMMAND_WRITE, by the bytes the master clocked (R176, R177, R179): none has no effect; the fetch byte first is a fetch of the bytes
after it; the clear byte four times is a port clear; else the frame is judged, and dropped or taken. -/
def execCommandWrite (p : Port) (bytes : List Byte) (s : State) : Result :=
  match bytes with
  | [] => .next (settle s)
  | first :: later =>
      if first = fetchByte then .next (onFetch p later.length s)
      else if bytes = clearFrame then .next (onPortClear p s)
      else
        match readFrame? bytes with
        | some f => .next (onFrame p f.tag f.payload.length (frameCommand p f.command f.payload) s)
        | none => .next (onBadFrame p first bytes.length s)

end Sys2Proof.Machine
end

