-- ==== Sys2Proof/Machine/Resets.lean ====
section
/-! DEFINITION. POWER_ON, RSTN_FALL and RSTN_RISE: each block's own reset rule (R22, R23, R36, R37, R55 to R57, R70, R106, R107, R118, R119,
R136, R160, R161, R174, R175, R193). -/

namespace Sys2Proof.Machine

/-- A port as a reset leaves it. A transaction in progress is discarded: until its chip select rises, that it will end without effect is all
that is kept of it (R176, R193; notes/assumptions/7.md). -/
def resetPort (x : PortState) : PortState :=
  { PortState.initial with discarded := if x.transaction = .idle then x.discarded else x.transaction }

/-- POWER_ON: every block at its power-on state, with the three records of R55 and R174. What is no state of the part is kept: the levels
at the pins, the transactions whose chip select is LOW, as discarded ones, the commands waiting, and the number of free values used. -/
def execPowerOn (s : State) : Result :=
  .next { State.reset with evPins := s.evPins, ports := s.ports.map resetPort, freeUses := s.freeUses, pending := s.pending }

/-- The timebase as RSTn falls (R23). -/
def resetTime (t : Timebase) : Timebase := { t with step := none, stepDue := false, slew := none, strobes := Timebase.initial.strobes }

/-- An event input as RSTn falls: only its raw level is kept (R37). -/
def resetLine (l : EventLine) : EventLine := { EventLine.initial with raw := l.raw }

/-- The journal as RSTn falls: only the sequence counter is kept (R56). -/
def resetJournal (j : Journal) : Journal := { store := [], counter := j.counter, state := .accepting, withheld := 0 }

/-- The schedule as RSTn falls: every slot is freed and keeps its generation (R107). -/
def resetSchedule (x : Schedule) : Schedule :=
  { Schedule.initial with slots := x.slots.map fun slot => { slot with entry := none } }

/-- A condition as RSTn falls: unlatched, with action NOTE (R174). -/
def resetCondition (r : ConditionRecord) : ConditionRecord := { r with firstLatched := none, action := .note }

/-- The condition unit as RSTn falls (R174). -/
def resetConditions (c : Conditions) : Conditions :=
  { timeInvalid := resetCondition c.timeInvalid, refLost := resetCondition c.refLost, journalWithheld := resetCondition c.journalWithheld
    entryLate := resetCondition c.entryLate, partVote := .go, raises := [] }

/-- Every block as RSTn falls, without records. -/
def resetBlocks (s : State) : State :=
  { s with
    time := resetTime s.time
    lines := s.lines.map resetLine
    journal := resetJournal s.journal
    schedule := resetSchedule s.schedule
    outs := State.reset.outs
    claims := State.reset.claims
    permit := Permit.initial
    conditions := resetConditions s.conditions
    ports := s.ports.map resetPort
    rstn := .low
    tickWork := []
    tickStage := .apart }

/-- RSTN_FALL, after everything that is due (R193). A line that is LOW already does not fall. -/
def execRstnFall (s : State) : Result :=
  let s := settle s
  if s.rstn = .low then .next s else .next (resetBlocks s)

/-- Sets the active flags of the level conditions from validity and the reference state (R162, R174). -/
def setActiveFlags (s : State) : State :=
  { s with
    conditions :=
      { s.conditions with
        timeInvalid := { s.conditions.timeInvalid with active := s.time.validity == .invalid }
        refLost := { s.conditions.refLost with active := s.time.refState == .holdover } } }

/-- Raises a level condition that is active (R174). -/
def raiseIfActive (c : Condition) (s : State) : State := if (s.condition c).active then raiseCondition c s else s

/-- What follows as RSTn returns HIGH: RESTART(RESET_LINE), the active flags, and the two level conditions in order (R57, R174). -/
def afterReset (s : State) : State :=
  raiseIfActive .refLost (raiseIfActive .timeInvalid (setActiveFlags (offer .part (.restart .resetLine) s)))

/-- RSTN_RISE, after everything that is due (R57, R174). A line that is HIGH already does not rise. -/
def execRstnRise (s : State) : Result :=
  let s := settle s
  if s.rstn = .high then .next s else .next (conclude (afterReset { s with rstn := .high }))

end Sys2Proof.Machine
end

