-- ==== Sys2Proof/Machine/Dispatch.lean ====
section
/-! DEFINITION. One arm for each row of the table; each calls that row's meaning. -/

namespace Sys2Proof.Machine

def exec (i : Instr) (s : State) : Host.Outcome State Fault Refusal :=
  match i with
  | .identify p tag => Sys2Proof.Machine.execIdentify p tag s
  | .openSession p tag mode kinds lines origins start window => Sys2Proof.Machine.execOpenSession p tag mode kinds lines origins start window s
  | .closeSession p tag => Sys2Proof.Machine.execCloseSession p tag s
  | .keepalive p tag => Sys2Proof.Machine.execKeepalive p tag s
  | .renew p tag => Sys2Proof.Machine.execRenew p tag s
  | .status p tag => Sys2Proof.Machine.execStatus p tag s
  | .setAttentionMask p tag mask => Sys2Proof.Machine.execSetAttentionMask p tag mask s
  | .getTime p tag => Sys2Proof.Machine.execGetTime p tag s
  | .stepTime p tag offset markValid => Sys2Proof.Machine.execStepTime p tag offset markValid s
  | .slewTime p tag amount rate => Sys2Proof.Machine.execSlewTime p tag amount rate s
  | .setTrim p tag trim => Sys2Proof.Machine.execSetTrim p tag trim s
  | .readStrobe p tag => Sys2Proof.Machine.execReadStrobe p tag s
  | .readInputs p tag => Sys2Proof.Machine.execReadInputs p tag s
  | .postNote p tag note => Sys2Proof.Machine.execPostNote p tag note s
  | .queryJournal p tag => Sys2Proof.Machine.execQueryJournal p tag s
  | .readJournal p tag n commit => Sys2Proof.Machine.execReadJournal p tag n commit s
  | .ackJournal p tag upto => Sys2Proof.Machine.execAckJournal p tag upto s
  | .seekJournal p tag where_ seq => Sys2Proof.Machine.execSeekJournal p tag where_ seq s
  | .setFilter p tag kinds lines origins => Sys2Proof.Machine.execSetFilter p tag kinds lines origins s
  | .setReaderMode p tag mode => Sys2Proof.Machine.execSetReaderMode p tag mode s
  | .queryReader p tag => Sys2Proof.Machine.execQueryReader p tag s
  | .addEntry p tag d => Sys2Proof.Machine.execAddEntry p tag d s
  | .cancelEntry p tag slot generation => Sys2Proof.Machine.execCancelEntry p tag slot generation s
  | .queryEntry p tag slot generation => Sys2Proof.Machine.execQueryEntry p tag slot generation s
  | .listEntries p tag scope fromSlot => Sys2Proof.Machine.execListEntries p tag scope fromSlot s
  | .setLine p tag line action pulseLevel width => Sys2Proof.Machine.execSetLine p tag line action pulseLevel width s
  | .readOutputs p tag => Sys2Proof.Machine.execReadOutputs p tag s
  | .claim p tag resource wait => Sys2Proof.Machine.execClaim p tag resource wait s
  | .release p tag resource => Sys2Proof.Machine.execRelease p tag resource s
  | .withdraw p tag resource => Sys2Proof.Machine.execWithdraw p tag resource s
  | .queryClaims p tag => Sys2Proof.Machine.execQueryClaims p tag s
  | .configureRefHz p tag inst value => Sys2Proof.Machine.execConfigureRefHz p tag inst value s
  | .configureEnabled p tag inst value => Sys2Proof.Machine.execConfigureEnabled p tag inst value s
  | .configureEdgeSelect p tag inst value => Sys2Proof.Machine.execConfigureEdgeSelect p tag inst value s
  | .configureFilterLength p tag inst value => Sys2Proof.Machine.execConfigureFilterLength p tag inst value s
  | .configureChatterBudget p tag inst value => Sys2Proof.Machine.execConfigureChatterBudget p tag inst value s
  | .configureQuota p tag inst value => Sys2Proof.Machine.execConfigureQuota p tag inst value s
  | .configureLateTolerance p tag inst value => Sys2Proof.Machine.execConfigureLateTolerance p tag inst value s
  | .configureRestLevel p tag inst value => Sys2Proof.Machine.execConfigureRestLevel p tag inst value s
  | .configureSafeLevel p tag inst value => Sys2Proof.Machine.execConfigureSafeLevel p tag inst value s
  | .configureGatedFlag p tag inst value => Sys2Proof.Machine.execConfigureGatedFlag p tag inst value s
  | .configureStartDelay p tag inst value => Sys2Proof.Machine.execConfigureStartDelay p tag inst value s
  | .configureConditionAction p tag inst value => Sys2Proof.Machine.execConfigureConditionAction p tag inst value s
  | .readConfig p tag param => Sys2Proof.Machine.execReadConfig p tag param s
  | .enroll p tag vote => Sys2Proof.Machine.execEnroll p tag vote s
  | .leave p tag => Sys2Proof.Machine.execLeave p tag s
  | .vote p tag v => Sys2Proof.Machine.execVote p tag v s
  | .queryPermit p tag => Sys2Proof.Machine.execQueryPermit p tag s
  | .clearCondition p tag condition => Sys2Proof.Machine.execClearCondition p tag condition s
  | .queryConditions p tag => Sys2Proof.Machine.execQueryConditions p tag s
  | .commandWrite p bytes => Sys2Proof.Machine.execCommandWrite p bytes s
  | .fetch p clocked => Sys2Proof.Machine.execFetch p clocked s
  | .portClear p => Sys2Proof.Machine.execPortClear p s
  | .powerOn => Sys2Proof.Machine.execPowerOn s
  | .rstnFall => Sys2Proof.Machine.execRstnFall s
  | .rstnRise => Sys2Proof.Machine.execRstnRise s
  | .refclkCycle => Sys2Proof.Machine.execRefclkCycle s
  | .oscillatorCycle => Sys2Proof.Machine.execOscillatorCycle s
  | .tick levels => Sys2Proof.Machine.execTick levels s
  | .holdoverEntered levels => Sys2Proof.Machine.execHoldoverEntered levels s
  | .referenceBreak => Sys2Proof.Machine.execReferenceBreak s
  | .holdoverLeft => Sys2Proof.Machine.execHoldoverLeft s
  | .stepApplication => Sys2Proof.Machine.execStepApplication s
  | .slewDone => Sys2Proof.Machine.execSlewDone s
  | .strobeEdge p => Sys2Proof.Machine.execStrobeEdge p s
  | .strobeCapture p => Sys2Proof.Machine.execStrobeCapture p s
  | .lineEnable n => Sys2Proof.Machine.execLineEnable n s
  | .lineDisable n => Sys2Proof.Machine.execLineDisable n s
  | .filterChange n => Sys2Proof.Machine.execFilterChange n s
  | .edgeSelectChange n => Sys2Proof.Machine.execEdgeSelectChange n s
  | .budgetChange n => Sys2Proof.Machine.execBudgetChange n s
  | .edgeQualified n => Sys2Proof.Machine.execEdgeQualified n s
  | .chatterWindowEnd n => Sys2Proof.Machine.execChatterWindowEnd n s
  | .entryDue slot => Sys2Proof.Machine.execEntryDue slot s
  | .pulseEnd slot => Sys2Proof.Machine.execPulseEnd slot s
  | .immediatePulseEnd line => Sys2Proof.Machine.execImmediatePulseEnd line s
  | .delayExpired => Sys2Proof.Machine.execDelayExpired s
  | .partVoteChange => Sys2Proof.Machine.execPartVoteChange s
  | .conditionRaise c => Sys2Proof.Machine.execConditionRaise c s
  | .lapse p => Sys2Proof.Machine.execLapse p s
  | .transactionStart p firstByte => Sys2Proof.Machine.execTransactionStart p firstByte s

end Sys2Proof.Machine
end

