-- ==== Sys2Proof/Safety.lean ====
section
/-! DEFINITION. What the claims speak of: when a port can take a frame at once, what a command or an event changed, and the invariants that
every step keeps. -/

namespace Sys2Proof.Machine

/-! ### Frames: what stays as it was -/

/-- The fields of State; the events of the latest tick with the mark of the schedule's go as one. -/
inductive Block where
  | time
  | evPins
  | lines
  | journal
  | schedule
  | outs
  | claims
  | permit
  | conditions
  | ports
  | rstn
  | tickWork
  | freeUses
  | pending
  deriving DecidableEq, Repr

/-- Two states agree on a field. -/
def Block.same (b : Block) (s t : State) : Prop :=
  match b with
  | .time => t.time = s.time
  | .evPins => t.evPins = s.evPins
  | .lines => t.lines = s.lines
  | .journal => t.journal = s.journal
  | .schedule => t.schedule = s.schedule
  | .outs => t.outs = s.outs
  | .claims => t.claims = s.claims
  | .permit => t.permit = s.permit
  | .conditions => t.conditions = s.conditions
  | .ports => t.ports = s.ports
  | .rstn => t.rstn = s.rstn
  | .tickWork => (t.tickWork, t.tickStage) = (s.tickWork, s.tickStage)
  | .freeUses => t.freeUses = s.freeUses
  | .pending => t.pending = s.pending

/-- Every field but those listed is as it was. -/
def Unchanged (changed : List Block) (s t : State) : Prop := ∀ b, b ∉ changed → b.same s t

/-- The ports' links are as they were: transaction, discarded transaction, queue, flags and what was shifted out. Sessions and ATN
lines are not spoken of. -/
def SameLinks (s t : State) : Prop :=
  ∀ p, (t.port p).transaction = (s.port p).transaction ∧ (t.port p).discarded = (s.port p).discarded ∧ (t.port p).queue = (s.port p).queue
    ∧ (t.port p).crcDropped = (s.port p).crcDropped ∧ (t.port p).overrun = (s.port p).overrun ∧ (t.port p).shifted = (s.port p).shifted

/-! ### When a command or an event is taken at once -/

/-- A transaction of this kind can end on the port with its effect: it is IDLE, and the row stands for the whole transaction
(notes/assumptions/7.md), or the transaction in progress is of this kind (R176); and no discarded one holds chip select LOW (R193). -/
def CanEnd (s : State) (p : Port) (kind : Transaction) : Prop :=
  (s.port p).discarded = .idle ∧ ((s.port p).transaction = .idle ∨ (s.port p).transaction = kind)

/-- The port can take a frame at once: nothing is due, RSTn is HIGH, a command write can end on it and fewer than 4 responses
wait (R176, R177). -/
structure Ready (s : State) (p : Port) : Prop where
  calm : quiet s = true
  rstn : s.rstn = .high
  free : CanEnd s p .commandWrite
  room : (s.port p).queue.length < 4

/-- A session is open on the port and LIVE. -/
structure OpenLive (s : State) (p : Port) (x : Session) : Prop where
  isOpen : s.session p = some x
  live   : x.liveness = .live

/-- The next n offers are stored: RSTn is HIGH, and the journal is ACCEPTING with room (R43). -/
structure RoomFor (n : Nat) (s : State) : Prop where
  rstn      : s.rstn = .high
  accepting : s.journal.state = .accepting
  room      : s.journal.store.length + n ≤ 512

/-- ATN levels and line drives are as the rules form them from the state; the drives once the pulse ends and firings of a tick are all carried
out, where they have begun (R109, R172). -/
def LevelsFormed (s : State) : Prop := formAtn s = s ∧ (s.rstn = .high → tickOpen s = false → formDrives s = s)

/-! ### What a command did -/

/-- Consecutive records of one moment, from a seq on (R39, R41). -/
def recordsFrom (time : Nat) (q : Quality) : Nat → List (Origin × Body) → List Record
  | _, [] => []
  | seq, (o, b) :: rest => { seq := seq, time := time, quality := q, origin := o, body := b } :: recordsFrom time q (seq + 1) rest

/-- A journal with these records stored at its newest end, in order, timed and qualified as given (R39, R41, R43). -/
def Journal.storing (j : Journal) (time : Nat) (q : Quality) (l : List (Origin × Body)) : Journal :=
  { j with store := j.store ++ recordsFrom time q j.counter l, counter := j.counter + l.length }

/-- The journal stored exactly these records. -/
def Stored (s t : State) (time : Nat) (q : Quality) (l : List (Origin × Body)) : Prop := t.journal = s.journal.storing time q l

/-- A port whose frame of `clocked` bytes was answered: IDLE, the ready count and 00h for each later byte shifted out, one more response, and
the session given. The ATN line is as the state after it forms it. -/
def answeredPort (x : PortState) (clocked : Nat) (tag : Byte) (st : Status) (payload : List Byte) (session : Option Session) : PortState :=
  { x with
    transaction := .idle
    shifted := readyCount x :: List.replicate (clocked - 1) 0#8
    queue := x.queue ++ [{ tag := tag, status := st, payload := payload }]
    session := session }

/-- The command row was answered so, left its port's session so, and changed no other port but for its ATN line. -/
def Answered (s t : State) (i : Instr) (st : Status) (payload : List Byte) (session : Option Session) : Prop :=
  match frameFields? i with
  | none => False
  | some (p, tag, _, sent) =>
      ∀ q, t.port q
        = { (if q = p then answeredPort (s.port p) (sent.length + 7) tag st payload session else s.port q) with atn := atnLevel t q }

/-- The state with a frame of `clocked` bytes on port p answered so and nothing else changed, but for the restarted deadline of its
session. -/
def answeredFrame (s : State) (p : Port) (clocked : Nat) (tag : Byte) (st : Status) (payload : List Byte) : State :=
  s.setPort p (answeredPort (s.port p) clocked tag st payload ((s.session p).map Session.restarted))

/-- The state with a command row answered so and nothing else changed, but for the restarted deadline of its port's session. -/
def answeredOnly (s : State) (i : Instr) (st : Status) (payload : List Byte) : State :=
  match frameFields? i with
  | none => s
  | some (p, tag, _, sent) => answeredFrame s p (sent.length + 7) tag st payload

/-- The command is answered so and changes nothing else, but for the restarted deadline. -/
def Answers (s : State) (i : Instr) (st : Status) (payload : List Byte) : Prop := exec i s = .next (answeredOnly s i st payload)

/-- The command is refused with this status: no payload, and nothing changes but the restarted deadline (R180). -/
def Refuses (s : State) (i : Instr) (st : Status) : Prop := Answers s i st []

/-- The commands of R196: the code, and the least and the greatest payload the command allows, in bytes. -/
def commandLengths : List (Byte × Nat × Nat) :=
  [(0x01#8, 0, 0), (0x02#8, 9, 9), (0x03#8, 0, 0), (0x04#8, 0, 0), (0x05#8, 0, 0), (0x06#8, 0, 0), (0x07#8, 1, 1), (0x10#8, 0, 0),
   (0x11#8, 9, 9), (0x12#8, 6, 6), (0x13#8, 4, 4), (0x14#8, 0, 0), (0x18#8, 0, 0), (0x20#8, 1, 16), (0x21#8, 0, 0), (0x22#8, 2, 2),
   (0x23#8, 8, 8), (0x24#8, 9, 9), (0x25#8, 5, 5), (0x26#8, 1, 1), (0x27#8, 0, 0), (0x30#8, 26, 26), (0x31#8, 2, 2), (0x32#8, 2, 2),
   (0x33#8, 2, 2), (0x38#8, 6, 6), (0x39#8, 0, 0), (0x40#8, 2, 2), (0x41#8, 1, 1), (0x42#8, 1, 1), (0x43#8, 0, 0), (0x44#8, 6, 6),
   (0x45#8, 2, 2), (0x50#8, 0, 1), (0x51#8, 0, 0), (0x52#8, 1, 1), (0x53#8, 0, 0), (0x58#8, 1, 1), (0x59#8, 0, 0)]

/-- The widths of the payloads that commands answered OK carry, by command code: the least and the greatest, in bytes (R198 to R201). The
commands that are not listed carry none. -/
def okWidths : List (Byte × Nat × Nat) :=
  [(0x01#8, 31, 31), (0x02#8, 25, 25), (0x04#8, 8, 8), (0x05#8, 1, 1), (0x06#8, 5, 5), (0x07#8, 2, 2), (0x10#8, 42, 42), (0x14#8, 11, 11),
   (0x18#8, 72, 72), (0x20#8, 8, 8), (0x21#8, 24, 24), (0x22#8, 6, 294), (0x27#8, 28, 28), (0x30#8, 20, 20), (0x32#8, 53, 53), (0x33#8, 5, 245),
   (0x38#8, 2, 2), (0x39#8, 99, 99), (0x40#8, 1, 1), (0x43#8, 70, 70), (0x44#8, 8, 8), (0x45#8, 6, 6), (0x50#8, 1, 1), (0x51#8, 1, 1),
   (0x52#8, 1, 1), (0x53#8, 41, 41), (0x58#8, 2, 2), (0x59#8, 49, 49)]

/-- Fields of a payload, each a width in bytes and a number, most significant byte first (R196, R201). -/
def fields (l : List (Nat × Nat)) : List Byte := l.flatMap fun x => be x.1 x.2

/-- An optional group of fields, `width` bytes wide: a presence byte 01h and the fields, or 00h and zeros (R201). -/
def optionalFields {α : Type} (width : Nat) (x : Option α) (l : α → List (Nat × Nat)) : List (Nat × Nat) :=
  match x with
  | some y => (1, 1) :: l y
  | none => [(1, 0), (width, 0)]

/-- The twelve groups of R200: the row, its number of instances, its values, and whether it is written in STOPPED only (R132). -/
def configureRows : List ((Port → Byte → Byte → BitVec 32 → Instr) × Nat × (Nat → Bool) × Bool) :=
  [(.configureRefHz, 1, fun v => decide (1000000 ≤ v ∧ v ≤ 50000000), false),
   (.configureEnabled, 16, fun v => decide (v ≤ 1), false),
   (.configureEdgeSelect, 16, fun v => decide (v ≤ 2), false),
   (.configureFilterLength, 16, fun v => decide (v ≤ 65535), false),
   (.configureChatterBudget, 16, fun v => decide (v ≤ 255), false),
   (.configureQuota, 4, fun v => decide (1 ≤ v ∧ v ≤ 64), false),
   (.configureLateTolerance, 1, fun v => decide (v ≤ 65535), false),
   (.configureRestLevel, 8, fun v => decide (v ≤ 1), false),
   (.configureSafeLevel, 8, fun v => decide (v ≤ 1), true),
   (.configureGatedFlag, 8, fun v => decide (v ≤ 1), true),
   (.configureStartDelay, 1, fun v => decide (v ≤ 60000), false),
   (.configureConditionAction, 4, fun v => decide (v ≤ 1), true)]

/-! ### Events -/

/-- An event of the latest tick that is due, with no event ahead of it in the list that the rules place before it (R24, R82, R85, R115), and
with neither a change of part vote, nor a raise, nor the rest of the schedule's tick to be taken first (R163). -/
structure Due (s : State) (e : TickEvent) : Prop where
  listed : e ∈ s.tickWork
  first  : ∀ x ∈ s.tickWork.takeWhile (· ≠ e), x.comesBefore e = false
  clear  : ((unfinished? s).isSome = true ∧ e.isSchedules = true)
    ∨ (unfinished? s = none ∧ s.conditions.partVote = s.permit.partVote ∧ s.conditions.raises = [])

/-- The row of the table that names an event of a tick. -/
def tickRow : TickEvent → Instr
  | .strobeCapture p => .strobeCapture p
  | .lineEnable n => .lineEnable n
  | .lineDisable n => .lineDisable n
  | .filterChange n => .filterChange n
  | .edgeSelectChange n => .edgeSelectChange n
  | .budgetChange n => .budgetChange n
  | .edgeQualified n => .edgeQualified n
  | .chatterWindowEnd n => .chatterWindowEnd n
  | .entryDue i => .entryDue i
  | .pulseEnd i => .pulseEnd i
  | .immediatePulseEnd k => .immediatePulseEnd k
  | .delayExpired => .delayExpired
  | .lapse p => .lapse p

/-- What one cycle of a source of frequency F feeds: the increment of R1 with the slew correction s of +rate or -rate, or, where the
full share would carry the progress past the amount, what brings the progress to it exactly (R16). -/
def Fed (F : Nat) (a b : Timebase) : Prop :=
  match a.slew with
  | none => b.acc = a.acc + (1000000 / (F : Rat)) * (1 + (a.trim : Rat) / 1000000000) ∧ b.slew = none
  | some x =>
      let sign : Rat := if 0 ≤ x.amount then 1 else -1
      if (x.rate : Rat) / F ≤ (x.amount.natAbs : Rat) - x.progress then
        b.acc = a.acc + (1000000 / (F : Rat)) * (1 + (a.trim : Rat) / 1000000000 + sign * (x.rate : Rat) / 1000000)
          ∧ b.slew = some { x with progress := x.progress + (x.rate : Rat) / F }
      else
        b.acc = a.acc + (1000000 / (F : Rat)) * (1 + (a.trim : Rat) / 1000000000) + sign * ((x.amount.natAbs : Rat) - x.progress)
          ∧ b.slew = some { x with progress := (x.amount.natAbs : Rat) }

/-- The permit unit once it has formed the aggregate again over a changed electorate or part vote, at a part time and for a cause
(R144 to R148, R150, R156). -/
def permitAfter (pm : Permit) (time : Nat) (cause : PermitCause) : Permit :=
  let aggregate := formAggregate pm
  let new := nextPermitState pm.state aggregate pm.startDelay
  if aggregate = pm.aggregate then pm
  else if new = pm.state then { pm with aggregate := aggregate }
  else
    { pm with
      aggregate := aggregate, state := new
      timer := if new = .arming then some (1000 * pm.startDelay) else none
      lastChange := some (time, cause)
      prun := levelOfBool (new == .running), phold := levelOfBool (new == .held) }

/-! ### Entries in order -/

/-- L lists the slots of the entries that meet a test, each once, in the order given. -/
def Listed (s : State) (test : Entry → Prop) (before : Entry → Entry → Prop) (L : List (Fin 64)) : Prop :=
  (∀ i, i ∈ L ↔ ∃ e, s.entry i = some e ∧ test e)
    ∧ L.Pairwise fun i j => ∀ e f, s.entry i = some e → s.entry j = some f → before e f

/-- Admission order (R76). -/
def admittedBefore (e f : Entry) : Prop := e.admission < f.admission

/-- Due order: by due time, and among equal due times by admission number (R82, R90). -/
def dueBefore (e f : Entry) : Prop :=
  ∃ d d', e.due = some d ∧ f.due = some d' ∧ (d < d' ∨ (d = d' ∧ e.admission < f.admission))

/-- Every entry put in place of itself by a function, which may free its slot; the generations stay. -/
def State.mapEntries (s : State) (f : Entry → Option Entry) : State :=
  { s with schedule := { s.schedule with slots := s.schedule.slots.map fun x => { x with entry := x.entry.bind f } } }

/-- The CANCELLED records of the entries in these slots, with a cause (R100). -/
def cancelRecords (s : State) (cause : CancelCause) (L : List (Fin 64)) : List (Origin × Body) :=
  L.flatMap fun i =>
    match s.entry i with
    | none => []
    | some e => [(.master e.owner, .entryCancelled (s.handle i) e.action e.line cause)]

/-- An output line once the running pulse of an entry on it has been ended: the trailing level is handed (R85, R86). -/
def pulseEnded (e : Entry) (o : OutLine) : OutLine :=
  match e.running with
  | some r => { o with commanded := r.trailing, pulse := none }
  | none => o

/-- The level a firing gives a line whose commanded level is v (R83). -/
def levelFired (e : Entry) (v : Level) : Level :=
  match e.action with
  | .set => .high
  | .clear => .low
  | .toggle => if v = .high then .low else .high
  | .pulse => e.pulseLevel
  | .mark => v

/-- What is left of the entry in slot i, late at the part time T with the due time d and not deferred, where the journal has room for two
records: a running pulse is ended; the occurrence fires with late_by T - d, or is skipped; the entry moves to the first grid point after T;
and it is PULSING, PENDING, back to waiting, or completed and gone (R83 to R90). -/
def caughtUp (s : State) (i : Fin 64) (e : Entry) (d : Nat) : State :=
  let T := s.time.partTime
  let fires := e.late = .fireLate
  let k := match e.period with
    | some q => (T - d) / q + 1
    | none => 1
  let remaining := if e.period.isSome then e.remaining.map fun n => n - k else e.remaining
  let next : Option Nat := match e.period with
    | none => none
    | some q => if remaining = some 0 ∨ 2 ^ 64 - 1 < d + k * q then none else some (d + k * q)
  let left : Option Entry :=
    if fires ∧ e.action = .pulse then
      some
        { e with
          due := next, remaining := remaining, state := .pulsing
          running := some { left := e.width, trailing := if e.pulseLevel = .high then .low else .high } }
    else if next.isSome then some { e with due := next, remaining := remaining, state := .pending, running := none }
    else if e.rearm then some { e with due := none, remaining := e.initial, state := .awaitingTrigger, running := none }
    else none
  let own := fun b : Body => (Origin.master e.owner, b)
  let records :=
    (if e.journalFlag = true then
      [own (if fires then .entryFired (s.handle i) e.action e.line (some (T - d)) else .entrySkipped (s.handle i) e.action e.line)]
    else [])
      ++ if left = none then [own (.entryCompleted (s.handle i) e.action e.line)] else []
  let acted := fun o : OutLine =>
    if fires ∧ e.action ≠ .mark then { o with commanded := levelFired e o.commanded, pulse := none } else o
  let u : State :=
    { s with
      journal := s.journal.storing T (quality s) records
      conditions :=
        { s.conditions with
          raises := s.conditions.raises ++ if fires ∧ s.schedule.tolerance < T - d then [.entryLate] else [] } }
  let u := u.putEntry i left
  let u := match e.line with
    | some k => u.setOut k (acted (pulseEnded e (s.out k)))
    | none => u
  if fires ∧ e.notifyFlag = true then u.setSession e.owner ((s.session e.owner).map fun x => { x with notices := x.notices ||| 0x10#8 }) else u

/-- What is left of the entry in slot i, late at the present part time: on a gated line in HELD it is deferred, a running pulse ended
(R86, R97); else it is caught up (R90). -/
def lateTaken (s : State) (i : Fin 64) : State :=
  match s.entry i with
  | none => s
  | some e =>
      if s.permit.state = .held ∧ onGatedLine s e = true then
        let u := s.putEntry i (some { e with state := .deferred, running := none })
        match e.line with
        | some k => u.setOut k (pulseEnded e (s.out k))
        | none => u
      else
        match e.due with
        | none => s
        | some d => caughtUp s i e d

/-- L lists, in their order, the entries that a change of permit state to that of pm takes: at a stop those on gated lines, in admission order
(R99); at a return from HELD to RUNNING the DEFERRED ones that are late, in due order (R98); else none. -/
def PermitTakes (s : State) (pm : Permit) (L : List (Fin 64)) : Prop :=
  if pm.state = s.permit.state then L = []
  else if pm.state = .stopped then Listed s (fun e => onGatedLine s e = true) admittedBefore L
  else if s.permit.state = .held ∧ pm.state = .running then
    (∀ i e, s.entry i = some e → e.state = .deferred → e.due.isSome = true ∧ e.running = none)
      ∧ Listed s (fun e => e.state = .deferred ∧ e.lateAt s.time.partTime = true) dueBefore L
  else L = []

/-- What is left of a state whose permit unit becomes pm for a cause, where the journal has room: the PERMIT record; at a stop the
cancellations and the gated lines at their safe levels, at a return from HELD the resume; the drive of the gated lines; and PERMIT for every
session but a closing one (R98, R99, R109 to R112, R142, R147, R157, R158). L is as `PermitTakes` says. -/
def permitChanged (s : State) (pm : Permit) (cause : PermitCause) (closing : Option Port) (L : List (Fin 64)) : State :=
  let T := s.time.partTime
  let gated := fun (f : OutLine → OutLine) (u : State) => { u with outs := u.outs.map fun o : OutLine => if o.gated then f o else o }
  if pm.state = s.permit.state then { s with permit := pm }
  else
    let record := (Origin.part, Body.permit s.permit.state pm.state cause)
    let cancels := if pm.state = .stopped then cancelRecords s .permitStop L else []
    let u : State := { s with permit := pm, journal := s.journal.storing T (quality s) (record :: cancels) }
    let u : State := match pm.state with
      | .stopped =>
          (gated (fun o => { o with commanded := o.safe, driven := o.safe, pulse := none }) u).mapEntries fun e =>
            if onGatedLine s e then none else some e
      | .arming => gated (fun o => { o with driven := o.safe }) u
      | .running =>
          let waiting := u.mapEntries fun e => some (if e.state = .deferred ∧ e.lateAt T = false then { e with state := .pending } else e)
          gated (fun o => { o with driven := o.commanded }) (if s.permit.state = .held then L.foldl lateTaken waiting else u)
      | .held => u
    { u with
      ports := u.ports.mapIdx fun q (x : PortState) =>
        if closing = some q then x else { x with session := x.session.map fun z => { z with notices := z.notices ||| 0x04#8 } } }

/-- A session whose reader the retirement of a record has pushed (R46). -/
def pushed (r : Record) (x : Session) : Session :=
  let cursor := if x.reader.cursor = r.seq then r.seq + 1 else x.reader.cursor
  let lost := x.reader.cursor = r.seq ∧ x.reader.filter.accepts r = true ∧ x.reader.missed < 4294967295
  { x with
    reader :=
      { x.reader with
        cursor := cursor, readMark := max x.reader.readMark cursor
        missed := if lost then x.reader.missed + 1 else x.reader.missed } }

/-- The session as a command on its port finds it: its deadline has restarted where it is LIVE with a window (R188). -/
def heard (s : State) (p q : Port) : Option Session := if q = p then (s.session p).map Session.restarted else s.session q

/-- Every open session with a latched member of attention added (R158, R164). -/
def noticed (n : Byte) (x : PerPort PortState) : PerPort PortState :=
  x.map fun y => { y with session := y.session.map fun z => { z with notices := z.notices ||| n } }

/-- The records of a hand-over of a resource that p holds, to the first waiter but p (R125, R129); none where p does not hold it. -/
def handOverRecords (s : State) (p : Port) (cause : ClaimCause) (r : Resource) : List (Origin × Body) :=
  if s.holds p r = true then
    (.master p, .claimReleased r cause)
      :: match ((s.claimOf r).waiters.filter (· ≠ p)).head? with
        | none => []
        | some w => [(.master w, .claimGranted r .fromWait)]
  else []

/-- What the first two steps of the close of p's session leave, where the journal has room (R103, R116, R125, R126, R130, R186): its entries
are cancelled in the order of L, with the trailing levels of their running pulses handed; it waits for nothing; and each resource it holds,
in the order TIME, CONFIG, OUT0 to OUT7, is released and granted to the first waiter, which has GRANT pending, a line at its rest level. -/
def closeReleased (s : State) (p : Port) (L : List (Fin 64)) : State :=
  let waiters := fun r => (s.claimOf r).waiters.filter (· ≠ p)
  let handed := fun (k : Fin 8) => L.foldl (init := s.out k) fun o i =>
    match s.entry i with
    | some e => if e.line = some k then pulseEnded e o else o
    | none => o
  let u : State :=
    { s with
      journal := s.journal.storing s.time.partTime (quality s)
        (cancelRecords s .closed L ++ allResources.flatMap (handOverRecords s p .close))
      outs := Vector.ofFn fun k =>
        let o := handed k
        if s.holds p (.out k) = true then { o with commanded := o.rest, pulse := none }.formed s.permit.state else o
      ports := s.ports.mapIdx fun q x =>
        if allResources.any fun r => s.holds p r && (waiters r).head? == some q then
          { x with session := x.session.map fun z => { z with notices := z.notices ||| 0x02#8 } }
        else x }
  let u := u.mapEntries fun e => if e.owner = p then none else some e
  allResources.foldl (init := u) fun u r =>
    u.setClaim r
      (if s.holds p r = true then { holder := (waiters r).head?, waiters := (waiters r).tail }
        else { holder := (s.claimOf r).holder, waiters := waiters r })

/-- Nothing counts and nothing waits for a tick: no step waits, no capture is armed, no line is enabled or about to be, no entry has a due
time or a running pulse, no line an immediate pulse, and neither the arming timer nor a deadline runs. -/
structure Still (s : State) : Prop where
  step      : s.time.step = none
  strobes   : ∀ p, (s.time.strobes.get p).armed = false
  lines     : ∀ n, (s.line n).inForce.enabled = false ∧ (s.line n).cfg.enabled = false
  entries   : ∀ i e, s.entry i = some e → e.due = none ∧ e.running = none
  pulses    : ∀ k, (s.out k).pulse = none
  timer     : s.permit.timer = none
  deadlines : ∀ p x, s.session p = some x → x.deadline = none

/-! ### Invariants -/

/-- The permit unit is consistent: PRUN is HIGH in RUNNING only and PHOLD in HELD only (R156), the arming timer is present in ARMING only
(R148), the aggregate is the one the votes and the part vote form (R144), and it stands to the state as R145 says. -/
structure PermitConsistent (pm : Permit) : Prop where
  prun      : pm.prun = levelOfBool (pm.state == .running)
  phold     : pm.phold = levelOfBool (pm.state == .held)
  timer     : pm.timer.isSome = (pm.state == .arming)
  aggregate : pm.aggregate = formAggregate pm
  stopped   : pm.state = .stopped → pm.aggregate ≠ .go
  moving    : pm.state = .arming ∨ pm.state = .running → pm.aggregate = .go
  held      : pm.state = .held → pm.aggregate = .hold

/-- The permit unit is consistent, and an elector whose session is LAPSED votes STOP with its forced mark set (R141). -/
structure PermitSafe (s : State) : Prop where
  unit   : PermitConsistent s.permit
  lapsed : ∀ p e x, s.permit.electors.get p = some e → s.session p = some x → x.liveness = .lapsed → e.vote = .stop ∧ e.forced = true

/-- The journal is consistent: the seqs of the store are consecutive and end just below the counter (R41), it holds at most 512 records
(R43), and nothing is counted as withheld in ACCEPTING (R50). -/
structure JournalConsistent (j : Journal) : Prop where
  seqs     : ∀ i, (h : i < j.store.length) → (j.store[i]).seq + (j.store.length - i) = j.counter
  capacity : j.store.length ≤ 512
  withheld : j.state = .accepting → j.withheld = 0

/-- The journal is consistent, and every open session's cursor and read_mark lie in order between the oldest seq held and one past the
newest (R71). -/
structure ReadersConsistent (s : State) : Prop where
  journal : JournalConsistent s.journal
  readers : ∀ p x, s.session p = some x →
    oldestSeq s ≤ x.reader.cursor ∧ x.reader.cursor ≤ x.reader.readMark ∧ x.reader.readMark ≤ endSeq s

/-- A claim record is consistent: a free resource has no waiters, the holder does not wait, and no master waits twice (R120). -/
structure ClaimConsistent (c : ClaimRecord) : Prop where
  free   : c.holder = none → c.waiters = []
  holder : ∀ p, c.holder = some p → p ∉ c.waiters
  once   : c.waiters.Nodup

/-- Every claim record is consistent, and every parameter part time and every setting of time lies in its range (R2, R3, R10, R24, R77,
R149). -/
structure TablesConsistent (s : State) : Prop where
  claims    : ∀ r, ClaimConsistent (s.claimOf r)
  time      : s.time.partTime ≤ 2 ^ 64 - 1
  refHz     : 1000000 ≤ s.time.refHz ∧ s.time.refHz ≤ 50000000
  trim      : s.time.trim.natAbs ≤ 500000
  filter    : ∀ n, (s.line n).cfg.filter ≤ 65535
  budget    : ∀ n, (s.line n).cfg.budget ≤ 255
  quota     : ∀ p, 1 ≤ s.schedule.quotas.get p ∧ s.schedule.quotas.get p ≤ 64
  tolerance : s.schedule.tolerance ≤ 65535
  delay     : s.permit.startDelay ≤ 60000

/-- The schedule is consistent: no master owns more entries than its quota (R79), a line's entries are all owned by its holder (R108,
R121), and in STOPPED and ARMING no entry acts on a gated line (R99). -/
structure ScheduleConsistent (s : State) : Prop where
  quota  : ∀ p, owned s p ≤ s.schedule.quotas.get p
  holder : ∀ i e k, s.entry i = some e → e.line = some k → (s.claimOf (.out k)).holder = some e.owner
  gated  : s.permit.state = .stopped ∨ s.permit.state = .arming → ∀ i e, s.entry i = some e → onGatedLine s e = false

/-- While RSTn is LOW the part holds nothing: no record, no session, no entry, no claim, no elector, no latch (R56, R107, R136, R161, R174,
R193). -/
structure InReset (s : State) : Prop where
  journal    : s.journal.store = [] ∧ s.journal.state = .accepting ∧ s.journal.withheld = 0
  ports      : ∀ p, (s.port p).transaction = .idle ∧ (s.port p).queue = [] ∧ (s.port p).crcDropped = false ∧ (s.port p).overrun = false
    ∧ s.session p = none ∧ (s.port p).atn = .high
  entries    : ∀ i, s.entry i = none
  claims     : ∀ r, (s.claimOf r).holder = none ∧ (s.claimOf r).waiters = []
  permit     : s.permit = Permit.initial
  conditions : s.conditions.raises = [] ∧ s.conditions.partVote = .go
    ∧ ∀ c, (s.condition c).firstLatched = none ∧ (s.condition c).action = .note
  outs       : ∀ k, s.out k = OutLine.initial

end Sys2Proof.Machine
end

