-- ==== Sys2Proof/Certificates/Slice0/Obligations.lean ====
section
/-! DEFINITION. The statements for the provers. Each docstring names the rule or the section of spec/ it formalises; where it rests on a
convention of the model it names the log entry. The words they are
made of (`Ready`, `RoomFor`, `Answers`, `Unchanged`, `lateTaken`, ...) are in Sys2Proof/Safety.lean. -/

set_option Elab.async false

open Sys2Proof Sys2Proof.Machine

/-! ### The queue of commands -/

/-- A step with a command at the front of the queue is exec of that command on the state with the queue's rest. -/
def Obligations.StepTakesFront : Prop :=
  ∀ (c : Instr) (rest : List Instr) (s : State), step { s with pending := c :: rest } = exec c { s with pending := rest }

/-- With no command waiting and nothing due a step leaves the state as it is, and an event row whose event is not due changes nothing (the
model's choices: notes/assumptions/1.md and 2.md). -/
def Obligations.NothingDueNothingHappens : Prop :=
  ∀ s : State,
    (s.pending = [] → quiet s = true → step s = .next s)
    ∧ (∀ e, e ∉ s.tickWork → exec (tickRow e) s = .next s)
    ∧ (∀ levels, s.time.acc < 1 → exec (.tick levels) s = .next s)
    ∧ (∀ levels, lossIsDue s = false → exec (.holdoverEntered levels) s = .next s)
    ∧ (breakIsDue s = false → exec .referenceBreak s = .next s)
    ∧ (exitIsDue s = false → exec .holdoverLeft s = .next s)
    ∧ (s.time.stepDue = false → exec .stepApplication s = .next s)
    ∧ (slewIsDone s = false → exec .slewDone s = .next s)
    ∧ (s.conditions.partVote = s.permit.partVote → exec .partVoteChange s = .next s)
    ∧ (∀ c, c ∉ s.conditions.raises → exec (.conditionRaise c) s = .next s)

/-- Every row of the table completes in every state, none faults and none is refused, and no command or event puts a command into the queue
or takes one away (that a row whose event is not due completes too is the model's choice: notes/assumptions/2.md; the queue: 18.md). -/
def Obligations.EveryRowCompletes : Prop := ∀ (i : Instr) (s : State), ∃ t, exec i s = .next t ∧ t.pending = s.pending

/-! ### The link -/

/-- A frame carries its row: writing the command frame that R195, R196, R199 and R200 lay out for a well-formed command row does exactly what
the row does, in every state (the row stands for the start and the end of its transaction: notes/assumptions/7.md). -/
def Obligations.FrameCarriesRow : Prop :=
  ∀ (i : Instr) (p : Port) (tag command : Byte) (payload : List Byte) (s : State), i.wellFormed = true →
    frameFields? i = some (p, tag, command, payload) →
    exec (.commandWrite p (commandFrame tag command payload)) s = exec i s

/-- R177, R179: a transaction that is no fetch, no port clear and no sound frame sets CRC_DROPPED and changes nothing else; a sound frame that
finds 4 responses waiting is dropped, sets OVERRUN and changes nothing else: no response, no deadline. A frame is sound where it is the frame
of some tag, code and payload of at most 300 bytes. Both end the transaction in progress, or stand for a whole one on an IDLE port; what
`shifted` holds is the model's choice (notes/assumptions/7.md, 14.md). -/
def Obligations.FramesDropped : Prop :=
  ∀ (s : State) (p : Port), quiet s = true → s.rstn = .high → LevelsFormed s →
    let after := fun clocked : Nat =>
      { s.port p with transaction := .idle, shifted := readyCount (s.port p) :: List.replicate (clocked - 1) 0#8 }
    (∀ (first : Byte) (later : List Byte), first ≠ fetchByte → first :: later ≠ clearFrame →
      CanEnd s p (if first = 0xC3#8 then .portClear else .commandWrite) →
      (∀ tag command payload, payload.length ≤ 300 → first :: later ≠ commandFrame tag command payload) →
      exec (.commandWrite p (first :: later)) s = .next (s.setPort p { after (later.length + 1) with crcDropped := true }))
    ∧ (∀ (tag command : Byte) (payload : List Byte), CanEnd s p .commandWrite → payload.length ≤ 300 → 4 ≤ (s.port p).queue.length →
        exec (.commandWrite p (commandFrame tag command payload)) s
          = .next (s.setPort p { after (payload.length + 7) with overrun := true }))

/-- R177, R180: a sound frame on a ready port gives exactly one response, with its tag, at the newest end; and where the response is a refusal
it has no payload and the command has changed no state but the restarted deadline (the one row for a whole transaction: notes/assumptions/7.md). -/
def Obligations.OneResponseAndRefusalsChangeNothing : Prop :=
  ∀ (s : State) (p : Port) (tag command : Byte) (payload : List Byte), Ready s p → LevelsFormed s → payload.length ≤ 300 →
    ∃ t st out, exec (.commandWrite p (commandFrame tag command payload)) s = .next t
      ∧ (t.port p).queue = (s.port p).queue ++ [{ tag := tag, status := st, payload := out }]
      ∧ (st.isRefusal = true → out = [] ∧ t = answeredFrame s p (payload.length + 7) tag st [])

/-- R181, its four checks in order: a code that names no command is answered UNKNOWN, a payload of a length its command does not allow
BAD_LENGTH; then, with no session open, every command but IDENTIFY and OPEN is refused NO_SESSION, and from a LAPSED session every command but
RENEW, KEEPALIVE, STATUS, GET_TIME, READ_JOURNAL, ACK_JOURNAL and CLOSE is refused LAPSED. -/
def Obligations.SessionChecks : Prop :=
  (∀ (p : Port) (tag command : Byte) (payload : List Byte) (s : State), Ready s p → LevelsFormed s → payload.length ≤ 300 →
    let refused := fun st => Host.Outcome.next (answeredFrame s p (payload.length + 7) tag st [])
    (command ∉ commandLengths.map Prod.fst → exec (.commandWrite p (commandFrame tag command payload)) s = refused .unknown)
    ∧ (∀ row ∈ commandLengths, command = row.1 → payload.length < row.2.1 ∨ row.2.2 < payload.length →
        exec (.commandWrite p (commandFrame tag command payload)) s = refused .badLength))
  ∧ (∀ (s : State) (i : Instr), LevelsFormed s → i.wellFormed = true →
      ∀ p tag command payload, frameFields? i = some (p, tag, command, payload) → Ready s p →
      (s.session p = none → command ∉ [0x01#8, 0x02#8] → Refuses s i .noSession)
      ∧ (∀ x, s.session p = some x → x.liveness = .lapsed →
          command ∉ [0x05#8, 0x04#8, 0x06#8, 0x10#8, 0x22#8, 0x23#8, 0x03#8] → Refuses s i .lapsed))

/-- R178: a fetch shifts out the ready count and then the oldest response, or the empty frame, and 00h past its end. When it clocks out the
last byte, the response leaves the queue and both link flags are cleared; when it ends before that, queue and flags stay. It ends the fetch
in progress, or stands for a whole one on an IDLE port, and `shifted` holds what was shifted out (the model's choice:
notes/assumptions/7.md, 14.md). -/
def Obligations.FetchOldest : Prop :=
  ∀ (s : State) (p : Port) (clocked : Nat), quiet s = true → s.rstn = .high → CanEnd s p .fetch → LevelsFormed s →
    let x := s.port p
    let r := x.queue.head?.getD { tag := 0#8, status := .none, payload := [] }
    let flags : Byte := (if x.crcDropped then 0x01#8 else 0x00#8) ||| (if x.overrun then 0x02#8 else 0x00#8)
    let body := be 2 r.payload.length ++ [r.tag, BitVec.ofNat 8 (statusCode r.status), flags] ++ r.payload
    let frame := 0x5A#8 :: (body ++ be 2 (crc body).toNat)
    (r.payload.length + 8 ≤ clocked →
      exec (.fetch p clocked) s
        = .next (s.setPort p
            { x with
              transaction := .idle, queue := x.queue.tail, crcDropped := false, overrun := false
              shifted := readyCount x :: (frame ++ List.replicate (clocked - frame.length) 0#8) }))
    ∧ (clocked < r.payload.length + 8 →
      exec (.fetch p clocked) s = .next (s.setPort p { x with transaction := .idle, shifted := readyCount x :: frame.take clocked }))

/-- R195 to R201: the layout of both frames and the CRC of the nine digits; the code tables, written and read; the code and the fields of every
command; every record's header and body, field by field; and the widths: of both frames, of the payload of every command answered OK, QUEUED,
HELD_BY or otherwise, and of every record (a NOTE of at most 16 bytes). A field is a width in bytes and a number. -/
def Obligations.Widths : Prop :=
  (∀ tag command payload, (commandFrame tag command payload).length = payload.length + 7)
  ∧ (∀ flags r, (responseFrame flags r).length = r.payload.length + 8)
  ∧ crc [0x31#8, 0x32#8, 0x33#8, 0x34#8, 0x35#8, 0x36#8, 0x37#8, 0x38#8, 0x39#8] = 0x29B1#16
  ∧ (∀ (s : State) (i : Instr) (p : Port) (tag command : Byte) (payload : List Byte), frameFields? i = some (p, tag, command, payload) →
      Ready s p → (∀ r, ClaimConsistent (s.claimOf r)) → (∀ r ∈ s.journal.store, ∀ bs, r.body = .note bs → bs.length ≤ 16) →
      ∃ t r, exec i s = .next t ∧ (t.port p).queue = (s.port p).queue ++ [r]
        ∧ (r.status = .ok →
            (∀ row ∈ okWidths, command = row.1 → row.2.1 ≤ r.payload.length ∧ r.payload.length ≤ row.2.2)
              ∧ (command ∉ okWidths.map Prod.fst → r.payload = []))
        ∧ (r.status = .queued → r.payload.length = 2) ∧ (r.status = .heldBy → r.payload.length = 1)
        ∧ (r.status ∉ [.ok, .queued, .heldBy] → r.payload = []))
  ∧ (∀ r : Record, (∀ bs, r.body = .note bs → bs.length ≤ 16) →
      (recordBytes r).length = 20 + (bodyBytes r.body).length ∧ (bodyBytes r.body).length ≤ 16)
  ∧ (∀ tag command payload,
      let body := be 2 payload.length ++ [tag, command] ++ payload
      commandFrame tag command payload = 0xA5#8 :: (body ++ be 2 (crc body).toNat))
  ∧ (∀ flags (r : Response),
      let body := be 2 r.payload.length ++ [r.tag, BitVec.ofNat 8 (statusCode r.status), flags] ++ r.payload
      responseFrame flags r = 0x5A#8 :: (body ++ be 2 (crc body).toNat))
  ∧ (allPorts.map portCode = [0, 1, 2, 3] ∧ [Origin.master .a, .master .b, .master .c, .master .d, .part].map originCode = [0, 1, 2, 3, 4]
      ∧ [Kind.restart, .session, .input, .chatter, .entry, .permit, .liveness, .time, .claim, .condition, .config, .note, .gap].map kindCode
        = [1, 2, 3, 4, 5, 6, 7, 8, 9, 10, 11, 12, 13]
      ∧ [Quality.invalid, .holdover, .valid].map qualityCode = [0, 1, 2]
      ∧ [Level.low, .high].map levelCode = [0, 1] ∧ [Edge.rise, .fall].map edgeCode = [0, 1]
      ∧ [EdgeSelect.rise, .fall, .both].map edgeSelectCode = [0, 1, 2] ∧ [Vote.stop, .hold, .go].map voteCode = [0, 1, 2]
      ∧ [ReaderMode.retaining, .lossy].map readerModeCode = [0, 1] ∧ [ConditionAction.note, .stop].map conditionActionCode = [0, 1]
      ∧ [PermitState.stopped, .arming, .running, .held].map permitStateCode = [0, 1, 2, 3] ∧ allConditions.map conditionCode = [0, 1, 2, 3]
      ∧ [Action.set, .clear, .toggle, .pulse, .mark].map actionCode = [0, 1, 2, 3, 4]
      ∧ [EntryState.awaitingTrigger, .pending, .deferred, .pulsing].map entryStateCode = [0, 1, 2, 3] ∧ completedCode = 4
      ∧ [Validity.invalid, .valid].map validityCode = [0, 1] ∧ [RefState.locked, .holdover].map refStateCode = [0, 1]
      ∧ [JournalState.accepting, .withholding].map journalStateCode = [0, 1] ∧ [Liveness.live, .lapsed].map livenessCode = [0, 1]
      ∧ allResources.map resourceCode = [0, 1, 16, 17, 18, 19, 20, 21, 22, 23]
      ∧ [noticeJournal, noticeGrant, noticePermit, noticeStrobe, noticeEntry, noticeCondition] = [1#8, 2#8, 4#8, 8#8, 16#8, 32#8]
      ∧ [Status.ok, .pending, .queued, .heldBy, .empty, .withheld, .none].map statusCode = [0, 1, 2, 3, 4, 5, 6]
      ∧ [Status.unknown, .badLength, .noSession, .lapsed, .sessionOpen, .notHolder, .wrongState, .badArg, .quota, .tableFull,
          .staleHandle].map statusCode
        = [0x80, 0x81, 0x82, 0x83, 0x84, 0x85, 0x86, 0x87, 0x88, 0x89, 0x8A])
  ∧ (∀ b : Byte,
      (∀ x, levelOf? b = some x ↔ b.toNat = levelCode x) ∧ (∀ x, voteOf? b = some x ↔ b.toNat = voteCode x)
      ∧ (∀ x, actionOf? b = some x ↔ b.toNat = actionCode x) ∧ (∀ x, readerModeOf? b = some x ↔ b.toNat = readerModeCode x)
      ∧ (∀ x, resourceOf? b = some x ↔ b.toNat = resourceCode x)
      ∧ (triggerEdgeOf? b = some .rise ↔ b = 0#8) ∧ (triggerEdgeOf? b = some .fall ↔ b = 1#8) ∧ (triggerEdgeOf? b = some .either ↔ b = 2#8)
      ∧ (latePolicyOf? b = some .fireLate ↔ b = 0#8) ∧ (latePolicyOf? b = some .skip ↔ b = 1#8)
      ∧ (flagOf? b = some false ↔ b = 0#8) ∧ (flagOf? b = some true ↔ b = 1#8))
  ∧ (∀ v : Nat,
      (∀ x, edgeSelectOf? v = some x ↔ v = edgeSelectCode x) ∧ (∀ x, conditionOf? v = some x ↔ v = conditionCode x)
      ∧ (∀ x, conditionActionOf? v = some x ↔ v = conditionActionCode x))
  ∧ (∀ (p : Port) (t a b c : Byte) (u v w : BitVec 16) (x : BitVec 32) (z : BitVec 64) (width : BitVec 24) (e : Descriptor),
      let carries : Instr → Byte → List (Nat × Nat) → Prop := fun i command l => frameFields? i = some (p, t, command, fields l)
      let sets : (Port → Byte → Byte → BitVec 32 → Instr) → Nat → Prop := fun row group =>
        carries (row p t a x) 0x44#8 [(1, group), (1, a.toNat), (4, x.toNat)]
      carries (.identify p t) 0x01#8 []
      ∧ carries (.openSession p t a v w b c u) 0x02#8
          [(1, a.toNat), (2, v.toNat), (2, w.toNat), (1, b.toNat), (1, c.toNat), (2, u.toNat)]
      ∧ carries (.closeSession p t) 0x03#8 [] ∧ carries (.keepalive p t) 0x04#8 [] ∧ carries (.renew p t) 0x05#8 []
      ∧ carries (.status p t) 0x06#8 [] ∧ carries (.setAttentionMask p t a) 0x07#8 [(1, a.toNat)] ∧ carries (.getTime p t) 0x10#8 []
      ∧ carries (.stepTime p t z a) 0x11#8 [(8, z.toNat), (1, a.toNat)] ∧ carries (.slewTime p t x v) 0x12#8 [(4, x.toNat), (2, v.toNat)]
      ∧ carries (.setTrim p t x) 0x13#8 [(4, x.toNat)] ∧ carries (.readStrobe p t) 0x14#8 [] ∧ carries (.readInputs p t) 0x18#8 []
      ∧ (∀ note, frameFields? (.postNote p t note) = some (p, t, 0x20#8, note))
      ∧ carries (.queryJournal p t) 0x21#8 [] ∧ carries (.readJournal p t a b) 0x22#8 [(1, a.toNat), (1, b.toNat)]
      ∧ carries (.ackJournal p t z) 0x23#8 [(8, z.toNat)] ∧ carries (.seekJournal p t a z) 0x24#8 [(1, a.toNat), (8, z.toNat)]
      ∧ carries (.setFilter p t v w a) 0x25#8 [(2, v.toNat), (2, w.toNat), (1, a.toNat)] ∧ carries (.setReaderMode p t a) 0x26#8 [(1, a.toNat)]
      ∧ carries (.queryReader p t) 0x27#8 []
      ∧ carries (.addEntry p t e) 0x30#8
          [(1, e.action.toNat), (1, e.line.toNat), (1, e.pulseLevel.toNat), (3, e.width.toNat), (1, e.timing.toNat), (8, e.timeValue.toNat),
           (1, e.trigLine.toNat), (1, e.trigEdge.toNat), (1, e.rearm.toNat), (4, e.period.toNat), (2, e.count.toNat), (1, e.latePolicy.toNat),
           (1, e.flags.toNat)]
      ∧ carries (.cancelEntry p t a b) 0x31#8 [(1, a.toNat), (1, b.toNat)] ∧ carries (.queryEntry p t a b) 0x32#8 [(1, a.toNat), (1, b.toNat)]
      ∧ carries (.listEntries p t a b) 0x33#8 [(1, a.toNat), (1, b.toNat)]
      ∧ carries (.setLine p t a b c width) 0x38#8 [(1, a.toNat), (1, b.toNat), (1, c.toNat), (3, width.toNat)]
      ∧ carries (.readOutputs p t) 0x39#8 [] ∧ carries (.claim p t a b) 0x40#8 [(1, a.toNat), (1, b.toNat)]
      ∧ carries (.release p t a) 0x41#8 [(1, a.toNat)] ∧ carries (.withdraw p t a) 0x42#8 [(1, a.toNat)] ∧ carries (.queryClaims p t) 0x43#8 []
      ∧ sets .configureRefHz 1 ∧ sets .configureEnabled 2 ∧ sets .configureEdgeSelect 3 ∧ sets .configureFilterLength 4
      ∧ sets .configureChatterBudget 5 ∧ sets .configureQuota 6 ∧ sets .configureLateTolerance 7 ∧ sets .configureRestLevel 8
      ∧ sets .configureSafeLevel 9 ∧ sets .configureGatedFlag 10 ∧ sets .configureStartDelay 11 ∧ sets .configureConditionAction 12
      ∧ carries (.readConfig p t v) 0x45#8 [(2, v.toNat)] ∧ carries (.enroll p t none) 0x50#8 []
      ∧ carries (.enroll p t (some a)) 0x50#8 [(1, a.toNat)] ∧ carries (.leave p t) 0x51#8 [] ∧ carries (.vote p t a) 0x52#8 [(1, a.toNat)]
      ∧ carries (.queryPermit p t) 0x53#8 [] ∧ carries (.clearCondition p t a) 0x58#8 [(1, a.toNat)] ∧ carries (.queryConditions p t) 0x59#8 [])
  ∧ (let header := fun (r : Record) (kind length : Nat) =>
        [(8, r.seq), (8, r.time), (1, kind), (1, originCode r.origin), (1, qualityCode r.quality), (1, length)]
     let laid : Body → Nat → List (Nat × Nat) → Prop := fun b kind l =>
        ∀ r : Record, r.body = b → recordBytes r = fields (header r kind (l.map Prod.fst).sum ++ l)
     let signed := fun (width : Nat) (x : Int) => (width, (x % (256 ^ width : Nat)).toNat)
     (∀ k : ResetKind, laid (.restart k) 1 [(1, if k = .powerOn then 0 else 1)])
      ∧ laid .sessionOpened 2 [(1, 0), (1, 0xFF)] ∧ (∀ c, laid (.sessionClosed c) 2 [(1, 1), (1, if c = .command then 0 else 1)])
      ∧ (∀ n v e, laid (.input n v e) 3 [(1, n.val), (1, if v = .high then 1 else 0), (1, if e = .rise then 0 else 1)])
      ∧ (∀ n count v, laid (.chatter n count v) 4 [(1, n.val), (2, count), (1, if v = .high then 1 else 0)])
      ∧ (∀ (h : Handle) (a : Action) (line : Option (Fin 8)),
          let entry := [(1, h.slot.val), (1, h.generation.toNat), (1, actionCode a), (1, (line.map fun k => k.val).getD 0xFF)]
          (∀ late, laid (.entryFired h a line late) 5 (entry ++ (1, 0) :: optionalFields 8 late fun n => [(8, n)]))
            ∧ laid (.entrySkipped h a line) 5 (entry ++ [(1, 1)]) ∧ laid (.entryCompleted h a line) 5 (entry ++ [(1, 2)])
            ∧ (∀ c, laid (.entryCancelled h a line c) 5
                (entry ++ [(1, 3), (1, match c with | .owner => 0 | .released => 1 | .closed => 2 | .permitStop => 3)])))
      ∧ (∀ o n, let states := [(1, permitStateCode o), (1, permitStateCode n)]
          (∀ m v, laid (.permit o n (.vote m v)) 6 (states ++ [(1, 0), (1, portCode m), (1, voteCode v)]))
            ∧ laid (.permit o n .partVote) 6 (states ++ [(1, 1), (1, 0xFF), (1, 0xFF)])
            ∧ laid (.permit o n .delayExpired) 6 (states ++ [(1, 2), (1, 0xFF), (1, 0xFF)])
            ∧ laid (.permit o n .electorate) 6 (states ++ [(1, 3), (1, 0xFF), (1, 0xFF)]))
      ∧ laid .lapsed 7 [(1, 0)] ∧ laid .renewed 7 [(1, 1)]
      ∧ (∀ n, laid (.time (.stepApplied n)) 8 [(1, 1), (8, n)])
      ∧ (∀ x (m : Bool), laid (.time (.stepReplaced x m)) 8 [(1, 2), signed 8 x, (1, if m then 1 else 0)])
      ∧ (∀ x, laid (.time (.stepRefused x)) 8 [(1, 3), signed 8 x]) ∧ (∀ x rate, laid (.time (.slewStarted x rate)) 8 [(1, 4), signed 4 x, (2, rate)])
      ∧ (∀ x, laid (.time (.slewDone x)) 8 [(1, 5), signed 4 x]) ∧ (∀ x, laid (.time (.slewAbandoned x)) 8 [(1, 6), signed 4 x])
      ∧ (∀ x y, laid (.time (.trimSet x y)) 8 [(1, 7), signed 4 x, signed 4 y])
      ∧ laid (.time .holdoverEntered) 8 [(1, 8)] ∧ laid (.time .holdoverLeft) 8 [(1, 9)] ∧ laid (.time .markedValid) 8 [(1, 10)]
      ∧ (∀ (r : Resource) (c : ClaimCause),
          let cause := match c with | .command => 0 | .fromWait => 1 | .lapse => 2 | .close => 3
          laid (.claimGranted r c) 9 [(1, resourceCode r), (1, 0), (1, cause)]
            ∧ laid (.claimReleased r c) 9 [(1, resourceCode r), (1, 1), (1, cause)])
      ∧ (∀ c, laid (.conditionRaised c) 10 [(1, conditionCode c), (1, 0)] ∧ laid (.conditionCleared c) 10 [(1, conditionCode c), (1, 1)])
      ∧ (∀ id old new, laid (.config id old new) 11 [(2, id.toNat), (4, old), (4, new)])
      ∧ (∀ (r : Record) bs, r.body = .note bs → recordBytes r = fields (header r 12 bs.length) ++ bs)
      ∧ (∀ n, laid (.gap n) 13 [(4, n)]))

/-- R176, R179: the first byte on an IDLE port decides the kind of transaction, and the port has shifted out the ready count. A port clear with no
session open empties the queue, clears both flags and changes nothing else. The bytes of a fetch or of a port clear are that row; no byte
has no effect. A transaction in progress when RSTn falls is discarded: the port is IDLE, and its end, when it comes, has no effect. That a start
stands for one byte and another row ends the transaction in progress or stands for a whole one, that `discarded` holds the kind of a
discarded one until its end, and that a row changes nothing on a port where no transaction of its kind can end, is the model's choice
(notes/assumptions/7.md, 14.md, 22.md). -/
def Obligations.StartsAndClears : Prop :=
  let opened := fun first : Byte => if first = 0x3C#8 then Transaction.fetch else if first = 0xC3#8 then .portClear else .commandWrite
  (∀ (s : State) (p : Port), quiet s = true → s.rstn = .high → LevelsFormed s →
    (∀ first : Byte, (s.port p).transaction = .idle → (s.port p).discarded = .idle →
      exec (.transactionStart p first) s
        = .next (s.setPort p { s.port p with transaction := opened first, shifted := [readyCount (s.port p)] }))
    ∧ (CanEnd s p .portClear → s.session p = none →
        exec (.portClear p) s
          = .next (s.setPort p
              { s.port p with
                transaction := .idle, queue := [], crcDropped := false, overrun := false
                shifted := [readyCount (s.port p), 0#8, 0#8, 0#8] })))
  ∧ (∀ (s : State) (p : Port), quiet s = true → s.rstn = .high →
      (∀ first : Byte, (s.port p).transaction ≠ .idle ∨ (s.port p).discarded ≠ .idle → exec (.transactionStart p first) s = .next s)
      ∧ (let ends : Instr → Transaction → Prop := fun i kind =>
          ((s.port p).discarded = kind → exec i s = .next (s.setPort p { s.port p with discarded := .idle }))
          ∧ ((s.port p).discarded ≠ kind → ¬ CanEnd s p kind → exec i s = .next s)
        (∀ clocked, ends (.fetch p clocked) .fetch) ∧ ends (.portClear p) .portClear
          ∧ (∀ i tag command payload, frameFields? i = some (p, tag, command, payload) → ends i .commandWrite)
          ∧ ∀ first later, ends (.commandWrite p (first :: later)) (opened first))
      ∧ exec (.commandWrite p []) s = .next s
      ∧ ((s.port p).transaction ≠ .idle →
          ∃ t, exec .rstnFall s = .next t ∧ (t.port p).transaction = .idle ∧ (t.port p).discarded = (s.port p).transaction))
  ∧ (∀ (s : State) (p : Port),
      (∀ later, exec (.commandWrite p (0x3C#8 :: later)) s = exec (.fetch p later.length) s)
      ∧ exec (.commandWrite p [0xC3#8, 0xC3#8, 0xC3#8, 0xC3#8]) s = exec (.portClear p) s)

/-! ### Sessions -/

/-- R49, R103, R130, R142, R147, R179, R186: a CLOSE command, or a port clear, of an open session (LIVE or LAPSED). The session is gone, the master
holds no resource and waits for none, owns no entry and is no elector, and where the journal accepts then, SESSION CLOSED with its cause is the
newest record. In order: ENTRY CANCELLED with cause CLOSED by admission; per resource CLAIM RELEASED with cause CLOSE and CLAIM GRANTED to the first
waiter, which has GRANT pending; a change of permit with cause ELECTORATE and all that follows from it; SESSION CLOSED. Of WITHHOLDING, with nothing
before to record, the re-examination comes first. Nothing else changes. The CLOSE is answered OK; the port clear leaves the queue empty and both
flags clear. Each ends the transaction of its kind in progress, or stands for a whole one, and what `shifted` holds is the model's choice
(notes/assumptions/7.md, 14.md); that the permit is changed at the part time of the latest tick is DEDUCED (8.md). -/
def Obligations.CloseLeavesNothing : Prop :=
  ∀ (s : State) (p : Port) (tag : Byte) (x : Session), quiet s = true → s.rstn = .high → s.session p = some x →
    let closed := (s.port p).queue ++ [{ tag := tag, status := .ok, payload := [] }]
    let elector := (s.permit.electors.get p).isSome = true
    let pm :=
      if elector then permitAfter { s.permit with electors := s.permit.electors.set p none } s.time.partTime .electorate else s.permit
    ∀ row ∈ [(Instr.closeSession p tag, CloseCause.command, Transaction.commandWrite, closed), (Instr.portClear p, CloseCause.reset, .portClear, [])],
      CanEnd s p row.2.2.1 → (row.2.1 = .command → (s.port p).queue.length < 4) →
      let cleared := row.2.1 = .reset
      let linked := fun u : State =>
        u.setPort p
          { u.port p with
            transaction := .idle, queue := row.2.2.2
            shifted := readyCount (s.port p) :: List.replicate (if cleared then 3 else 6) 0#8
            crcDropped := if cleared then false else (s.port p).crcDropped
            overrun := if cleared then false else (s.port p).overrun }
      ∃ t, exec row.1 s = .next t
        ∧ t.session p = none
        ∧ (t.port p).transaction = .idle
        ∧ (t.port p).queue = row.2.2.2
        ∧ (∀ r, (t.claimOf r).holder ≠ some p ∧ p ∉ (t.claimOf r).waiters)
        ∧ (∀ i e, t.entry i = some e → e.owner ≠ p)
        ∧ t.permit.electors.get p = none
        ∧ (t.journal.state = .accepting →
            ∃ r, t.journal.store.getLast? = some r ∧ r.body = .sessionClosed row.2.1 ∧ r.origin = .master p)
        ∧ (row.2.1 = .reset → (t.port p).crcDropped = false ∧ (t.port p).overrun = false)
        ∧ (∀ L M, Listed s (fun e => e.owner = p) admittedBefore L → PermitTakes (closeReleased s p L) pm M →
            RoomFor (22 + L.length + 2 * M.length) s →
            let v := permitChanged (closeReleased s p L) pm .electorate (some p) M
            t = conclude (linked
              { v.setSession p none with
                journal := v.journal.storing s.time.partTime (quality s) [(.master p, .sessionClosed row.2.1)] }))
        ∧ (s.journal.state = .withholding → (∀ i e, s.entry i = some e → e.owner ≠ p) → (∀ r, s.holds p r = false) → ¬ elector →
            let u : State := { s with claims := s.claims.map fun c => { c with waiters := c.waiters.filter (· ≠ p) } }
            t = conclude (linked (offer (.master p) (.sessionClosed row.2.1) (reexamine (u.setSession p none)))))

/-- R183: IDENTIFY, with no session or from a LIVE one, is answered OK with the part's identity; from a LAPSED one it is refused LAPSED. It
changes nothing. -/
def Obligations.IdentifyAnswers : Prop :=
  ∀ (s : State) (p : Port) (tag : Byte), Ready s p → LevelsFormed s →
    (s.session p = none ∨ (∃ x, OpenLive s p x) →
      Answers s (.identify p tag) .ok
        (ascii8 "Oxendis" ++ ascii8 "OXT-412" ++ [1#8] ++ code (portCode p) ++ [flagByte (s.session p).isSome]
          ++ [4#8, 4#8] ++ be 2 300 ++ [16#8, 8#8] ++ be 2 512 ++ [8#8, 64#8, 10#8, 4#8]))
    ∧ (∀ x, s.session p = some x → x.liveness = .lapsed → Refuses s (.identify p tag) .lapsed)

/-- R184, R58, R171: OPEN with a session open is refused SESSION_OPEN from a LIVE one (from a LAPSED one LAPSED); a mode, a start, a filter
or a window out of range is refused BAD_ARG. In range, with no session, it opens a LIVE session: its deadline is 1000 times the window
(absent for a window of 0), its reader stands at the position asked, its pending set is empty and its mask full; SESSION OPENED is stored and
the answer carries cursor, read_mark and the record's seq; in WITHHOLDING the record is counted as withheld and the answer carries no seq. -/
def Obligations.OpenBeginsSession : Prop :=
  ∀ (s : State) (p : Port) (tag mode : Byte) (kinds lines : BitVec 16) (origins start : Byte) (window : BitVec 16), Ready s p → LevelsFormed s →
    let row := Instr.openSession p tag mode kinds lines origins start window
    let windowOut := (1 ≤ window.toNat ∧ window.toNat ≤ 9) ∨ 60000 < window.toNat
    let filterOut := kinds &&& 0xC001#16 ≠ 0#16 ∨ origins &&& 0xE0#8 ≠ 0#8
    (∀ x, s.session p = some x → Refuses s row (if x.liveness = .live then .sessionOpen else .lapsed))
    ∧ (s.session p = none → 2 ≤ mode.toNat ∨ 2 ≤ start.toNat ∨ filterOut ∨ windowOut → Refuses s row .badArg)
    ∧ (s.session p = none → mode.toNat < 2 → start.toNat < 2 → ¬ filterOut → ¬ windowOut →
        let cursor := if start = 0#8 then oldestSeq s else endSeq s
        let opened : Session :=
          { liveness := .live, window := window.toNat
            deadline := if window.toNat = 0 then none else some (1000 * window.toNat)
            reader :=
              { mode := if mode = 0#8 then .retaining else .lossy, filter := { kinds := kinds, lines := lines, origins := origins }
                cursor := cursor, readMark := cursor, missed := 0 }
            notices := 0#8, mask := 0x3F#8 }
        ∃ t, exec row s = .next t
          ∧ Unchanged
              (if s.journal.state = .withholding ∨ s.journal.store.length < 512 then [.journal, .ports]
                else [.journal, .conditions, .ports]) s t
          ∧ (RoomFor 1 s →
              Answered s t row .ok (be 8 cursor ++ be 8 cursor ++ 1#8 :: be 8 s.journal.counter) (some opened)
                ∧ Stored s t s.time.partTime (quality s) [(.master p, .sessionOpened)])
          ∧ (s.journal.state = .withholding → s.journal.withheld < 4294967295 →
              Answered s t row .ok (be 8 cursor ++ be 8 cursor ++ List.replicate 9 0#8) (some opened)
                ∧ t.journal = { s.journal with withheld := s.journal.withheld + 1 }))

/-- R191: RENEW from a LAPSED session makes it LIVE with its deadline set, and stores LIVENESS RENEWED; nothing else comes back: claims,
votes and the reader's mode are as the lapse left them. -/
def Obligations.RenewRestoresLivenessOnly : Prop :=
  ∀ (s : State) (p : Port) (tag : Byte) (x : Session), Ready s p → LevelsFormed s → RoomFor 1 s → s.session p = some x →
    x.liveness = .lapsed →
    ∃ t, exec (.renew p tag) s = .next t
      ∧ Answered s t (.renew p tag) .ok [0#8]
          (some { x with liveness := .live, deadline := if x.window = 0 then none else some (1000 * x.window) })
      ∧ Stored s t s.time.partTime (quality s) [(.master p, .renewed)]
      ∧ Unchanged [.journal, .ports] s t

/-- R171, R173: STATUS, from a LIVE or LAPSED session, reports the pending set, the mask, the liveness, the latched conditions and the part vote,
and removes the five latched members. SET_ATTENTION_MASK with a mask of the six members replaces the mask whole; any other is refused
BAD_ARG. Nothing else changes. -/
def Obligations.StatusAndMask : Prop :=
  ∀ (s : State) (p : Port) (tag : Byte) (x : Session), Ready s p → LevelsFormed s → s.session p = some x →
    let latched := fun c : Condition => if (s.condition c).firstLatched.isSome then 2 ^ conditionCode c else 0
    (∃ t, exec (.status p tag) s = .next t
      ∧ Answered s t (.status p tag) .ok
          ([pendingSet s x, x.mask]
            ++ fields
              [(1, if x.liveness = .live then 0 else 1),
               (1, latched .timeInvalid + latched .refLost + latched .journalWithheld + latched .entryLate),
               (1, voteCode s.conditions.partVote)])
          (some { x.restarted with notices := 0#8 })
      ∧ Unchanged [.ports] s t)
    ∧ (∀ mask : Byte, x.liveness = .live →
        (mask.toNat < 64 →
          ∃ t, exec (.setAttentionMask p tag mask) s = .next t
            ∧ Answered s t (.setAttentionMask p tag mask) .ok [mask, pendingSet s x] (some { x.restarted with mask := mask })
            ∧ Unchanged [.ports] s t)
        ∧ (64 ≤ mask.toNat → Refuses s (.setAttentionMask p tag mask) .badArg))

/-! ### Queries -/

/-- R21, R35, R54, R74, R117, R131, R159, R169, R190, R191, R201: from a LIVE session a query changes nothing but the restarted deadline, and is
answered OK with what its rule lists, field by field as R201 lays it out (each field here a width in bytes and a number); so is a RENEW.
GET_TIME and KEEPALIVE are answered so from a LAPSED session too. The part time of the latest tick, which READ_INPUTS and READ_OUTPUTS answer
(R35, R117), is the present part time, also between a step and the next tick: that is DEDUCED (notes/assumptions/8.md). -/
def Obligations.QueriesAnswerOnly : Prop :=
  ∀ (s : State) (p : Port) (tag : Byte) (x : Session), Ready s p → LevelsFormed s → s.session p = some x →
    let flag := fun b : Bool => if b then 1 else 0
    let signed := fun (width : Nat) (v : Int) => (width, (v % (256 ^ width : Nat)).toNat)
    let lapsed := fun q : Port => (s.session q).any fun y => y.liveness == .lapsed
    let time := s.time
    let j := s.journal
    let pm := s.permit
    let electors := [Port.a, .b, .c, .d].filterMap fun q => (pm.electors.get q).map fun e => (q, e)
    let row : Instr → List (Nat × Nat) → Prop := fun i l => Answers s i .ok (fields l)
    row (.getTime p tag)
      ([(8, time.partTime), (1, if time.validity = .valid then 1 else 0), (1, if time.refState = .holdover then 1 else 0),
        (1, if time.validity = .invalid then 0 else if time.refState = .holdover then 1 else 2), signed 4 time.trim, (4, time.refHz)]
        ++ optionalFields 10 time.step (fun y => [signed 8 y.offset, (1, flag y.markValid), (1, portCode y.issuer)])
        ++ optionalFields 11 time.slew (fun y => [signed 4 y.amount, (2, y.rate), (1, portCode y.issuer), signed 4 y.remaining]))
    ∧ row (.keepalive p tag)
        ([(1, if x.liveness = .live then 0 else 1), (2, x.window)] ++ optionalFields 4 x.restarted.deadline (fun n => [(4, n)]))
    ∧ (x.liveness = .live →
        row (.renew p tag) [(1, 0)]
        ∧ row (.readInputs p tag)
            ((8, time.partTime) :: (List.finRange 16).flatMap fun n =>
              let l := s.line n
              [(1, levelCode l.raw), (1, flag l.inForce.enabled), (1, if l.qual = .idle then 0 else 1), (1, (l.tracked.map levelCode).getD 0xFF)])
        ∧ row (.queryJournal p tag)
            [(2, j.store.length), (8, oldestSeq s), (8, endSeq s - 1), (1, if j.state = .accepting then 0 else 1), (4, j.withheld),
              (1, ([Port.a, .b, .c, .d].map fun q => if j.store.head?.any (pinsRecord s · q) then 2 ^ portCode q else 0).sum)]
        ∧ row (.queryReader p tag)
            [(1, if x.reader.mode = .retaining then 0 else 1), (2, x.reader.filter.kinds.toNat), (2, x.reader.filter.lines.toNat),
              (1, x.reader.filter.origins.toNat), (8, x.reader.cursor), (8, x.reader.readMark), (4, x.reader.missed),
              (2, if x.reader.mode = .retaining then
                (j.store.filter fun r => x.reader.filter.accepts r && decide (x.reader.cursor ≤ r.seq)).length else 0)]
        ∧ row (.readOutputs p tag)
            ([(8, time.partTime), (1, permitStateCode pm.state), (1, levelCode pm.prun), (1, levelCode pm.phold)]
              ++ (List.finRange 8).flatMap fun k =>
                let o := s.out k
                [(1, levelCode o.commanded), (1, levelCode o.driven), (1, levelCode o.rest), (1, levelCode o.safe), (1, flag o.gated),
                 (1, ((s.claimOf (.out k)).holder.map portCode).getD 0xFF), (1, (o.pulse.map fun q => levelCode q.level).getD 0xFF),
                 (3, (o.pulse.map fun q => q.left).getD 0),
                 (1, ((List.finRange 64).filter fun i => (s.entry i).any fun e => e.state == .pulsing && e.line == some k).length)])
        ∧ row (.queryClaims p tag)
            (allResources.flatMap fun r =>
              let c := s.claimOf r
              [(1, resourceCode r), (1, (c.holder.map portCode).getD 0xFF), (1, (c.holder.map fun h => flag (lapsed h)).getD 0xFF),
               (1, c.waiters.length)]
                ++ c.waiters.map (fun w => (1, portCode w)) ++ List.replicate (3 - c.waiters.length) (1, 0xFF))
        ∧ row (.queryPermit p tag)
            ([(1, permitStateCode pm.state), (1, levelCode pm.prun), (1, levelCode pm.phold), (1, voteCode pm.aggregate),
              (1, voteCode pm.partVote), (1, electors.length)]
              ++ electors.flatMap (fun y => [(1, portCode y.1), (1, voteCode y.2.vote), (1, flag y.2.forced), (1, flag (lapsed y.1))])
              ++ List.replicate (16 - 4 * electors.length) (1, 0xFF)
              ++ optionalFields 4 pm.timer (fun n => [(4, n)]) ++ [(2, pm.startDelay)]
              ++ optionalFields 11 pm.lastChange (fun y => (8, y.1) :: match y.2 with
                  | .vote q v => [(1, 0), (1, portCode q), (1, voteCode v)]
                  | .partVote => [(1, 1), (1, 0xFF), (1, 0xFF)]
                  | .delayExpired => [(1, 2), (1, 0xFF), (1, 0xFF)]
                  | .electorate => [(1, 3), (1, 0xFF), (1, 0xFF)]))
        ∧ row (.queryConditions p tag)
            (([Condition.timeInvalid, .refLost, .journalWithheld, .entryLate].flatMap fun c =>
              let r := s.condition c
              [(1, flag r.firstLatched.isSome), (1, if r.action = .stop then 1 else 0)] ++ optionalFields 8 r.firstLatched (fun n => [(8, n)])
                ++ [(1, if c = .timeInvalid ∨ c = .refLost then flag r.active else 0xFF)])
              ++ [(1, voteCode s.conditions.partVote)]))

/-- R104, R105, R135, R199, R200: QUERY_ENTRY, LIST_ENTRIES and READ_CONFIG change nothing. A slot outside 0 to 63, a scope or from_slot out of
range, and an identifier that names no parameter are refused BAD_ARG; a stale handle is refused STALE_HANDLE; else the answer carries the
entry, the summaries or the stored value, field by field (each a width in bytes and a number). -/
def Obligations.AddressedQueriesAnswer : Prop :=
  ∀ (s : State) (p : Port) (tag : Byte) (x : Session), Ready s p → LevelsFormed s → OpenLive s p x →
    let present := fun b : Bool => if b then 1 else 0
    let flag := fun b : Bool => if b then 1 else 0
    let level := fun v : Level => if v = .high then 1 else 0
    let slots := fun (test : Entry → Bool) (fromSlot : Nat) =>
      (List.finRange 64).filter fun i => decide (fromSlot ≤ i.val) && (s.entry i).any test
    let summary := fun i : Fin 64 => (s.entry i).toList.flatMap fun e =>
      [(1, i.val), (1, (s.handle i).generation.toNat), (1, portCode e.owner), (1, entryStateCode e.state), (1, actionCode e.action),
       (1, (e.line.map fun k => k.val).getD 0xFF), (1, present e.due.isSome), (8, e.due.getD 0)]
    let listing := fun l : List (Fin 64) =>
      let first := l.take 16
      fields ([(1, first.length), (1, if 16 < l.length then (first.getLast?.map fun i => i.val + 1).getD 0xFF else 0xFF),
          (1, ((List.finRange 64).filter fun i => (s.entry i).isNone).length), (1, owned s p), (1, s.schedule.quotas.get p)]
        ++ first.flatMap summary)
    (∀ slot generation : Byte, 64 ≤ slot.toNat → Refuses s (.queryEntry p tag slot generation) .badArg)
    ∧ (∀ (i : Fin 64) (generation : Byte), s.entry i = none ∨ (s.handle i).generation ≠ generation →
        Refuses s (.queryEntry p tag (BitVec.ofNat 8 i.val) generation) .staleHandle)
    ∧ (∀ (i : Fin 64) (e : Entry), s.entry i = some e →
        let d := e.descriptor
        Answers s (.queryEntry p tag (BitVec.ofNat 8 i.val) (s.handle i).generation) .ok
          (fields
            [(1, i.val), (1, (s.handle i).generation.toNat), (1, portCode e.owner), (8, e.admission),
             (1, d.action.toNat), (1, d.line.toNat), (1, d.pulseLevel.toNat), (3, d.width.toNat), (1, d.timing.toNat), (8, d.timeValue.toNat),
             (1, d.trigLine.toNat), (1, d.trigEdge.toNat), (1, d.rearm.toNat), (4, d.period.toNat), (2, d.count.toNat),
             (1, d.latePolicy.toNat), (1, d.flags.toNat),
             (1, entryStateCode e.state), (1, if e.anchor = .relative then 1 else 0),
             (1, present e.due.isSome + 2 * present e.remaining.isSome), (8, e.due.getD 0), (2, e.remaining.getD 0),
             (3, (e.running.map fun r => r.left).getD 0)]))
    ∧ (∀ fromSlot : Byte, fromSlot.toNat < 64 →
        Answers s (.listEntries p tag 0#8 fromSlot) .ok (listing (slots (fun e => e.owner == p) fromSlot.toNat))
          ∧ Answers s (.listEntries p tag 1#8 fromSlot) .ok (listing (slots (fun _ => true) fromSlot.toNat)))
    ∧ (∀ scope fromSlot : Byte, 2 ≤ scope.toNat ∨ 64 ≤ fromSlot.toNat → Refuses s (.listEntries p tag scope fromSlot) .badArg)
    ∧ (let read := fun id v : Nat => Answers s (.readConfig p tag (BitVec.ofNat 16 id)) .ok (fields [(2, id), (4, v)])
       read 0x100 s.time.refHz
       ∧ (∀ n : Fin 16,
          let c := (s.line n).cfg
          read (0x200 + n.val) (flag c.enabled) ∧ read (0x300 + n.val) (edgeSelectCode c.edge) ∧ read (0x400 + n.val) c.filter
            ∧ read (0x500 + n.val) c.budget)
       ∧ (∀ m, read (0x600 + portCode m) (s.schedule.quotas.get m))
       ∧ read 0x700 s.schedule.tolerance
       ∧ (∀ k : Fin 8, read (0x800 + k.val) (level (s.out k).rest) ∧ read (0x900 + k.val) (level (s.out k).safe)
          ∧ read (0xA00 + k.val) (flag (s.out k).gated))
       ∧ read 0xB00 s.permit.startDelay
       ∧ (∀ c, read (0xC00 + conditionCode c) (if (s.condition c).action = .stop then 1 else 0)))
    ∧ (∀ param : BitVec 16,
        (∀ row ∈ ([(1, 1), (2, 16), (3, 16), (4, 16), (5, 16), (6, 4), (7, 1), (8, 8), (9, 8), (10, 8), (11, 1), (12, 4)] : List (Nat × Nat)),
          param.toNat / 256 = row.1 → row.2 ≤ param.toNat % 256) →
        Refuses s (.readConfig p tag param) .badArg)

/-! ### Part time -/

/-- R9, R11: STEP_TIME without the TIME claim is refused NOT_HOLDER; with an offset of 0 or above 2^62 in magnitude, or a flag that is neither
clear nor set, BAD_ARG; else the step is placed in the slot with the requester as issuer, the one it replaces is reported as
STEP_REPLACED with its own issuer, and it is answered PENDING. -/
def Obligations.StepTimeWaits : Prop :=
  ∀ (s : State) (p : Port) (tag : Byte) (offset : BitVec 64) (mark : Byte) (x : Session), Ready s p → LevelsFormed s → OpenLive s p x →
    (s.holds p .time = false → Refuses s (.stepTime p tag offset mark) .notHolder)
    ∧ (s.holds p .time = true → offset.toInt = 0 ∨ 2 ^ 62 < offset.toInt.natAbs ∨ 2 ≤ mark.toNat →
        Refuses s (.stepTime p tag offset mark) .badArg)
    ∧ (s.holds p .time = true → offset.toInt ≠ 0 → offset.toInt.natAbs ≤ 2 ^ 62 → mark.toNat < 2 →
        (s.time.step.isSome = true → RoomFor 1 s) →
        exec (.stepTime p tag offset mark) s
          = .next (conclude
              { answeredOnly s (.stepTime p tag offset mark) .pending [] with
                time := { s.time with step := some { offset := offset.toInt, markValid := mark == 1#8, issuer := p } }
                journal := match s.time.step with
                  | none => s.journal
                  | some y =>
                      s.journal.storing s.time.partTime (quality s) [(.master y.issuer, .time (.stepReplaced y.offset y.markValid))] }))

/-- R9, R10, R15, R17: SLEW_TIME and SET_TRIM without the TIME claim are refused NOT_HOLDER, with an argument out of range BAD_ARG. Else a slew in
flight is abandoned with what remains of it and the new one is in flight with progress 0 and its record; the trim is the value given, also
where that is the value in force, TRIM_SET carries the old and the new trim, and a slew in flight is not touched. -/
def Obligations.SlewAndTrim : Prop :=
  ∀ (s : State) (p : Port) (tag : Byte) (amount trim : BitVec 32) (rate : BitVec 16) (x : Session), Ready s p → LevelsFormed s → OpenLive s p x →
    (s.holds p .time = false →
      Refuses s (.slewTime p tag amount rate) .notHolder
        ∧ Refuses s (.setTrim p tag trim) .notHolder)
    ∧ (s.holds p .time = true →
        (amount.toInt = 0 ∨ 1000000 < amount.toInt.natAbs ∨ rate.toNat = 0 ∨ 500 < rate.toNat →
          Refuses s (.slewTime p tag amount rate) .badArg)
        ∧ (500000 < trim.toInt.natAbs → Refuses s (.setTrim p tag trim) .badArg)
        ∧ (amount.toInt ≠ 0 → amount.toInt.natAbs ≤ 1000000 → 1 ≤ rate.toNat → rate.toNat ≤ 500 → RoomFor 2 s →
            exec (.slewTime p tag amount rate) s
              = .next (conclude
                  { answeredOnly s (.slewTime p tag amount rate) .ok [] with
                    time := { s.time with slew := some { amount := amount.toInt, rate := rate.toNat, progress := 0, issuer := p } }
                    journal := s.journal.storing s.time.partTime (quality s)
                      ((match s.time.slew with
                        | none => []
                        | some y => [(Origin.master y.issuer, Body.time (.slewAbandoned y.remaining))])
                        ++ [(.master p, .time (.slewStarted amount.toInt rate.toNat))]) }))
        ∧ (trim.toInt.natAbs ≤ 500000 → RoomFor 1 s →
            exec (.setTrim p tag trim) s
              = .next (conclude
                  { answeredOnly s (.setTrim p tag trim) .ok [] with
                    time := { s.time with trim := trim.toInt }
                    journal := s.journal.storing s.time.partTime (quality s) [(.master p, .time (.trimSet s.time.trim trim.toInt))] })))

/-- R18, R19, R20: a strobe edge arms its slot, and is ignored while RSTn is LOW. The capture at a tick records part time, quality and whether a step
is pending, counts an overwrite of a HELD slot up to 255, clears the flag and raises STROBE for an open session. READ_STROBE answers
with a HELD slot and empties it, an armed capture staying armed, and answers EMPTY for an empty one. -/
def Obligations.StrobeSlots : Prop :=
  ∀ (s : State) (p : Port) (tag : Byte),
    (quiet s = true → LevelsFormed s →
      exec (.strobeEdge p) s
        = .next (if s.rstn = .low then s
            else { s with time := { s.time with strobes := s.time.strobes.set p { s.time.strobes.get p with armed := true } } }))
    ∧ (Due s (.strobeCapture p) → (s.time.strobes.get p).armed = true →
        exec (.strobeCapture p) s
          = .next (conclude
              (({ s.without (.strobeCapture p) with
                  time :=
                    { s.time with
                      strobes := s.time.strobes.set p
                        { captured := some { time := s.time.partTime, quality := quality s, stepPending := s.time.step.isSome }
                          overwrite :=
                            if (s.time.strobes.get p).captured.isSome then min ((s.time.strobes.get p).overwrite + 1) 255 else 0
                          armed := false } } }).setSession p
                ((s.session p).map fun x : Session => { x with notices := x.notices ||| 0x08#8 }))))
    ∧ (Ready s p → LevelsFormed s → (∃ x, OpenLive s p x) →
        ((s.time.strobes.get p).captured = none → Refuses s (.readStrobe p tag) .empty)
        ∧ (∀ c, (s.time.strobes.get p).captured = some c →
            exec (.readStrobe p tag) s
              = .next
                  { answeredOnly s (.readStrobe p tag) .ok
                      (be 8 c.time ++ code (qualityCode c.quality) ++ [flagByte c.stepPending] ++ be 1 (s.time.strobes.get p).overwrite) with
                    time :=
                      { s.time with
                        strobes := s.time.strobes.set p
                          { captured := none, overwrite := 0, armed := (s.time.strobes.get p).armed } } }))

/-- R1, R4, R5, R6, R16: in LOCKED a REFCLK cycle feeds the accumulator with F = REF_HZ and an oscillator cycle feeds nothing; in HOLDOVER the
oscillator feeds it with F = 20,000,000 and REFCLK does not. A REFCLK edge returns the loss count to 0; an oscillator cycle counts it up to
100, and in HOLDOVER it counts the exit count where an edge has arrived and the loss count stays below 100. That a break is
remembered in `refSeen` is the model's (notes/assumptions/12.md). -/
def Obligations.CyclesFeedTheAccumulator : Prop :=
  ∀ s : State, quiet s = true → LevelsFormed s →
    (s.time.refState = .holdover →
      exec .refclkCycle s = .next (s.setTime { s.time with lossCount := 0, refSeen := true }))
    ∧ (s.time.refState = .locked →
        ∃ b, exec .refclkCycle s = .next (s.setTime { s.time with lossCount := 0, refSeen := true, acc := b.acc, slew := b.slew })
          ∧ Fed s.time.refHz s.time b)
    ∧ (s.time.refState = .locked →
        exec .oscillatorCycle s = .next (s.setTime { s.time with lossCount := min (s.time.lossCount + 1) 100 }))
    ∧ (s.time.refState = .holdover →
        ∃ b, exec .oscillatorCycle s
            = .next (s.setTime
                { s.time with
                  lossCount := min (s.time.lossCount + 1) 100, acc := b.acc, slew := b.slew
                  exitCount :=
                    if s.time.refSeen = true ∧ s.time.lossCount + 1 < 100 then min (s.time.exitCount + 1) 20000 else s.time.exitCount })
          ∧ Fed 20000000 s.time b)

/-- R1, R2, R12, R25, R85, R115, R148, R188: a tick takes 1 from the accumulator and adds 1 to part time, and at a multiple of 1000 a pending step
becomes due; every pulse, the arming timer and every deadline count down by 1; every line's raw level is its sample. Nothing else
changes but what the tick makes due. Part time does not wrap; that a tick at 2^64 - 1 leaves it there is DEDUCED (notes/assumptions/4.md). The
levels at the pins come with the row (9.md). -/
def Obligations.TickAdvances : Prop :=
  ∀ (s : State) (levels : BitVec 16), nextEvent s = some .tick → LevelsFormed s →
    let made := if s.time.partTime < 2 ^ 64 - 1 then s.time.partTime + 1 else s.time.partTime
    ∃ t, exec (.tick levels) s = .next t
      ∧ t.time
        = { s.time with
            partTime := made, acc := s.time.acc - 1, stepDue := decide (made % 1000 = 0) && s.time.step.isSome }
      ∧ t.evPins = levels
      ∧ (∀ n, (t.line n).raw = (if levels.getLsbD n.val then .high else .low) ∧ (t.line n).cfg = (s.line n).cfg
          ∧ (t.line n).tracked = (s.line n).tracked)
      ∧ (∀ k, t.out k = { s.out k with pulse := (s.out k).pulse.map fun q => { q with left := q.left - 1 } })
      ∧ (∀ i, t.entry i
          = (s.entry i).map fun e => { e with running := e.running.map fun r => { r with left := r.left - 1 } })
      ∧ (∀ i, t.handle i = s.handle i)
      ∧ t.permit = { s.permit with timer := s.permit.timer.map fun n => n - 1 }
      ∧ (∀ p, t.session p = (s.session p).map fun x => { x with deadline := x.deadline.map fun n => n - 1 })
      ∧ SameLinks s t
      ∧ Unchanged [.time, .evPins, .lines, .outs, .schedule, .permit, .ports, .tickWork] s t

/-- R18, R26, R28, R33, R82, R85, R115, R148, R189: what a tick makes due. Judged on the state the tick leaves: an armed capture, a pulse whose
ticks left are 0, an entry in the due order whose due time is the part time made, an arming timer at 0, a LIVE session's deadline at 0, a line
whose stored enabled value differs from the one in force, and, of a line that is and stays enabled, a stored filter length, edge select or
budget that differs from the one in force. The levels at the pins come with the row (notes/assumptions/9.md). -/
def Obligations.TickMakesDue : Prop :=
  ∀ (s : State) (levels : BitVec 16), nextEvent s = some .tick →
    ∃ t, exec (.tick levels) s = .next t
      ∧ (∀ p, .strobeCapture p ∈ t.tickWork ↔ (s.time.strobes.get p).armed = true)
      ∧ (∀ k, .immediatePulseEnd k ∈ t.tickWork ↔ ∃ q, (t.out k).pulse = some q ∧ q.left = 0)
      ∧ (∀ i, .pulseEnd i ∈ t.tickWork ↔ ∃ e r, t.entry i = some e ∧ e.running = some r ∧ r.left = 0)
      ∧ (∀ i, .entryDue i ∈ t.tickWork
          ↔ ∃ e, t.entry i = some e ∧ (e.state = .pending ∨ e.state = .pulsing) ∧ e.due = some t.time.partTime)
      ∧ (.delayExpired ∈ t.tickWork ↔ t.permit.state = .arming ∧ t.permit.timer = some 0)
      ∧ (∀ p, .lapse p ∈ t.tickWork ↔ ∃ x, t.session p = some x ∧ x.liveness = .live ∧ x.deadline = some 0)
      ∧ (∀ n, .lineEnable n ∈ t.tickWork ↔ (s.line n).inForce.enabled = false ∧ (s.line n).cfg.enabled = true)
      ∧ (∀ n, .lineDisable n ∈ t.tickWork ↔ (s.line n).inForce.enabled = true ∧ (s.line n).cfg.enabled = false)
      ∧ (∀ n, let l := s.line n
          let stays := l.inForce.enabled = true ∧ l.cfg.enabled = true
          (.budgetChange n ∈ t.tickWork ↔ stays ∧ l.cfg.budget ≠ l.inForce.budget)
            ∧ (.filterChange n ∈ t.tickWork ↔ stays ∧ l.cfg.filter ≠ l.inForce.filter)
            ∧ (.edgeSelectChange n ∈ t.tickWork ↔ stays ∧ l.cfg.edge ≠ l.inForce.edge)
            ∧ (¬ stays → .edgeQualified n ∉ t.tickWork ∧ .chatterWindowEnd n ∉ t.tickWork))

/-- R24, R26, R27, R28, R31, R33: what a line takes from a tick. Enabled, with its filter length unchanged, it takes the sample by the table of
R27, and whether the change is qualified at this tick is whether EDGE_QUALIFIED is due; at a tick at which the filter length changed it takes
no step of the table, and EDGE_QUALIFIED is due where the new length is 0 and the sample differs from the tracked level. With its budget
unchanged its window position moves from 1 to 10,000 and again to 1, and at 10,000 the window's end is due; with a changed budget neither.
A disabled line, and one about to be enabled or disabled, takes the sample only; a line that stays disabled takes its stored settings. The
levels at the pins come with the row (notes/assumptions/9.md). -/
def Obligations.SampleQualifies : Prop :=
  ∀ (s : State) (levels : BitVec 16) (n : Fin 16), nextEvent s = some .tick →
    let l := s.line n
    let sample : Level := if levels.getLsbD n.val then .high else .low
    let window :=
      if l.cfg.budget ≠ l.inForce.budget then l.window
      else if l.inForce.budget = 0 then 0
      else if l.window < 10000 then l.window + 1
      else 1
    ∃ t, exec (.tick levels) s = .next t
      ∧ (l.inForce.enabled = false → l.cfg.enabled = false → t.line n = { l with raw := sample, inForce := l.cfg })
      ∧ (l.inForce.enabled ≠ l.cfg.enabled → t.line n = { l with raw := sample })
      ∧ (l.inForce.enabled = true → l.cfg.enabled = true →
          t.line n = { l with raw := sample, window := window, qual := (t.line n).qual }
          ∧ (.chatterWindowEnd n ∈ t.tickWork ↔ l.cfg.budget = l.inForce.budget ∧ window = 10000)
          ∧ (l.cfg.filter ≠ l.inForce.filter →
              (t.line n).qual = l.qual ∧ (.edgeQualified n ∈ t.tickWork ↔ l.cfg.filter = 0 ∧ l.tracked ≠ some sample))
          ∧ (l.cfg.filter = l.inForce.filter →
              (l.qual = .idle → l.tracked = some sample → (t.line n).qual = .idle ∧ .edgeQualified n ∉ t.tickWork)
              ∧ (l.qual = .idle → l.tracked ≠ some sample → l.cfg.filter = 0 → (t.line n).qual = .idle ∧ .edgeQualified n ∈ t.tickWork)
              ∧ (l.qual = .idle → l.tracked ≠ some sample → 1 ≤ l.cfg.filter →
                  (t.line n).qual = .qualifying sample 0 ∧ .edgeQualified n ∉ t.tickWork)
              ∧ (∀ h, l.qual = .qualifying sample h →
                  (t.line n).qual = .qualifying sample (h + 1) ∧ (.edgeQualified n ∈ t.tickWork ↔ l.cfg.filter ≤ h + 1))
              ∧ (∀ c h, l.qual = .qualifying c h → c ≠ sample → (t.line n).qual = .idle ∧ .edgeQualified n ∉ t.tickWork)))

/-- R4, R6, R16, R163: the loss, the break and the return of the reference, and the end of a slew. On the loss every oscillator cycle counted since
the last edge is credited at 20,000,000, with the slew's share, which brings a slew to its amount and ends it with SLEW_DONE or moves it on;
the whole ticks that gives are issued; then the reference state is HOLDOVER, the exit count 0, REF_LOST is handed, and HOLDOVER_ENTERED is
offered: where that offer is the one that enters WITHHOLDING, JOURNAL_WITHHELD stands behind REF_LOST. A break only returns the exit count to 0
until the next edge. On leaving HOLDOVER the state is LOCKED, the REF_LOST level drops and HOLDOVER_LEFT is stored. A slew that has reached its
amount ends with SLEW_DONE. The place of these events among those that are due is DEDUCED (notes/assumptions/10.md, 12.md); that SLEW_DONE
stands before the credited ticks (24.md), and that the levels at the pins come with the row HOLDOVER_ENTERED (9.md), is the model's choice; that a tick at 2^64 - 1 leaves part time
there is DEDUCED (4.md). -/
def Obligations.ReferenceEvents : Prop :=
  (∀ (s : State) (levels : BitVec 16), lossIsDue s = true → nextEvent s = none → Still s → s.rstn = .high → LevelsFormed s →
    let n := s.time.lossCount
    let base : Rat := s.time.acc + n * ((1000000 / 20000000) * (1 + (s.time.trim : Rat) / 1000000000))
    let fed : Rat × Option Slew × List (Origin × Body) := match s.time.slew with
      | none => (base, none, [])
      | some x =>
          let sign : Rat := if 0 ≤ x.amount then 1 else -1
          let share : Rat := n * ((x.rate : Rat) / 20000000)
          let left : Rat := (x.amount.natAbs : Rat) - x.progress
          if left ≤ share then (base + sign * left, none, [(.master x.issuer, .time (.slewDone x.amount))])
          else (base + sign * share, some { x with progress := x.progress + share }, [])
    let ticks := fed.1.floor.toNat
    let made := min (s.time.partTime + ticks) (2 ^ 64 - 1)
    let entered : Timebase :=
      { s.time with
        partTime := made, acc := fed.1 - ticks, slew := fed.2.1, refState := .holdover, exitCount := 0, refSeen := false }
    let sampled : State :=
      { s with
        evPins := levels, time := entered
        lines := if ticks = 0 then s.lines else Vector.ofFn fun n =>
          { s.line n with raw := if levels.getLsbD n.val then .high else .low, inForce := (s.line n).cfg } }
    s.time.partTime ≤ 2 ^ 64 - 1 →
    (RoomFor (fed.2.2.length + 1) s →
      exec (.holdoverEntered levels) s
        = .next (conclude
            { sampled with
              journal :=
                (s.journal.storing s.time.partTime (quality s) fed.2.2).storing made (quality sampled)
                  [(.part, .time .holdoverEntered)]
              conditions := { s.conditions with raises := [.refLost] } }))
    ∧ (s.journal.state = .accepting → 512 ≤ s.journal.store.length → oldestPinned s = true → fed.2.2 = [] →
        exec (.holdoverEntered levels) s
          = .next (conclude
              { sampled with
                journal := { s.journal with state := .withholding, withheld := 1 }
                conditions := { s.conditions with raises := [.refLost, .journalWithheld] } })))
  ∧ (∀ (s : State) (levels : BitVec 16), lossIsDue s = true →
      ∃ t, exec (.holdoverEntered levels) s = .next t
        ∧ t.time.refState = .holdover ∧ t.time.exitCount = 0
        ∧ (s.rstn = .high → .refLost ∈ t.conditions.raises)
        ∧ (s.rstn = .high → t.journal.state = .accepting →
            ∃ r, t.journal.store.getLast? = some r ∧ r.body = .time .holdoverEntered ∧ r.origin = .part ∧ r.time = t.time.partTime
              ∧ r.quality = quality t))
  ∧ (∀ s : State, nextEvent s = none → LevelsFormed s → breakIsDue s = true →
      exec .referenceBreak s = .next (s.setTime { s.time with exitCount := 0, refSeen := false }))
  ∧ (∀ s : State, nextEvent s = none → exitIsDue s = true → RoomFor 1 s →
      exec .holdoverLeft s
        = .next (conclude
            { s with
              time := { s.time with refState := .locked }
              journal := s.journal.storing s.time.partTime
                (match s.time.validity with
                  | .valid => .valid
                  | .invalid => .invalid)
                [(.part, .time .holdoverLeft)]
              conditions := { s.conditions with refLost := { s.conditions.refLost with active := false } } }))
  ∧ (∀ (s : State) (x : Slew), nextEvent s = some .slewDone → s.time.slew = some x → RoomFor 1 s →
      exec .slewDone s
        = .next (conclude
            { s with
              time := { s.time with slew := none }
              journal := s.journal.storing s.time.partTime (quality s) [(.master x.issuer, .time (.slewDone x.amount))] }))

/-- R7, R8, R12, R13, R17: the pending step at its boundary. Where it would carry part time below 0 or above 2^64 - 1 it is refused, with the record
of its issuer, and nothing else changes. Else part time is moved, a step with mark_valid leaves validity VALID, the slot is empty
and a slew in flight is abandoned; with no entry in the schedule the records are SLEW_ABANDONED, STEP_APPLIED and, where time
becomes valid, MARKED_VALID, all timed and qualified after the step. -/
def Obligations.StepApplicationMovesTime : Prop :=
  ∀ (s : State) (y : PendingStep), nextEvent s = some .step → s.time.step = some y →
    let target : Int := (s.time.partTime : Int) + y.offset
    let marks := y.markValid && s.time.validity == .invalid
    let moved : Timebase :=
      { s.time with
        partTime := target.toNat, validity := if marks then .valid else s.time.validity, step := none, stepDue := false, slew := none }
    (target < 0 ∨ 2 ^ 64 - 1 < target → RoomFor 1 s →
      exec .stepApplication s
        = .next (conclude
            { s with
              time := { s.time with step := none, stepDue := false }
              journal := s.journal.storing s.time.partTime (quality s) [(.master y.issuer, .time (.stepRefused y.offset))] }))
    ∧ (0 ≤ target → target ≤ 2 ^ 64 - 1 →
        ∃ t, exec .stepApplication s = .next t ∧ t.time = moved
          ∧ (marks = true → (t.condition .timeInvalid).active = false)
          ∧ Unchanged [.time, .journal, .schedule, .outs, .conditions, .ports, .freeUses] s t)
    ∧ (0 ≤ target → target ≤ 2 ^ 64 - 1 → (∀ i, s.entry i = none) → RoomFor 3 s →
        exec .stepApplication s
          = .next (conclude
              { s with
                time := moved
                journal := s.journal.storing target.toNat (quality (s.setTime moved))
                  ((match s.time.slew with
                    | none => []
                    | some x => [(Origin.master x.issuer, Body.time (.slewAbandoned x.remaining))])
                    ++ [(.master y.issuer, .time (.stepApplied s.time.partTime))]
                    ++ if marks then [(.master y.issuer, .time .markedValid)] else [])
                conditions :=
                  if marks then { s.conditions with timeInvalid := { s.conditions.timeInvalid with active := false } } else s.conditions }))

/-- R93, R94, R95, R97: what an applied step does to entries. A RELATIVE due time moves by the offset and the entry is otherwise as it was; an
ABSOLUTE entry that the step does not pass over, and an entry with no due time, is as it was; an ABSOLUTE entry that it passes over on a gated line
in HELD enters DEFERRED with its due time. -/
def Obligations.StepMovesDueTimes : Prop :=
  ∀ (s : State) (y : PendingStep), nextEvent s = some .step → s.time.step = some y →
    0 ≤ (s.time.partTime : Int) + y.offset → (s.time.partTime : Int) + y.offset ≤ 2 ^ 64 - 1 →
    ∃ t, exec .stepApplication s = .next t
      ∧ (∀ i e d, s.entry i = some e → e.anchor = .relative → e.due = some d → 0 ≤ (d : Int) + y.offset → (d : Int) + y.offset ≤ 2 ^ 64 - 1 →
          t.entry i = some { e with due := some ((d : Int) + y.offset).toNat })
      ∧ (∀ i e, s.entry i = some e → e.due = none → t.entry i = some e)
      ∧ (∀ i e d, s.entry i = some e → e.anchor = .absolute → e.due = some d →
          d ≤ s.time.partTime ∨ (s.time.partTime : Int) + y.offset < d → t.entry i = some e)
      ∧ (∀ i e d, s.entry i = some e → e.anchor = .absolute → e.due = some d → s.time.partTime < d →
          (d : Int) ≤ (s.time.partTime : Int) + y.offset → e.state = .pending → e.running = none → s.permit.state = .held →
          onGatedLine s e = true → t.entry i = some { e with state := .deferred })

/-! ### Event inputs -/

/-- R26, R28, R32, R33: the settings of a line as they take effect at a tick, and the end of a chatter window. A line enabled takes its sample as the
tracked level, with no counts and a window only for a nonzero budget. A disable, a change of budget and the end of a window first report a
nonzero excess with the tracked level. A change of filter abandons an interval and takes the sample as in IDLE under the new length; a
change of edge select touches nothing else. -/
def Obligations.LineEvents : Prop :=
  ∀ (s : State) (n : Fin 16),
    let l := s.line n
    let first := if l.cfg.budget = 0 then 0 else 1
    let report := fun v : Level =>
      if l.excess = 0 then s.journal else s.journal.storing s.time.partTime (quality s) [(.part, .chatter n l.excess v)]
    (Due s (.lineEnable n) →
      exec (.lineEnable n) s
        = .next (conclude ((s.without (.lineEnable n)).setEventLine n
            { l with inForce := l.cfg, tracked := some l.raw, qual := .idle, window := first, admitted := 0, excess := 0 })))
    ∧ (Due s (.filterChange n) →
        exec (.filterChange n) s
          = .next (conclude ((s.without (.filterChange n)).setEventLine n
              { l with
                inForce := { l.inForce with filter := l.cfg.filter }
                qual := if l.tracked = some l.raw ∨ l.cfg.filter = 0 then .idle else .qualifying l.raw 0 })))
    ∧ (Due s (.edgeSelectChange n) →
        exec (.edgeSelectChange n) s
          = .next (conclude ((s.without (.edgeSelectChange n)).setEventLine n { l with inForce := { l.inForce with edge := l.cfg.edge } })))
    ∧ (∀ v, l.tracked = some v → (l.excess ≠ 0 → RoomFor 1 s) →
        (Due s (.lineDisable n) →
          exec (.lineDisable n) s
            = .next (conclude (({ s.without (.lineDisable n) with journal := report v }).setEventLine n
                { l with inForce := l.cfg, tracked := none, qual := .idle, window := 0, admitted := 0, excess := 0 })))
        ∧ (Due s (.budgetChange n) →
            exec (.budgetChange n) s
              = .next (conclude (({ s.without (.budgetChange n) with journal := report v }).setEventLine n
                  { l with inForce := { l.inForce with budget := l.cfg.budget }, window := first, admitted := 0, excess := 0 })))
        ∧ (Due s (.chatterWindowEnd n) →
            exec (.chatterWindowEnd n) s
              = .next (conclude (({ s.without (.chatterWindowEnd n) with journal := report v }).setEventLine n
                  { l with admitted := 0, excess := 0 }))))

/-- R29, R30, R31, R34, R91, R97: a qualified change sets the tracked level. An edge not selected ends there; one past the budget adds to the excess
count; an admitted one is counted under a budget, stored as an INPUT record back-dated by the filter length and not below 0, and taken by every
entry that waits for it: due at record time plus offset, RELATIVE, PENDING, or DEFERRED where it is late on a gated line in HELD. -/
def Obligations.EdgeQualifiedIsRecordedAndTaken : Prop :=
  ∀ (s : State) (n : Fin 16), Due s (.edgeQualified n) →
    let l := s.line n
    let edge : Edge := match l.raw with
      | .high => .rise
      | .low => .fall
    let selected := l.inForce.edge = .both ∨ (l.inForce.edge = .rise ∧ edge = .rise) ∨ (l.inForce.edge = .fall ∧ edge = .fall)
    let after : EventLine := { l with tracked := some l.raw, qual := .idle }
    let counted : EventLine := if l.inForce.budget = 0 then after else { after with admitted := l.admitted + 1 }
    let recordTime := s.time.partTime - l.inForce.filter
    (¬ selected → exec (.edgeQualified n) s = .next (conclude ((s.without (.edgeQualified n)).setEventLine n after)))
    ∧ (selected → l.inForce.budget ≠ 0 → l.inForce.budget ≤ l.admitted →
        exec (.edgeQualified n) s
          = .next (conclude ((s.without (.edgeQualified n)).setEventLine n { after with excess := l.excess + 1 })))
    ∧ (selected → l.inForce.budget = 0 ∨ l.admitted < l.inForce.budget →
        ((∀ i e, s.entry i = some e → e.awaits n edge = false) → RoomFor 1 s →
          exec (.edgeQualified n) s
            = .next (conclude (({ s.without (.edgeQualified n) with
                journal := s.journal.storing recordTime (quality s) [(.part, .input n l.raw edge)] }).setEventLine n counted)))
        ∧ ∃ t, exec (.edgeQualified n) s = .next t
            ∧ t.line n = counted
            ∧ (∀ i e, s.entry i = some e → e.awaits n edge = false → t.entry i = some e)
            ∧ (∀ i e trigger, s.entry i = some e → e.awaits n edge = true → e.trigger = some trigger → e.running = none →
                s.time.partTime < recordTime + trigger.offset → recordTime + trigger.offset ≤ 2 ^ 64 - 1 →
                t.entry i = some { e with anchor := .relative, due := some (recordTime + trigger.offset), state := .pending })
            ∧ (∀ i e trigger, s.entry i = some e → e.awaits n edge = true → e.trigger = some trigger → e.running = none →
                recordTime + trigger.offset ≤ s.time.partTime → s.time.partTime ≤ 2 ^ 64 - 1 → s.permit.state = .held → onGatedLine s e = true →
                t.entry i = some { e with anchor := .relative, due := some (recordTime + trigger.offset), state := .deferred }))

/-! ### The journal and its readers -/

/-- R43, R44, R46, R47, R48, R53: what becomes of a note. With room it is stored and answered OK with its seq. At a full store with the oldest
record unpinned, that record is retired, the readers are pushed past it, and the note takes its place. With the oldest pinned the note is
withheld: the count is 1, the journal is WITHHOLDING and hands one JOURNAL_WITHHELD. In WITHHOLDING it is counted and leaves no other trace. A
withheld note is answered WITHHELD; a note of 0 or more than 16 bytes, a term that is not well-formed, is refused BAD_LENGTH and runs all the
same (the model's choice: notes/assumptions/22.md). -/
def Obligations.PostNoteDecides : Prop :=
  ∀ (s : State) (p : Port) (tag : Byte) (note : List Byte) (x : Session), Ready s p → LevelsFormed s → OpenLive s p x →
    (note = [] ∨ 16 < note.length → Refuses s (.postNote p tag note) .badLength)
    ∧ (1 ≤ note.length → note.length ≤ 16 →
        (RoomFor 1 s →
          exec (.postNote p tag note) s
            = .next (conclude
                { answeredOnly s (.postNote p tag note) .ok (be 8 s.journal.counter) with
                  journal := s.journal.storing s.time.partTime (quality s) [(.master p, .note note)] }))
        ∧ (s.journal.state = .withholding →
            exec (.postNote p tag note) s
              = .next
                  { answeredOnly s (.postNote p tag note) .withheld [] with
                    journal :=
                      { s.journal with
                        withheld := if s.journal.withheld < 4294967295 then s.journal.withheld + 1 else s.journal.withheld } })
        ∧ (s.journal.state = .accepting → 512 ≤ s.journal.store.length → oldestPinned s = true →
            exec (.postNote p tag note) s
              = .next
                  { answeredOnly s (.postNote p tag note) .withheld [] with
                    journal := { s.journal with state := .withholding, withheld := 1 }
                    conditions := { s.conditions with raises := s.conditions.raises ++ [.journalWithheld] } })
        ∧ (∀ r rest, s.journal.state = .accepting → 512 ≤ s.journal.store.length → s.journal.store = r :: rest → oldestPinned s = false →
            ∃ t, exec (.postNote p tag note) s = .next t
              ∧ t.journal = ({ s.journal with store := rest }).storing s.time.partTime (quality s) [(.master p, .note note)]
              ∧ (t.port p).queue = (s.port p).queue ++ [{ tag := tag, status := .ok, payload := be 8 s.journal.counter }]
              ∧ (∀ q, t.session q = (heard s p q).map (pushed r))
              ∧ Unchanged [.journal, .ports] s t))

/-- R45, R49, R50: a pinned record that is held stays held through every offer, while RSTn is LOW too. A re-examination does nothing in ACCEPTING or
with the oldest record pinned; else the oldest is retired, the readers are pushed past it, a GAP record with the count takes the freed place, and
the journal accepts with nothing withheld. -/
def Obligations.PinsAndTheGap : Prop :=
  (∀ (s : State) (o : Origin) (b : Body) (r : Record), r ∈ s.journal.store → pinned s r = true → r ∈ (offer o b s).journal.store)
  ∧ (∀ (s : State) (r : Record), pinned s r = true
      ↔ ∃ p x, s.session p = some x ∧ x.reader.mode = .retaining ∧ x.reader.filter.accepts r = true ∧ x.reader.cursor ≤ r.seq)
  ∧ (∀ s : State, s.journal.state = .accepting ∨ oldestPinned s = true → reexamine s = s)
  ∧ (∀ (s : State) (r : Record) (rest : List Record), s.journal.state = .withholding → s.journal.store = r :: rest → oldestPinned s = false →
      (reexamine s).journal
          = { ({ s.journal with store := rest }).storing s.time.partTime (quality s) [(.part, .gap s.journal.withheld)] with
              withheld := 0, state := .accepting }
        ∧ (∀ q, (reexamine s).session q = (s.session q).map (pushed r))
        ∧ SameLinks s (reexamine s) ∧ Unchanged [.journal, .ports] s (reexamine s))

/-- R61, R62, R198: READ_JOURNAL with a count of 1 to 8 returns the first n matching records at or above the cursor. Its read_mark becomes one past
the last record examined: the n-th match, or the newest record held where fewer match; with no record at or above the cursor it is the
cursor. With commit the cursor becomes the read_mark, and the re-examination follows. A count of 0 or above 8, or a flag that is neither clear
nor set, is refused BAD_ARG. It is taken from a LIVE or a LAPSED session. -/
def Obligations.ReadJournalScans : Prop :=
  ∀ (s : State) (p : Port) (tag n commit : Byte) (x : Session), Ready s p → LevelsFormed s → s.session p = some x →
    (n.toNat = 0 ∨ 8 < n.toNat ∨ 2 ≤ commit.toNat → Refuses s (.readJournal p tag n commit) .badArg)
    ∧ (1 ≤ n.toNat → n.toNat ≤ 8 → commit.toNat < 2 →
        let held := s.journal.store.filter fun r => x.reader.cursor ≤ r.seq
        let matching := held.filter x.reader.filter.accepts
        let got := matching.take n.toNat
        let last := if n.toNat ≤ matching.length then got.getLast? else held.getLast?
        let mark := (last.map fun r => r.seq + 1).getD x.reader.cursor
        let more := s.journal.store.any fun r => x.reader.filter.accepts r && decide (mark ≤ r.seq)
        let y : Session :=
          { x.restarted with
            reader := { x.reader with readMark := mark, cursor := if commit = 1#8 then mark else x.reader.cursor } }
        let read := (answeredOnly s (.readJournal p tag n commit) .ok
          (be 1 got.length ++ [flagByte more] ++ be 4 x.reader.missed ++ got.flatMap recordBytes)).setSession p (some y)
        exec (.readJournal p tag n commit) s = .next (conclude (if commit = 1#8 then reexamine read else read)))

/-- R49, R64, R66, R67, R68: ACK_JOURNAL below the cursor does nothing, between cursor and read_mark moves the cursor one past it, at or above
read_mark is refused BAD_ARG. SEEK_JOURNAL sets both positions to a target in range, SET_FILTER replaces the filter and sets read_mark back,
SET_READER_MODE sets the mode; a target, a filter or a mode out of range is refused BAD_ARG. Every one answered OK is followed by the
re-examination, also where it changed nothing. -/
def Obligations.ReaderCommandsMoveTheReader : Prop :=
  ∀ (s : State) (p : Port) (tag : Byte) (x : Session), Ready s p → LevelsFormed s → s.session p = some x →
    let taken : Instr → Reader → Prop := fun i r =>
      exec i s = .next (conclude (reexamine ((answeredOnly s i .ok []).setSession p (some { x.restarted with reader := r }))))
    (∀ upto : BitVec 64,
      (upto.toNat < x.reader.cursor → taken (.ackJournal p tag upto) x.reader)
      ∧ (x.reader.cursor ≤ upto.toNat → upto.toNat < x.reader.readMark →
          taken (.ackJournal p tag upto) { x.reader with cursor := upto.toNat + 1 })
      ∧ (x.reader.cursor ≤ upto.toNat → x.reader.readMark ≤ upto.toNat →
          Refuses s (.ackJournal p tag upto) .badArg))
    ∧ (x.liveness = .live →
        (∀ seq : BitVec 64,
          let seek := fun (where_ : Byte) (pos : Nat) => taken (.seekJournal p tag where_ seq) { x.reader with cursor := pos, readMark := pos }
          (seq = 0#64 → seek 0#8 (oldestSeq s) ∧ seek 1#8 (endSeq s))
          ∧ (oldestSeq s ≤ seq.toNat → seq.toNat ≤ endSeq s → seek 2#8 seq.toNat)
          ∧ (seq.toNat < oldestSeq s ∨ endSeq s < seq.toNat →
              Refuses s (.seekJournal p tag 2#8 seq) .badArg)
          ∧ (∀ where_ : Byte, 3 ≤ where_.toNat ∨ (where_.toNat ≤ 1 ∧ seq ≠ 0#64) →
              Refuses s (.seekJournal p tag where_ seq) .badArg))
        ∧ (∀ (kinds lines : BitVec 16) (origins : Byte),
            (kinds &&& 0xC001#16 = 0#16 → origins &&& 0xE0#8 = 0#8 →
              taken (.setFilter p tag kinds lines origins)
                { x.reader with filter := { kinds := kinds, lines := lines, origins := origins }, readMark := x.reader.cursor })
            ∧ (kinds &&& 0xC001#16 ≠ 0#16 ∨ origins &&& 0xE0#8 ≠ 0#8 →
                Refuses s (.setFilter p tag kinds lines origins) .badArg))
        ∧ taken (.setReaderMode p tag 0#8) { x.reader with mode := .retaining }
        ∧ taken (.setReaderMode p tag 1#8) { x.reader with mode := .lossy }
        ∧ (∀ mode : Byte, 2 ≤ mode.toNat → Refuses s (.setReaderMode p tag mode) .badArg))

/-! ### The schedule -/

/-- R78, R80, R199: which descriptors are in range, and what each of the descriptor's fields then gives the entry: its action, line, pulse
level and width, timing, rearm flag, period, count, late policy and flags. -/
def Obligations.DescriptorRange : Prop :=
  (∀ d : Descriptor,
    (descriptorSpec? d).isSome = true
      ↔ d.action.toNat ≤ 4
        ∧ (if d.action = 4#8 then d.line = 0xFF#8 else d.line.toNat < 8)
        ∧ (if d.action = 3#8 then d.pulseLevel.toNat ≤ 1 ∧ d.width ≠ 0#24 else d.pulseLevel = 0xFF#8 ∧ d.width = 0#24)
        ∧ (if d.timing = 2#8 then
            d.trigLine.toNat < 16 ∧ d.trigEdge.toNat ≤ 2 ∧ d.rearm.toNat ≤ 1 ∧ d.timeValue.toNat ≤ 4294967295
          else
            d.trigLine = 0xFF#8 ∧ d.trigEdge = 0xFF#8 ∧ d.rearm = 0#8
              ∧ (d.timing = 0#8 ∨ (d.timing = 1#8 ∧ d.timeValue.toNat ≤ 4294967295)))
        ∧ (if d.period = 0#32 then d.count = 0#16 else 10 ≤ d.period.toNat)
        ∧ (d.action = 3#8 → d.period ≠ 0#32 → d.width.toNat < d.period.toNat)
        ∧ d.latePolicy.toNat ≤ 1
        ∧ d.flags &&& 0xFC#8 = 0#8)
  ∧ (∀ (d : Descriptor) (spec : EntrySpec), descriptorSpec? d = some spec →
      spec.action
          = (if d.action = 0#8 then .set else if d.action = 1#8 then .clear else if d.action = 2#8 then .toggle
            else if d.action = 3#8 then .pulse else .mark)
        ∧ spec.line.map (fun k => k.val) = (if d.action = 4#8 then none else some d.line.toNat)
        ∧ (d.action = 3#8 → spec.pulseLevel = (if d.pulseLevel = 1#8 then .high else .low) ∧ spec.width = d.width.toNat)
        ∧ (d.timing = 0#8 → spec.timing = .absolute d.timeValue.toNat)
        ∧ (d.timing = 1#8 → spec.timing = .relative d.timeValue.toNat)
        ∧ (d.timing = 2#8 → ∃ n : Fin 16, n.val = d.trigLine.toNat
            ∧ spec.timing = .trigger
              { line := n, edge := if d.trigEdge = 0#8 then .rise else if d.trigEdge = 1#8 then .fall else .either
                offset := d.timeValue.toNat })
        ∧ spec.rearm = decide (d.rearm = 1#8)
        ∧ spec.period = (if d.period = 0#32 then none else some d.period.toNat)
        ∧ spec.count = (if d.count = 0#16 then none else some d.count.toNat)
        ∧ spec.late = (if d.latePolicy = 1#8 then .skip else .fireLate)
        ∧ spec.journalFlag = decide (d.flags.toNat % 2 = 1) ∧ spec.notifyFlag = decide (2 ≤ d.flags.toNat))

/-- R75, R76, R79, R80, R81, R87, R97: ADD_ENTRY passes its five checks in order. Admitted, the entry takes the lowest free slot under the next
generation and the next admission number, with every field its descriptor gives (DescriptorRange says which), its anchor, due time and state by its
timing, and no running pulse. An entry due later waits; one late on a gated line in HELD is DEFERRED; one whose due time would lie above 2^64 - 1,
or a late unrepeated SKIP entry without a journal flag, completes at once. The other late entries: CatchUpMovesAlongTheGrid. -/
def Obligations.AddEntryAdmits : Prop :=
  ∀ (s : State) (p : Port) (tag : Byte) (d : Descriptor) (x : Session), Ready s p → LevelsFormed s → OpenLive s p x →
    let row := Instr.addEntry p tag d
    let names := fun k : Fin 8 => d.action.toNat ≤ 3 ∧ d.line.toNat = k.val
    let shut := fun k : Fin 8 => (s.out k).gated = true ∧ (s.permit.state = .stopped ∨ s.permit.state = .arming)
    (∀ k, names k → s.holds p (.out k) = false → Refuses s row .notHolder)
    ∧ (∀ k, names k → s.holds p (.out k) = true → shut k → Refuses s row .wrongState)
    ∧ ((∀ k, names k → s.holds p (.out k) = true ∧ ¬ shut k) →
        (descriptorSpec? d = none → Refuses s row .badArg)
        ∧ ∀ spec, descriptorSpec? d = some spec →
            (s.schedule.quotas.get p ≤ owned s p → Refuses s row .quota)
            ∧ (owned s p < s.schedule.quotas.get p → (∀ i, (s.entry i).isSome = true) → Refuses s row .tableFull)
            ∧ ∀ i : Fin 64, owned s p < s.schedule.quotas.get p → s.entry i = none → (∀ j, j < i → (s.entry j).isSome = true) →
                let e := newEntry p d spec s.schedule.admission s.time.partTime
                let generation := (s.handle i).generation + 1#8
                let placed := fun e : Option Entry =>
                  { s.schedule with
                    slots := s.schedule.slots.set i { generation := generation, entry := e }
                    admission := s.schedule.admission + 1 }
                let admitted := fun (state : Nat) (due : Option Nat) =>
                  answeredOnly s row .ok
                    (fields ([(1, i.val), (1, generation.toNat), (8, s.schedule.admission), (1, state)] ++ optionalFields 8 due fun n => [(8, n)]))
                (e.owner = p ∧ e.admission = s.schedule.admission ∧ e.descriptor = d ∧ e.running = none
                  ∧ e.action = spec.action ∧ e.line = spec.line ∧ e.pulseLevel = spec.pulseLevel ∧ e.width = spec.width
                  ∧ e.rearm = spec.rearm ∧ e.period = spec.period ∧ e.initial = spec.count ∧ e.remaining = spec.count
                  ∧ e.late = spec.late ∧ e.journalFlag = spec.journalFlag ∧ e.notifyFlag = spec.notifyFlag
                  ∧ (∀ due, spec.timing = .absolute due → e.anchor = .absolute ∧ e.due = some due ∧ e.trigger = none ∧ e.state = .pending)
                  ∧ (∀ r, spec.timing = .relative r →
                      e.anchor = .relative ∧ e.trigger = none ∧ e.state = .pending
                        ∧ e.due = if s.time.partTime + r ≤ 2 ^ 64 - 1 then some (s.time.partTime + r) else none)
                  ∧ (∀ g, spec.timing = .trigger g →
                      e.anchor = .relative ∧ e.due = none ∧ e.trigger = some g ∧ e.state = .awaitingTrigger))
                ∧ (e.state = .awaitingTrigger → exec row s = .next { admitted 0 none with schedule := placed (some e) })
                ∧ (∀ due, e.due = some due → s.time.partTime < due →
                    exec row s = .next { admitted 1 (some due) with schedule := placed (some e) })
                ∧ (∀ due, e.due = some due → due ≤ s.time.partTime → deferredNow s e = true →
                    exec row s = .next { admitted 2 (some due) with schedule := placed (some { e with state := .deferred }) })
                ∧ ((e.due = none ∧ e.state = .pending)
                      ∨ (∃ due, e.due = some due ∧ due ≤ s.time.partTime ∧ deferredNow s e = false ∧ e.late = .skip ∧ e.period = none
                          ∧ e.journalFlag = false) →
                    RoomFor 1 s →
                    exec row s
                      = .next (conclude
                          { admitted 4 none with
                            schedule := placed none
                            journal := s.journal.storing s.time.partTime (quality s)
                              [(.master p, .entryCompleted { slot := i, generation := generation } e.action e.line)] })))

/-- R75, R100, R101: CANCEL_ENTRY with a slot outside 0 to 63 is refused BAD_ARG, with a stale handle STALE_HANDLE, for another's entry NOT_HOLDER;
else the entry is gone with its CANCELLED record, the slot is free and keeps its generation, and a running pulse hands its trailing level. -/
def Obligations.CancelEntryFrees : Prop :=
  ∀ (s : State) (p : Port) (tag : Byte) (x : Session), Ready s p → LevelsFormed s → OpenLive s p x →
    (∀ slot generation : Byte, 64 ≤ slot.toNat → Refuses s (.cancelEntry p tag slot generation) .badArg)
    ∧ (∀ (i : Fin 64) (generation : Byte), s.entry i = none ∨ (s.handle i).generation ≠ generation →
        Refuses s (.cancelEntry p tag (BitVec.ofNat 8 i.val) generation) .staleHandle)
    ∧ (∀ (i : Fin 64) (e : Entry), s.entry i = some e → e.owner ≠ p →
        Refuses s (.cancelEntry p tag (BitVec.ofNat 8 i.val) (s.handle i).generation) .notHolder)
    ∧ (∀ (i : Fin 64) (e : Entry), s.entry i = some e → e.owner = p → RoomFor 1 s →
        let u : State :=
          { answeredOnly s (.cancelEntry p tag (BitVec.ofNat 8 i.val) (s.handle i).generation) .ok [] with
            journal := s.journal.storing s.time.partTime (quality s) [(.master p, .entryCancelled (s.handle i) e.action e.line .owner)] }
        let handed := match e.running, e.line with
          | some r, some k => u.setOut k { s.out k with commanded := r.trailing, pulse := none }
          | _, _ => u
        exec (.cancelEntry p tag (BitVec.ofNat 8 i.val) (s.handle i).generation) s = .next (conclude (handed.putEntry i none)))

/-- R82, R83, R84, R85, R86, R87, R88, R89: an entry fires at the tick that makes its due time. A PULSING entry's running pulse is ended first. Its
level is handed to its line, which ends an immediate pulse there; MARK hands nothing. A PULSE begins its pulse. A FIRED record without
late_by is stored where the journal flag is set, and ENTRY is raised for the owner where the notify flag is. A period moves the due time and
takes 1 from a count; with no next occurrence the entry completes with its record, or rearms. Other entries, other lines and every handle stay
as they were. -/
def Obligations.EntryFires : Prop :=
  ∀ (s : State) (i : Fin 64) (e : Entry), Due s (.entryDue i) → s.entry i = some e → e.state = .pending ∨ e.state = .pulsing →
    e.due = some s.time.partTime → e.running = none ∨ e.action = .pulse → deferredNow s e = false → RoomFor 2 s →
    let remaining := e.remaining.map fun n => n - 1
    let next : Option Nat := match e.period with
      | none => none
      | some q => if remaining = some 0 ∨ 2 ^ 64 - 1 < s.time.partTime + q then none else some (s.time.partTime + q)
    let remaining := if e.period.isSome then remaining else e.remaining
    let fired := if e.journalFlag then [(Origin.master e.owner, Body.entryFired (s.handle i) e.action e.line none)] else []
    let completed := if e.action ≠ .pulse ∧ next = none ∧ e.rearm = false then
        [(Origin.master e.owner, Body.entryCompleted (s.handle i) e.action e.line)] else []
    ∃ t, exec (.entryDue i) s = .next t
      ∧ t.journal = s.journal.storing s.time.partTime (quality s) (fired ++ completed)
      ∧ t.entry i
        = (if e.action = .pulse then
            some
              { e with
                due := next, remaining := remaining, state := .pulsing
                running := some { left := e.width, trailing := if e.pulseLevel = .high then .low else .high } }
          else if next.isSome then some { e with due := next, remaining := remaining, state := .pending }
          else if e.rearm then some { e with due := none, remaining := e.initial, state := .awaitingTrigger }
          else none)
      ∧ (∀ j, j ≠ i → t.entry j = s.entry j) ∧ (∀ j, t.handle j = s.handle j)
      ∧ (∀ k, e.line = some k → e.action ≠ .mark → (t.out k).pulse = none ∧ (t.out k).commanded = levelFired e (s.out k).commanded)
      ∧ (∀ k, e.line ≠ some k ∨ e.action = .mark → (t.out k).pulse = (s.out k).pulse ∧ (t.out k).commanded = (s.out k).commanded)
      ∧ (∀ k, (t.out k).gated = (s.out k).gated ∧ (t.out k).rest = (s.out k).rest ∧ (t.out k).safe = (s.out k).safe)
      ∧ (∀ p, t.session p
          = if e.notifyFlag = true ∧ p = e.owner then (s.session p).map fun x => { x with notices := x.notices ||| 0x10#8 } else s.session p)
      ∧ SameLinks s t
      ∧ t.tickWork = s.tickWork.erase (.entryDue i)
      ∧ Unchanged [.journal, .schedule, .outs, .ports, .tickWork] s t

/-- R85, R86, R88, R89, R97: an entry that comes due on a gated line in HELD becomes DEFERRED, a running pulse ended first, and does nothing else.
A pulse whose ticks left are 0 hands its trailing level; the entry then is PENDING with a next occurrence, rearms where its flag is set, or
completes with its record. -/
def Obligations.EntryDefersAndPulseEnds : Prop :=
  ∀ (s : State) (i : Fin 64) (e : Entry), s.entry i = some e →
    (∀ k, Due s (.entryDue i) → e.state = .pending ∨ e.state = .pulsing → e.due = some s.time.partTime → s.permit.state = .held →
      e.line = some k → (s.out k).gated = true →
      exec (.entryDue i) s
        = .next (conclude (((s.without (.entryDue i)).setOut k (pulseEnded e (s.out k))).putEntry i
            (some { e with state := .deferred, running := none }))))
    ∧ (∀ k trailing, Due s (.pulseEnd i) → e.running = some { left := 0, trailing := trailing } → e.line = some k →
        let u := (s.without (.pulseEnd i)).setOut k { s.out k with commanded := trailing, pulse := none }
        (e.due.isSome = true →
          exec (.pulseEnd i) s = .next (conclude (u.putEntry i (some { e with running := none, state := .pending }))))
        ∧ (e.due = none → e.rearm = true →
            exec (.pulseEnd i) s
              = .next (conclude (u.putEntry i (some { e with running := none, state := .awaitingTrigger, remaining := e.initial }))))
        ∧ (e.due = none → e.rearm = false → RoomFor 1 s →
            exec (.pulseEnd i) s
              = .next (conclude (({ u with
                  journal := s.journal.storing s.time.partTime (quality s)
                    [(.master e.owner, .entryCompleted (s.handle i) e.action e.line)] }).putEntry i none))))

/-- R81, R84, R86, R90, R91, R93, R97: late entries. Each is taken once, as `lateTaken` says: a running pulse is ended; on a gated line in HELD
it is deferred; else it fires with its level handed and late_by = T - d in its FIRED record, judged against the tolerance and with ENTRY
raised, or leaves its SKIPPED record, and it stands at the first grid point after T, or completes or rearms. An entry late at its admission is
taken so before the answer, which carries its state and due time after; those that take an edge and are late at once, after the INPUT record;
those that a step passes over, in due order between SLEW_ABANDONED and STEP_APPLIED. Those released by a return to RUNNING:
ElectorateMovesThePermit. Between a step and the next tick T is the part time after the step (notes/assumptions/8.md). -/
def Obligations.CatchUpMovesAlongTheGrid : Prop :=
  (∀ d T q : Nat, d ≤ T → 10 ≤ q →
    let k := (T - d) / q + 1
    T < d + k * q ∧ d + k * q ≤ T + q ∧ (d + k * q - d) % q = 0)
  ∧ (∀ (s : State) (i : Fin 64) (e : Entry) (d : Nat), s.entry i = some e → e.due = some d → d ≤ s.time.partTime →
      (takeLate s.time.partTime s i).schedule = (lateTaken s i).schedule ∧ (takeLate s.time.partTime s i).outs = (lateTaken s i).outs)
  ∧ (∀ (s : State) (p : Port) (tag : Byte) (d : Descriptor) (x : Session) (i : Fin 64),
      Ready s p → LevelsFormed s → OpenLive s p x → RoomFor 2 s → ∀ spec, descriptorSpec? d = some spec →
      (∀ k, spec.line = some k → s.holds p (.out k) = true ∧ ¬ ((s.out k).gated = true ∧ (s.permit.state = .stopped ∨ s.permit.state = .arming))) →
      owned s p < s.schedule.quotas.get p → s.entry i = none → (∀ j, j < i → (s.entry j).isSome = true) →
      let e := newEntry p d spec s.schedule.admission s.time.partTime
      let generation := (s.handle i).generation + 1#8
      let place := fun u : State =>
        { u with
          schedule :=
            { s.schedule with
              slots := s.schedule.slots.set i { generation := generation, entry := some e }, admission := s.schedule.admission + 1 } }
      (∃ due, e.due = some due ∧ due ≤ s.time.partTime) →
      let after := (lateTaken (place s) i).entry i
      let answer :=
        [(1, i.val), (1, generation.toNat), (8, s.schedule.admission), (1, (after.map fun e => entryStateCode e.state).getD 4)]
          ++ optionalFields 8 (after.bind Entry.due) fun n => [(8, n)]
      exec (.addEntry p tag d) s = .next (conclude (lateTaken (place (answeredOnly s (.addEntry p tag d) .ok (fields answer))) i)))
  ∧ (∀ (s : State) (n : Fin 16), Due s (.edgeQualified n) →
      let l := s.line n
      let edge : Edge := match l.raw with
        | .high => .rise
        | .low => .fall
      let recordTime := s.time.partTime - l.inForce.filter
      l.inForce.edge = .both ∨ (l.inForce.edge = .rise ∧ edge = .rise) ∨ (l.inForce.edge = .fall ∧ edge = .fall) →
      l.inForce.budget = 0 ∨ l.admitted < l.inForce.budget →
      (∀ i e, s.entry i = some e → e.awaits n edge = true →
        e.running = none ∧ ∀ g, e.trigger = some g → recordTime + g.offset ≤ 2 ^ 64 - 1) →
      let take := fun e : Entry =>
        if e.awaits n edge = true then
          { e with anchor := .relative, due := e.trigger.map fun g => recordTime + g.offset, state := .pending }
        else e
      let u := ({ s.without (.edgeQualified n) with
          journal := s.journal.storing recordTime (quality s) [(.part, .input n l.raw edge)] }).setEventLine n
        { l with tracked := some l.raw, qual := .idle, admitted := if l.inForce.budget = 0 then l.admitted else l.admitted + 1 }
      let u := u.mapEntries fun e => some (take e)
      ∀ L, Listed s (fun e => e.awaits n edge = true ∧ (take e).lateAt s.time.partTime = true) (fun e f => dueBefore (take e) (take f)) L →
      RoomFor (1 + 2 * L.length) s →
      exec (.edgeQualified n) s = .next (conclude (L.foldl lateTaken u)))
  ∧ (∀ (s : State) (y : PendingStep), nextEvent s = some .step → s.time.step = some y →
      let old := s.time.partTime
      let target : Int := (old : Int) + y.offset
      0 ≤ target → target ≤ 2 ^ 64 - 1 →
      (∀ i e, s.entry i = some e → e.anchor = .relative →
        ∀ d, e.due = some d → 0 ≤ (d : Int) + y.offset ∧ (d : Int) + y.offset ≤ 2 ^ 64 - 1) →
      let marks := y.markValid && s.time.validity == .invalid
      let moved : Timebase :=
        { s.time with
          partTime := target.toNat, validity := if marks then .valid else s.time.validity, step := none, stepDue := false, slew := none }
      let shift := fun e : Entry =>
        if e.anchor = .relative then { e with due := e.due.map fun d => ((d : Int) + y.offset).toNat } else e
      let abandoned := match s.time.slew with
        | none => []
        | some x => [(Origin.master x.issuer, Body.time (.slewAbandoned x.remaining))]
      let u := ({ s with
        time := moved, journal := s.journal.storing target.toNat (quality (s.setTime moved)) abandoned }).mapEntries fun e => some (shift e)
      ∀ L, Listed s (fun e => e.anchor = .absolute ∧ (e.state = .pending ∨ e.state = .pulsing)
        ∧ ∃ d, e.due = some d ∧ old < d ∧ (d : Int) ≤ target) dueBefore L →
      RoomFor (3 + 2 * L.length) s →
      let u := L.foldl lateTaken u
      exec .stepApplication s
        = .next (conclude
            { u with
              journal := u.journal.storing target.toNat (quality u)
                ((.master y.issuer, .time (.stepApplied old)) :: if marks then [(.master y.issuer, .time .markedValid)] else [])
              conditions :=
                if marks then { u.conditions with timeInvalid := { u.conditions.timeInvalid with active := false } } else u.conditions }))

/-! ### Output lines -/

/-- R108, R109, R114, R115: SET_LINE checks the line, the claim, the permit for a gated line, and the arguments, in order. It ends an immediate pulse
without its trailing level, acts on the commanded level, and answers the two levels, which are equal. An immediate pulse whose ticks left
are 0 sets its trailing level and is gone. -/
def Obligations.LinesAct : Prop :=
  ∀ (s : State) (p : Port) (tag line action pulseLevel : Byte) (width : BitVec 24) (k : Fin 8),
    (Due s (.immediatePulseEnd k) → ∀ q, (s.out k).pulse = some q → q.left = 0 →
      exec (.immediatePulseEnd k) s
        = .next (conclude ((s.without (.immediatePulseEnd k)).setOut k { s.out k with commanded := q.trailing, pulse := none })))
    ∧ (Ready s p → LevelsFormed s → (∃ x, OpenLive s p x) →
        let sets : Instr → Level → Option ImmediatePulse → Prop := fun i v pulse =>
          exec i s
            = .next ((answeredOnly s i .ok (code (levelCode v) ++ code (levelCode v))).setOut k
                { s.out k with commanded := v, driven := v, pulse := pulse })
        let toggled : Level := if (s.out k).commanded = .high then .low else .high
        (8 ≤ line.toNat → Refuses s (.setLine p tag line action pulseLevel width) .badArg)
        ∧ (line.toNat = k.val → s.holds p (.out k) = false → Refuses s (.setLine p tag line action pulseLevel width) .notHolder)
        ∧ (line.toNat = k.val → s.holds p (.out k) = true →
            ((s.out k).gated = true ∧ s.permit.state ≠ .running →
              Refuses s (.setLine p tag line action pulseLevel width) .wrongState)
            ∧ ((s.out k).gated = false ∨ s.permit.state = .running →
                (4 ≤ action.toNat ∨ (action.toNat ≤ 2 ∧ (pulseLevel ≠ 0xFF#8 ∨ width ≠ 0#24))
                    ∨ (action.toNat = 3 ∧ (2 ≤ pulseLevel.toNat ∨ width = 0#24)) →
                  Refuses s (.setLine p tag line action pulseLevel width) .badArg)
                ∧ (pulseLevel = 0xFF#8 → width = 0#24 →
                    sets (.setLine p tag line 0#8 pulseLevel width) .high none
                      ∧ sets (.setLine p tag line 1#8 pulseLevel width) .low none
                      ∧ sets (.setLine p tag line 2#8 pulseLevel width) toggled none)
                ∧ (width ≠ 0#24 →
                    sets (.setLine p tag line 3#8 1#8 width) .high (some { level := .high, left := width.toNat, trailing := .low })
                      ∧ sets (.setLine p tag line 3#8 0#8 width) .low (some { level := .low, left := width.toNat, trailing := .high })))))

/-! ### Claims and configuration -/

/-- R122, R123, R127: CLAIM and WITHDRAW by their tables. A free resource is granted to the requester and CLAIM GRANTED with cause COMMAND is
offered, its origin the new holder, whatever the journal does with it; the holder is answered OK; with the resource held by another the
requester is answered HELD_BY, or with the wait flag joins the end of the list or keeps its place, answered QUEUED with its position. WITHDRAW
takes a waiter out and is refused BAD_ARG to any other. A resource outside the ten, or a flag that is neither clear nor set, is refused
BAD_ARG. Nothing else changes. -/
def Obligations.ClaimAndWithdrawByTable : Prop :=
  ∀ (s : State) (p : Port) (tag b wait : Byte) (x : Session), Ready s p → LevelsFormed s → OpenLive s p x →
    (resourceOf? b = none ∨ 2 ≤ wait.toNat → Refuses s (.claim p tag b wait) .badArg)
    ∧ (resourceOf? b = none → Refuses s (.withdraw p tag b) .badArg)
    ∧ ∀ r, resourceOf? b = some r →
        let c := s.claimOf r
        (p ∈ c.waiters →
          exec (.withdraw p tag b) s
            = .next ((answeredOnly s (.withdraw p tag b) .ok []).setClaim r { c with waiters := c.waiters.filter (· ≠ p) }))
        ∧ (p ∉ c.waiters → Refuses s (.withdraw p tag b) .badArg)
        ∧ (c.holder = none → wait.toNat < 2 → RoomFor 1 s →
            exec (.claim p tag b wait) s
              = .next (conclude (({ answeredOnly s (.claim p tag b wait) .ok (code (portCode p)) with
                  journal := s.journal.storing s.time.partTime (quality s) [(.master p, .claimGranted r .command)] }).setClaim r
                { c with holder := some p })))
        ∧ (c.holder = none → wait.toNat < 2 →
            exec (.claim p tag b wait) s
              = .next (conclude (offer (.master p) (.claimGranted r .command)
                  ((answeredOnly s (.claim p tag b wait) .ok (code (portCode p))).setClaim r { c with holder := some p }))))
        ∧ (c.holder = some p → wait.toNat < 2 →
            Answers s (.claim p tag b wait) .ok (code (portCode p)))
        ∧ (∀ h, c.holder = some h → h ≠ p →
            Answers s (.claim p tag b 0#8) .heldBy (code (portCode h))
            ∧ (p ∈ c.waiters →
                Answers s (.claim p tag b 1#8) .queued (code (portCode h) ++ code (c.waiters.idxOf p + 1)))
            ∧ (p ∉ c.waiters →
                exec (.claim p tag b 1#8) s
                  = .next ((answeredOnly s (.claim p tag b 1#8) .queued (code (portCode h) ++ code (c.waiters.length + 1))).setClaim r
                    { c with waiters := c.waiters ++ [p] })))

/-- R100, R102, R116, R124, R125, R126: RELEASE of a resource outside the ten is refused BAD_ARG, of one not held NOT_HOLDER. Else CLAIM RELEASED
is stored; on a line the releasing master's entries there are gone, each with its CANCELLED record of cause RELEASED in admission order, the
line's immediate pulse has ended and its commanded level is the rest level, with its other settings kept; then the first waiter, if any, holds
the resource, with its record and GRANT. Other claims and other entries stay. -/
def Obligations.ReleaseHandsOver : Prop :=
  ∀ (s : State) (p : Port) (tag b : Byte) (x : Session), Ready s p → LevelsFormed s → OpenLive s p x →
    (resourceOf? b = none → Refuses s (.release p tag b) .badArg)
    ∧ ∀ r, resourceOf? b = some r →
        (s.holds p r = false → Refuses s (.release p tag b) .notHolder)
        ∧ (s.holds p r = true →
            let waiters := (s.claimOf r).waiters
            let onLine := fun e : Entry => ∃ k, r = .out k ∧ e.owner = p ∧ e.line = some k
            ∃ t, exec (.release p tag b) s = .next t
              ∧ (t.port p).queue = (s.port p).queue ++ [{ tag := tag, status := .ok, payload := [] }]
              ∧ t.claimOf r = { holder := waiters.head?, waiters := waiters.tail }
              ∧ (∀ r', r' ≠ r → t.claimOf r' = s.claimOf r')
              ∧ (∀ i e, s.entry i = some e → onLine e → t.entry i = none)
              ∧ (∀ i e, s.entry i = some e → ¬ onLine e → t.entry i = some e)
              ∧ (∀ k, r = .out k → (t.out k).commanded = (s.out k).rest ∧ (t.out k).pulse = none ∧ (t.out k).rest = (s.out k).rest
                  ∧ (t.out k).safe = (s.out k).safe ∧ (t.out k).gated = (s.out k).gated)
              ∧ (∀ k, r ≠ .out k → t.out k = s.out k)
              ∧ Unchanged [.journal, .schedule, .outs, .claims, .conditions, .ports] s t
              ∧ (∀ L, Listed s onLine admittedBefore L → RoomFor (2 + L.length) s →
                  Stored s t s.time.partTime (quality s)
                      ((.master p, .claimReleased r .command)
                        :: (cancelRecords s .released L
                          ++ match waiters with
                            | [] => []
                            | w :: _ => [(.master w, .claimGranted r .fromWait)]))
                    ∧ (∀ q, t.session q
                        = if waiters.head? = some q then (heard s p q).map fun y => { y with notices := y.notices ||| 0x02#8 }
                          else heard s p q)))

/-- R132, R200: the checks of CONFIGURE in order. Without CONFIG it is refused NOT_HOLDER; with an identifier of no group, an instance outside
the group's, or a value outside the range, BAD_ARG; a STOPPED-only parameter in another state, and a quota below the entries its master owns,
WRONG_STATE. -/
def Obligations.ConfigureChecks : Prop :=
  ∀ (s : State) (p : Port) (tag inst : Byte) (value : BitVec 32) (x : Session), Ready s p → LevelsFormed s → OpenLive s p x →
    (∀ group : Byte, group = 0#8 ∨ 12 < group.toNat →
      exec (.commandWrite p (commandFrame tag 0x44#8 ([group, inst] ++ be 4 value.toNat))) s
        = .next (answeredFrame s p 13 tag (if s.holds p .config = true then .badArg else .notHolder) []))
    ∧ (∀ row ∈ configureRows,
        (s.holds p .config = false → Refuses s (row.1 p tag inst value) .notHolder)
        ∧ (s.holds p .config = true → row.2.1 ≤ inst.toNat ∨ row.2.2.1 value.toNat = false → Refuses s (row.1 p tag inst value) .badArg)
        ∧ (s.holds p .config = true → inst.toNat < row.2.1 → row.2.2.1 value.toNat = true → row.2.2.2 = true → s.permit.state ≠ .stopped →
            Refuses s (row.1 p tag inst value) .wrongState))
    ∧ (∀ m, inst.toNat = portCode m → s.holds p .config = true → 1 ≤ value.toNat → value.toNat ≤ 64 → value.toNat < owned s m →
        Refuses s (.configureQuota p tag inst value) .wrongState)

/-- R3, R24, R77, R99, R113, R133, R149, R167, R168: what an accepted CONFIGURE stores and does, after its CONFIG record with the old and the new
value. A write of the value in force changes nothing more. A changed safe level of a gated line is its commanded level too (that it ends an
immediate pulse, should one run there, is DEDUCED: notes/assumptions/21.md). A gated flag that is set cancels every entry on the line with
PERMIT_STOP in admission order and takes the line to its safe level, its pulse ended. A changed condition action forms the part vote again, and the
permit unit takes a change of it, with its record, PERMIT for every session, and the last change timed by the part time (notes/assumptions/8.md). -/
def Obligations.ConfigureStores : Prop :=
  ∀ (s : State) (p : Port) (tag : Byte) (value : BitVec 32) (x : Session), Ready s p → LevelsFormed s → OpenLive s p x →
    s.holds p .config = true → RoomFor 1 s →
    let v := value.toNat
    let level : Level := if v = 1 then .high else .low
    let wrote : Instr → Nat → Nat → List (Origin × Body) → State := fun i id old more =>
      { answeredOnly s i .ok (be 4 old ++ be 4 v) with
        journal := s.journal.storing s.time.partTime (quality s) ((.master p, .config (BitVec.ofNat 16 id) old v) :: more) }
    (1000000 ≤ v → v ≤ 50000000 →
      let i := Instr.configureRefHz p tag 0#8 value
      exec i s = .next (conclude ((wrote i 0x100 s.time.refHz []).setTime { s.time with refHz := v })))
    ∧ (∀ n : Fin 16,
        let inst := BitVec.ofNat 8 n.val
        let line : Instr → Nat → Nat → LineConfig → Prop := fun i group old c =>
          exec i s = .next (conclude ((wrote i (256 * group + n.val) old []).setEventLine n { s.line n with cfg := c }))
        let c := (s.line n).cfg
        (v ≤ 1 → line (.configureEnabled p tag inst value) 2 (if c.enabled then 1 else 0) { c with enabled := decide (v = 1) })
        ∧ (v ≤ 2 →
            line (.configureEdgeSelect p tag inst value) 3 (edgeSelectCode c.edge)
              { c with edge := if v = 0 then .rise else if v = 1 then .fall else .both })
        ∧ (v ≤ 65535 → line (.configureFilterLength p tag inst value) 4 c.filter { c with filter := v })
        ∧ (v ≤ 255 → line (.configureChatterBudget p tag inst value) 5 c.budget { c with budget := v }))
    ∧ (∀ m, 1 ≤ v → v ≤ 64 → owned s m ≤ v →
        let i := Instr.configureQuota p tag (BitVec.ofNat 8 (portCode m)) value
        exec i s
          = .next (conclude
              { wrote i (0x600 + portCode m) (s.schedule.quotas.get m) [] with
                schedule := { s.schedule with quotas := s.schedule.quotas.set m v } }))
    ∧ (v ≤ 65535 →
        let i := Instr.configureLateTolerance p tag 0#8 value
        exec i s = .next (conclude { wrote i 0x700 s.schedule.tolerance [] with schedule := { s.schedule with tolerance := v } }))
    ∧ (v ≤ 60000 →
        let i := Instr.configureStartDelay p tag 0#8 value
        exec i s = .next (conclude { wrote i 0xB00 s.permit.startDelay [] with permit := { s.permit with startDelay := v } }))
    ∧ (∀ k : Fin 8, v ≤ 1 →
        let inst := BitVec.ofNat 8 k.val
        let o := s.out k
        let line : Instr → Nat → Nat → OutLine → Prop := fun i group old o =>
          exec i s = .next (conclude ((wrote i (256 * group + k.val) old []).setOut k o))
        line (.configureRestLevel p tag inst value) 8 (levelCode o.rest) { o with rest := level }
        ∧ (s.permit.state = .stopped →
            line (.configureSafeLevel p tag inst value) 9 (levelCode o.safe)
              (if o.safe = level then o
              else if o.gated then { o with safe := level, commanded := level, pulse := none }
              else { o with safe := level })
            ∧ (v = 0 ∨ o.gated = true →
                line (.configureGatedFlag p tag inst value) 10 (if o.gated then 1 else 0) { o with gated := decide (v = 1) })
            ∧ (∀ L, v = 1 → o.gated = false → Listed s (fun e => e.line = some k) admittedBefore L → RoomFor (1 + L.length) s →
                let i := Instr.configureGatedFlag p tag inst value
                exec i s
                  = .next (conclude
                      (((wrote i (0xA00 + k.val) 0 (cancelRecords s .permitStop L)).mapEntries fun e =>
                          if e.line = some k then none else some e).setOut k
                        { o with gated := true, commanded := o.safe, pulse := none })))))
    ∧ (∀ c, v ≤ 1 → s.permit.state = .stopped → RoomFor 2 s →
        let i := Instr.configureConditionAction p tag (BitVec.ofNat 8 (conditionCode c)) value
        let r := s.condition c
        let action : ConditionAction := if v = 1 then .stop else .note
        let changed := s.conditions.set c { r with action := action }
        let vote := formPartVote changed
        let pm := if vote = s.permit.partVote then s.permit else permitAfter { s.permit with partVote := vote } s.time.partTime .partVote
        let wrote := wrote i (0xC00 + conditionCode c) (conditionActionCode r.action)
        (r.action = action → exec i s = .next (conclude (wrote [])))
        ∧ (r.action ≠ action → pm.state = .stopped →
            exec i s = .next (conclude { wrote [] with conditions := { changed with partVote := vote }, permit := pm }))
        ∧ (r.action ≠ action → pm.state ≠ .stopped →
            let u := wrote [(.part, .permit .stopped pm.state .partVote)]
            exec i s
              = .next (conclude { u with conditions := { changed with partVote := vote }, permit := pm, ports := noticed 0x04#8 u.ports })))

/-! ### Run permit -/

/-- R144, R146, R150: the aggregate, each row only where no row above it applies, and where a change of aggregate takes the permit. -/
def Obligations.PermitTables : Prop :=
  (∀ pm : Permit,
    ((∀ p, pm.electors.get p = none) → formAggregate pm = .stop)
    ∧ (∀ p e, pm.electors.get p = some e → e.vote = .stop → formAggregate pm = .stop)
    ∧ (pm.partVote = .stop → formAggregate pm = .stop)
    ∧ (∀ p e, pm.electors.get p = some e → e.vote = .hold → (∀ q f, pm.electors.get q = some f → f.vote ≠ .stop) → pm.partVote ≠ .stop →
        formAggregate pm = .hold)
    ∧ (∀ p e, pm.electors.get p = some e → (∀ q f, pm.electors.get q = some f → f.vote = .go) → pm.partVote ≠ .stop →
        formAggregate pm = .go))
  ∧ (∀ delay : Nat,
      (∀ v, v ≠ .go → nextPermitState .stopped v delay = .stopped ∧ nextPermitState .arming v delay = .stopped)
      ∧ (delay ≠ 0 → nextPermitState .stopped .go delay = .arming) ∧ (delay = 0 → nextPermitState .stopped .go delay = .running)
      ∧ nextPermitState .running .hold delay = .held ∧ nextPermitState .running .stop delay = .stopped
      ∧ nextPermitState .held .go delay = .running ∧ nextPermitState .held .stop delay = .stopped)

/-- R98, R99, R109, R111, R112, R137 to R140, R144 to R148, R151, R156 to R158: ENROLL, LEAVE and VOTE. An elector cannot enrol, and only an elector can leave
or vote: WRONG_STATE; a vote outside the three is refused BAD_ARG. Else the record is added, removed or set with a clear forced mark, the
aggregate is formed again, the permit moves by it, and the answer is the state it reached. Without a change of state nothing else changes. With
one, the PERMIT record is stored and every session has PERMIT pending; at an entry to STOPPED the entries on gated lines are cancelled in
admission order, each with its record, and the gated lines take their safe levels, their pulses ended; at no other change does an entry or a
commanded level change but by the resume. A return from HELD to RUNNING stores its record, then takes every DEFERRED entry whose due time is
at or below part time, in due order, makes the others PENDING, and then forms the drive of each gated line once. The last change and the
resume are timed by the part time (notes/assumptions/8.md). -/
def Obligations.ElectorateMovesThePermit : Prop :=
  ∀ (s : State) (p : Port) (tag b : Byte) (x : Session), Ready s p → LevelsFormed s → OpenLive s p x →
    ((s.permit.electors.get p).isSome = true → ∀ v, Refuses s (.enroll p tag v) .wrongState)
    ∧ (s.permit.electors.get p = none → Refuses s (.leave p tag) .wrongState ∧ Refuses s (.vote p tag b) .wrongState)
    ∧ (3 ≤ b.toNat →
        (s.permit.electors.get p = none → Refuses s (.enroll p tag (some b)) .badArg)
        ∧ ((s.permit.electors.get p).isSome = true → Refuses s (.vote p tag b) .badArg))
    ∧ (∀ row : Instr × Option Elector × PermitCause,
        (s.permit.electors.get p = none ∧ row = (.enroll p tag none, some { vote := .stop, forced := false }, .electorate))
          ∨ (∃ w, s.permit.electors.get p = none ∧ b.toNat = voteCode w
              ∧ row = (.enroll p tag (some b), some { vote := w, forced := false }, .electorate))
          ∨ ((s.permit.electors.get p).isSome = true ∧ row = (.leave p tag, none, .electorate))
          ∨ (∃ w, (s.permit.electors.get p).isSome = true ∧ b.toNat = voteCode w
              ∧ row = (.vote p tag b, some { vote := w, forced := false }, .vote p w)) →
        let pm := permitAfter { s.permit with electors := s.permit.electors.set p row.2.1 } s.time.partTime row.2.2
        let answer := code (permitStateCode pm.state)
        let record := (Origin.part, Body.permit s.permit.state pm.state row.2.2)
        ∃ t, exec row.1 s = .next t
          ∧ t.permit = pm
          ∧ (t.port p).queue = (s.port p).queue ++ [{ tag := tag, status := .ok, payload := answer }]
          ∧ Unchanged [.journal, .schedule, .outs, .permit, .conditions, .ports] s t
          ∧ (pm.state = s.permit.state → t = { answeredOnly s row.1 .ok answer with permit := pm })
          ∧ (pm.state ≠ s.permit.state → (∀ i, s.entry i = none) → RoomFor 1 s →
              Stored s t s.time.partTime (quality s) [record]
                ∧ (∀ q, t.session q = (heard s p q).map fun y => { y with notices := y.notices ||| 0x04#8 })
                ∧ (∀ k, (t.out k).commanded
                    = if pm.state = .stopped ∧ (s.out k).gated = true then (s.out k).safe else (s.out k).commanded))
          ∧ (∀ L, PermitTakes s pm L → RoomFor (1 + 2 * L.length) s →
              t = conclude (permitChanged (answeredOnly s row.1 .ok answer) pm row.2.2 none L))
          ∧ (s.permit.state = .held → pm.state = .running →
              (∀ i e, s.entry i = some e → e.state = .deferred → e.due.isSome = true ∧ e.running = none) →
              ∀ L, Listed s (fun e => e.state = .deferred ∧ e.lateAt s.time.partTime = true) dueBefore L → RoomFor (1 + 2 * L.length) s →
                let u : State :=
                  { answeredOnly s row.1 .ok answer with
                    permit := pm, journal := s.journal.storing s.time.partTime (quality s) [record] }
                let u := u.mapEntries fun e =>
                  some (if e.state = .deferred ∧ e.lateAt s.time.partTime = false then { e with state := .pending } else e)
                let u := L.foldl lateTaken u
                t = formAtn
                  { u with
                    outs := u.outs.map fun o => { o with driven := o.commanded }
                    ports := noticed 0x04#8 u.ports }))

/-- R98, R99, R100, R111, R152, R157: a VOTE of STOP that stops the permit ends all work on gated lines. Every entry on a gated line is gone,
with its line's immediate pulse, and both its levels are the safe level; every other entry and every ungated line's commanded level is as it
was. The PERMIT record comes first, then the CANCELLED records with cause PERMIT_STOP in admission order (the last change is timed by the part
time: notes/assumptions/8.md). -/
def Obligations.StopEndsGatedWork : Prop :=
  ∀ (s : State) (p : Port) (tag : Byte) (x : Session), Ready s p → LevelsFormed s → OpenLive s p x →
    (s.permit.electors.get p).isSome = true → s.permit.aggregate ≠ .stop → s.permit.state ≠ .stopped →
    ∃ t, exec (.vote p tag 0#8) s = .next t
      ∧ t.permit.state = .stopped ∧ t.permit.prun = .low ∧ t.permit.phold = .low
      ∧ t.permit.lastChange = some (s.time.partTime, .vote p .stop)
      ∧ (∀ i e, s.entry i = some e → onGatedLine s e = true → t.entry i = none)
      ∧ (∀ i e, s.entry i = some e → onGatedLine s e = false → t.entry i = some e)
      ∧ (∀ k, (s.out k).gated = true →
          t.out k = { s.out k with commanded := (s.out k).safe, driven := (s.out k).safe, pulse := none })
      ∧ (∀ k, (s.out k).gated = false → t.out k = s.out k)
      ∧ (∀ L, Listed s (fun e => onGatedLine s e = true) admittedBefore L → RoomFor (1 + L.length) s →
          Stored s t s.time.partTime (quality s)
            ((.part, .permit s.permit.state .stopped (.vote p .stop)) :: cancelRecords s .permitStop L))

/-- R99, R109, R111, R112, R143, R147, R148, R157, R158: the arming timer at 0 takes the permit from ARMING to RUNNING: the record, PERMIT for
every session, PRUN HIGH, and every gated line drives its commanded level. A changed part vote is taken by the permit unit with cause
PART_VOTE; where no state changes nothing else does. Where one does, the PERMIT record comes first; at a stop the entries on gated lines are
cancelled in admission order, each with its record, and the gated lines go to their safe levels, their pulses ended; every session has PERMIT
pending; nothing else changes. The last change is timed by the part time (notes/assumptions/8.md). -/
def Obligations.PermitEvents : Prop :=
  ∀ s : State,
    (Due s .delayExpired → s.permit.state = .arming → s.permit.timer = some 0 → RoomFor 1 s →
      exec .delayExpired s
        = .next (conclude
            { s.without .delayExpired with
              permit :=
                { s.permit with
                  state := .running, timer := none, lastChange := some (s.time.partTime, .delayExpired), prun := .high, phold := .low }
              journal := s.journal.storing s.time.partTime (quality s) [(.part, .permit .arming .running .delayExpired)]
              outs := s.outs.map fun o => if o.gated then { o with driven := o.commanded } else o
              ports := noticed 0x04#8 s.ports }))
    ∧ (unfinished? s = none → s.conditions.partVote ≠ s.permit.partVote →
        let pm := permitAfter { s.permit with partVote := s.conditions.partVote } s.time.partTime .partVote
        ∃ t, exec .partVoteChange s = .next t
          ∧ t.permit = pm
          ∧ Unchanged [.journal, .schedule, .outs, .permit, .conditions, .ports] s t
          ∧ (pm.state = s.permit.state → t = conclude { s with permit := pm })
          ∧ (∀ L, PermitTakes s pm L → RoomFor (1 + 2 * L.length) s → t = conclude (permitChanged s pm .partVote none L)))

/-! ### Conditions -/

/-- R47, R48, R162, R163, R164, R168: a raise that is taken. A condition not latched latches with the part time (between a step and the next tick:
notes/assumptions/8.md), its record is offered whatever the journal does with it, every session has CONDITION pending and, with action STOP,
the part vote is formed again; a level condition's active flag is set. With room the record is stored; in WITHHOLDING, as at the raise of
JOURNAL_WITHHELD itself, it is withheld and counted and all else is the same. A condition latched already only has its flag set. That the
raise is the next event, before others of the tick that are still listed, is the model's order of events (notes/assumptions/3.md, 10.md). -/
def Obligations.ConditionLatches : Prop :=
  ∀ (s : State) (c : Condition) (rest : List Condition), unfinished? s = none → s.conditions.partVote = s.permit.partVote →
    s.conditions.raises = c :: rest →
    let r := s.condition c
    let active := r.active || (match c with
      | .timeInvalid => true
      | .refLost => true
      | .journalWithheld => false
      | .entryLate => false)
    let taken := { s.conditions with raises := rest }
    (r.firstLatched.isSome = true →
      exec (.conditionRaise c) s = .next (conclude { s with conditions := taken.set c { r with active := active } }))
    ∧ (r.firstLatched = none → RoomFor 1 s →
        let latched := taken.set c { r with active := active, firstLatched := some s.time.partTime }
        exec (.conditionRaise c) s
          = .next (conclude
              { s with
                conditions := if r.action = .stop then { latched with partVote := formPartVote latched } else latched
                journal := s.journal.storing s.time.partTime (quality s) [(.part, .conditionRaised c)]
                ports := noticed 0x20#8 s.ports }))
    ∧ (r.firstLatched = none →
        let latched := taken.set c { r with active := active, firstLatched := some s.time.partTime }
        let u : State :=
          { s with
            conditions := if r.action = .stop then { latched with partVote := formPartVote latched } else latched
            ports := noticed 0x20#8 s.ports }
        exec (.conditionRaise c) s = .next (conclude (offer .part (.conditionRaised c) u))
        ∧ (s.rstn = .high → s.journal.state = .withholding → s.journal.withheld < 4294967295 →
            exec (.conditionRaise c) s
              = .next (conclude { u with journal := { s.journal with withheld := s.journal.withheld + 1 } })))
    ∧ nextEvent s = some .raise

/-- R98, R99, R109, R111, R112, R146, R147, R157, R158, R165, R168: CLEAR_CONDITION from a master that is neither an elector nor the CONFIG holder is refused NOT_HOLDER, of no condition BAD_ARG, of an
active level condition WRONG_STATE. A condition not latched is answered OK and nothing changes. A latched one is cleared with the first record of
the command, the part vote is formed again, and the permit unit takes a change of it; where that changes the permit state, the PERMIT record
with cause PART_VOTE follows, with all that the change brings: the drives of the gated lines, the entries it takes and PERMIT for every
session. The answer carries both as they then stand. The last change is timed by the part time (notes/assumptions/8.md). -/
def Obligations.ConditionClears : Prop :=
  ∀ (s : State) (p : Port) (tag b : Byte) (x : Session), Ready s p → LevelsFormed s → OpenLive s p x →
    let may := (s.permit.electors.get p).isSome = true ∨ s.holds p .config = true
    (¬ may → Refuses s (.clearCondition p tag b) .notHolder)
    ∧ (may → 4 ≤ b.toNat → Refuses s (.clearCondition p tag b) .badArg)
    ∧ (may → ∀ c, b.toNat = conditionCode c →
        let r := s.condition c
        let level := c = .timeInvalid ∨ c = .refLost
        let cleared := s.conditions.set c { r with firstLatched := none }
        let vote := formPartVote cleared
        let pm := if vote = s.permit.partVote then s.permit else permitAfter { s.permit with partVote := vote } s.time.partTime .partVote
        (level → r.active = true → Refuses s (.clearCondition p tag b) .wrongState)
        ∧ (¬ (level ∧ r.active = true) → r.firstLatched = none →
            Answers s (.clearCondition p tag b) .ok
              (code (voteCode s.conditions.partVote) ++ code (permitStateCode s.permit.state)))
        ∧ (¬ (level ∧ r.active = true) → r.firstLatched.isSome = true →
            ∃ t, exec (.clearCondition p tag b) s = .next t
              ∧ (∀ c', (t.condition c') = if c' = c then { r with firstLatched := none } else s.condition c')
              ∧ t.conditions.partVote = vote ∧ t.permit = pm
              ∧ (t.port p).queue
                = (s.port p).queue ++ [{ tag := tag, status := .ok, payload := code (voteCode vote) ++ code (permitStateCode pm.state) }]
              ∧ Unchanged [.journal, .schedule, .outs, .permit, .conditions, .ports] s t
              ∧ (pm.state = s.permit.state → RoomFor 1 s →
                  Stored s t s.time.partTime (quality s) [(.master p, .conditionCleared c)]
                    ∧ (∀ q, t.session q = heard s p q) ∧ Unchanged [.journal, .permit, .conditions, .ports] s t)
              ∧ (∀ L, PermitTakes s pm L → RoomFor (2 + 2 * L.length) s →
                  let u : State :=
                    { answeredOnly s (.clearCondition p tag b) .ok (code (voteCode vote) ++ code (permitStateCode pm.state)) with
                      conditions := { cleared with partVote := vote }
                      journal := s.journal.storing s.time.partTime (quality s) [(.master p, .conditionCleared c)] }
                  t = conclude (permitChanged u pm .partVote none L))))

/-! ### Lapse and reset -/

/-- R49, R69, R129, R141, R189: a deadline at 0 lapses a LIVE session. It stays open, LAPSED and without a deadline, its reader LOSSY and its
window, mask and filter kept; an elector's vote is a forced STOP; the master waits for nothing and holds neither TIME nor CONFIG, and keeps
its lines. The LIVENESS record comes first; a permit that stops follows, with its PERMIT record and the cancellations on gated lines in
admission order; then TIME and CONFIG, where it holds them, are released with cause LAPSE and granted to the first waiter, which has GRANT
pending. A withheld LIVENESS record is followed by the re-examination, the reader's pins gone. -/
def Obligations.LapseTakesTheSay : Prop :=
  ∀ (s : State) (p : Port) (x : Session), Due s (.lapse p) → s.session p = some x → x.liveness = .live → x.deadline = some 0 →
    let elector := (s.permit.electors.get p).isSome = true
    let pm :=
      if elector then
        permitAfter { s.permit with electors := s.permit.electors.set p (some { vote := .stop, forced := true }) } s.time.partTime (.vote p .stop)
      else s.permit
    let demoted : Session := { x with liveness := .lapsed, deadline := none, reader := { x.reader with mode := .lossy } }
    let granted := fun q r => s.holds p r = true ∧ ((s.claimOf r).waiters.filter (· ≠ p)).head? = some q
    ∃ t y, exec (.lapse p) s = .next t ∧ t.session p = some y
      ∧ y.liveness = .lapsed ∧ y.deadline = none ∧ y.reader.mode = .lossy
      ∧ y.window = x.window ∧ y.mask = x.mask ∧ y.reader.filter = x.reader.filter
      ∧ t.permit = pm
      ∧ (∀ r, p ∉ (t.claimOf r).waiters)
      ∧ (∀ r, r ≠ .time → r ≠ .config →
          t.claimOf r = { holder := (s.claimOf r).holder, waiters := (s.claimOf r).waiters.filter (· ≠ p) })
      ∧ (∀ r, r = .time ∨ r = .config →
          let waiters := (s.claimOf r).waiters.filter (· ≠ p)
          t.claimOf r
            = if s.holds p r = true then { holder := waiters.head?, waiters := waiters.tail }
              else { holder := (s.claimOf r).holder, waiters := waiters })
      ∧ SameLinks s t
      ∧ Unchanged [.journal, .schedule, .outs, .claims, .permit, .conditions, .ports, .tickWork] s t
      ∧ (∀ L, Listed s (fun e => onGatedLine s e = true) admittedBefore L → RoomFor (6 + L.length) s →
          let stops := pm.state ≠ s.permit.state
          Stored s t s.time.partTime (quality s)
              ([(.master p, .lapsed)]
                ++ (if stops then (.part, .permit s.permit.state pm.state (.vote p .stop)) :: cancelRecords s .permitStop L else [])
                ++ handOverRecords s p .lapse .time ++ handOverRecords s p .lapse .config)
            ∧ (∀ q, t.session q
                = (if q = p then some demoted else s.session q).map fun z =>
                    let z := if stops then { z with notices := z.notices ||| 0x04#8 } else z
                    if granted q .time ∨ granted q .config then { z with notices := z.notices ||| 0x02#8 } else z)
            ∧ (∀ i, t.entry i = (s.entry i).bind fun e => if stops ∧ onGatedLine s e = true then none else some e)
            ∧ (∀ k, (t.out k).commanded = if stops ∧ (s.out k).gated = true then (s.out k).safe else (s.out k).commanded)
            ∧ t.conditions = s.conditions)
      ∧ (¬ elector → (∀ r, s.holds p r = false) → s.journal.state = .withholding → s.rstn = .high → s.journal.withheld < 4294967295 →
          let u : State :=
            { s.without (.lapse p) with
              journal := { s.journal with withheld := s.journal.withheld + 1 }
              claims := s.claims.map fun c => { c with waiters := c.waiters.filter (· ≠ p) } }
          t = conclude (reexamine (u.setSession p (some demoted))))

/-- R22, R36, R55, R106, R118, R136, R160, R174, R175, R193: the part as power-on leaves it, from any state: only what is no state of the part is
kept, the levels at the pins, the kind of a transaction whose chip select is LOW, as discarded, the commands waiting and the free values used (the
model's choice: notes/assumptions/7.md, 16.md; the records of R174 stand in the state, since they are stored before the part takes
anything: 18.md). -/
def Obligations.PowerOnValues : Prop :=
  (∀ s : State, ∃ t, exec .powerOn s = .next t
    ∧ t = { State.reset with evPins := s.evPins, ports := t.ports, freeUses := s.freeUses, pending := s.pending }
    ∧ ∀ p, t.port p
        = { State.reset.port p with discarded := if (s.port p).transaction = .idle then (s.port p).discarded else (s.port p).transaction })
  ∧ (let t := State.reset.time
     t.partTime = 0 ∧ t.acc = 0 ∧ t.refHz = 10000000 ∧ t.trim = 0 ∧ t.refState = .holdover ∧ t.lossCount = 0 ∧ t.exitCount = 0
       ∧ t.validity = .invalid ∧ t.step = none ∧ t.slew = none
       ∧ ∀ p, t.strobes.get p = { captured := none, overwrite := 0, armed := false })
  ∧ (∀ n, let l := State.reset.line n
      l.cfg = { enabled := false, edge := .rise, filter := 0, budget := 0 } ∧ l.tracked = none ∧ l.qual = .idle ∧ l.window = 0 ∧ l.admitted = 0
        ∧ l.excess = 0)
  ∧ State.reset.journal
    = { store :=
          [{ seq := 0, time := 0, quality := .invalid, origin := .part, body := .restart .powerOn },
           { seq := 1, time := 0, quality := .invalid, origin := .part, body := .conditionRaised .timeInvalid },
           { seq := 2, time := 0, quality := .invalid, origin := .part, body := .conditionRaised .refLost }]
        counter := 3, state := .accepting, withheld := 0 }
  ∧ ((∀ i, State.reset.entry i = none ∧ (State.reset.handle i).generation = 0#8) ∧ State.reset.schedule.admission = 0
      ∧ (∀ p, State.reset.schedule.quotas.get p = 16) ∧ State.reset.schedule.tolerance = 100)
  ∧ (∀ k, State.reset.out k = { commanded := .low, driven := .low, rest := .low, safe := .low, gated := false, pulse := none })
  ∧ (∀ r, State.reset.claimOf r = { holder := none, waiters := [] })
  ∧ (let pm := State.reset.permit
     (∀ p, pm.electors.get p = none) ∧ pm.partVote = .go ∧ pm.aggregate = .stop ∧ pm.state = .stopped ∧ pm.timer = none
       ∧ pm.lastChange = none ∧ pm.startDelay = 500 ∧ pm.prun = .low ∧ pm.phold = .low)
  ∧ (State.reset.condition .timeInvalid = { active := true, firstLatched := some 0, action := .note }
      ∧ State.reset.condition .refLost = { active := true, firstLatched := some 0, action := .note }
      ∧ (State.reset.condition .journalWithheld).firstLatched = none ∧ (State.reset.condition .entryLate).firstLatched = none
      ∧ ∀ c, (State.reset.condition c).action = .note)
  ∧ (∀ p, let x := State.reset.port p
      x.transaction = .idle ∧ x.discarded = .idle ∧ x.queue = [] ∧ x.crcDropped = false ∧ x.overrun = false ∧ x.session = none ∧ x.atn = .high)

/-- R23, R37, R56, R57, R107, R119, R136, R161, R174, R193: RSTn LOW empties the part but for what each block keeps: the running time, the raw levels,
the sequence counter, the generations of the slots. While it is LOW a transaction, of whatever row, has no effect and shifts out 00h. As it
returns HIGH, RESTART(RESET_LINE) is stored and each level condition that is active latches with its record. What RSTn makes of the active
flags meanwhile is DEDUCED (notes/assumptions/17.md). That `discarded` holds the kind of a transaction that was in progress at the fall, or was
begun while RSTn is LOW, until the row of its end, and what `shifted` holds, is the model's (7.md, 14.md). -/
def Obligations.ResetLine : Prop :=
  (∀ s : State, quiet s = true → s.rstn = .high →
    ∃ t, exec .rstnFall s = .next t ∧ InReset t ∧ t.rstn = .low
      ∧ t.time
        = { s.time with step := none, stepDue := false, slew := none, strobes := t.time.strobes }
      ∧ (∀ p, t.time.strobes.get p = { captured := none, overwrite := 0, armed := false })
      ∧ (∀ n, t.line n = { EventLine.initial with raw := (s.line n).raw })
      ∧ t.journal.counter = s.journal.counter
      ∧ (∀ i, (t.handle i).generation = (s.handle i).generation)
      ∧ t.schedule.admission = 0 ∧ (∀ p, t.schedule.quotas.get p = 16) ∧ t.schedule.tolerance = 100
      ∧ (∀ p, t.port p
          = { PortState.initial with discarded := if (s.port p).transaction = .idle then (s.port p).discarded else (s.port p).transaction })
      ∧ Unchanged [.time, .lines, .journal, .schedule, .outs, .claims, .permit, .conditions, .ports, .rstn, .tickWork] s t)
  ∧ (∀ (s : State) (p : Port), quiet s = true → s.rstn = .low →
      let opened := fun first : Byte => if first = 0x3C#8 then Transaction.fetch else if first = 0xC3#8 then .portClear else .commandWrite
      let left : Transaction → Nat → State := fun kind clocked =>
        s.setPort p { s.port p with discarded := kind, shifted := List.replicate clocked 0#8 }
      let dead : Instr → Transaction → Nat → Prop := fun i kind clocked =>
        exec i s = .next (if (s.port p).discarded = .idle ∨ (s.port p).discarded = kind then left .idle clocked else s)
      (∀ i tag command payload, frameFields? i = some (p, tag, command, payload) → dead i .commandWrite (payload.length + 7))
      ∧ (∀ first later, dead (.commandWrite p (first :: later)) (opened first) (later.length + 1))
      ∧ exec (.commandWrite p []) s = .next s
      ∧ (∀ n, dead (.fetch p n) .fetch (n + 1)) ∧ dead (.portClear p) .portClear 4
      ∧ (∀ first, (s.port p).transaction = .idle →
          exec (.transactionStart p first) s = .next (if (s.port p).discarded = .idle then left (opened first) 1 else s)))
  ∧ (∀ s : State, quiet s = true → s.rstn = .low → InReset s →
      let invalid := s.time.validity = .invalid
      let lost := s.time.refState = .holdover
      ∃ t, exec .rstnRise s = .next t ∧ t.rstn = .high
        ∧ Stored s t s.time.partTime (quality s)
            ((.part, .restart .resetLine)
              :: ((if invalid then [(.part, .conditionRaised .timeInvalid)] else [])
                ++ if lost then [(.part, .conditionRaised .refLost)] else []))
        ∧ (t.condition .timeInvalid).firstLatched = (if invalid then some s.time.partTime else none)
        ∧ (t.condition .refLost).firstLatched = (if lost then some s.time.partTime else none)
        ∧ (∀ p, (t.port p).transaction = .idle ∧ (t.port p).queue = [] ∧ (t.port p).crcDropped = false ∧ (t.port p).overrun = false
            ∧ t.session p = none ∧ (t.port p).atn = .high ∧ (t.port p).discarded = (s.port p).discarded)
        ∧ Unchanged [.journal, .conditions, .outs, .ports, .rstn] s t)

/-! ### Levels, and what every step keeps -/

/-- R109, R110, R172: every step leaves the ATN lines formed, and the drives but where some of a tick's pulse ends and firings, which are one event,
have been carried out and some have not (`tickStage`, the model's: notes/assumptions/3.md). Else, outside reset, an ungated line drives its
commanded level, a gated one its safe level in STOPPED and ARMING and its commanded level in RUNNING; forming the drives in HELD leaves a
gated line's as it is, and every step from HELD to HELD keeps each gated line gated and its driven level as it is. An ATN line is LOW exactly
where a session is open with a member of its pending set in its mask. -/
def Obligations.DrivesAndAttention : Prop :=
  (∀ s t : State, LevelsFormed s → step s = .next t → LevelsFormed t)
  ∧ (∀ s t : State, PermitSafe s → step s = .next t →
      ∀ k, s.permit.state = .held → t.permit.state = .held → (s.out k).gated = true →
        (t.out k).gated = true ∧ (t.out k).driven = (s.out k).driven)
  ∧ ∀ s : State, LevelsFormed s →
      (s.rstn = .high → s.tickStage = .apart ∨ (∀ e ∈ s.tickWork, e.movesLevel = false) →
        ∀ k, ((s.out k).gated = false → (s.out k).driven = (s.out k).commanded)
          ∧ ((s.out k).gated = true →
              (s.permit.state = .stopped ∨ s.permit.state = .arming → (s.out k).driven = (s.out k).safe)
              ∧ (s.permit.state = .running → (s.out k).driven = (s.out k).commanded)))
      ∧ (∀ k, (s.out k).gated = true → s.permit.state = .held → (formDrives s).out k = s.out k)
      ∧ (∀ p, (s.port p).atn = .low ↔ ∃ x, s.session p = some x ∧ pendingSet s x &&& x.mask ≠ 0#8)

/-- R141, R144, R145, R148, R156: every step keeps the permit unit consistent with its electorate and its part vote, and every elector of a LAPSED
session at a forced STOP; and in such a state RUNNING means a non-empty electorate in which every elector votes GO and none is lapsed. -/
def Obligations.RunningMeansEveryoneVotesGo : Prop :=
  (∀ s t : State, PermitSafe s → step s = .next t → PermitSafe t)
  ∧ ∀ s : State, PermitSafe s → s.permit.state = .running →
      (∃ p e, s.permit.electors.get p = some e)
        ∧ (∀ p e, s.permit.electors.get p = some e →
            e.vote = .go ∧ ∀ x, s.session p = some x → x.liveness = .live)
        ∧ s.permit.partVote ≠ .stop ∧ s.permit.prun = .high ∧ s.permit.phold = .low

/-- R41, R43, R71: every step keeps the seqs of the store consecutive, the store within 512 records, and every reader's cursor and read_mark in order
between the oldest seq held and one past the newest. -/
def Obligations.EveryStepKeepsReaders : Prop := ∀ s t : State, ReadersConsistent s → step s = .next t → ReadersConsistent t

/-- R2, R3, R10, R24, R77, R120, R149: every step keeps every claim record consistent, part time at most 2^64 - 1, and every parameter and the trim
in range (that a tick at 2^64 - 1 leaves part time there is DEDUCED: notes/assumptions/4.md). -/
def Obligations.EveryStepKeepsTables : Prop := ∀ s t : State, TablesConsistent s → step s = .next t → TablesConsistent t

/-- R79, R99, R108: every step keeps every master within its quota, every line's entries with its holder, and no entry on a gated line in
STOPPED or ARMING. -/
def Obligations.EveryStepKeepsSchedule : Prop := ∀ s t : State, ScheduleConsistent s → step s = .next t → ScheduleConsistent t

/-- R56, R107, R136, R161, R174, R193: while RSTn is LOW every step leaves the part holding nothing. -/
def Obligations.ResetHolds : Prop := ∀ s t : State, (s.rstn = .low → InReset s) → step s = .next t → t.rstn = .low → InReset t

/-- Each invariant holds in the part right after power-on. -/
def Obligations.InvariantsAtReset : Prop :=
  LevelsFormed State.reset ∧ PermitSafe State.reset ∧ ReadersConsistent State.reset ∧ TablesConsistent State.reset
    ∧ ScheduleConsistent State.reset ∧ (State.reset.rstn = .low → InReset State.reset)
end

