-- ==== Sys2Proof/Laws/Bytes.lean ====
section
/-! SUPPORT. Bytes, most significant first, written and read back; and that a frame is sound exactly where it is the frame of some tag, code
and payload (R177, R195). -/

set_option Elab.async false

namespace Sys2Proof.Machine

@[simp] theorem be_length (n x : Nat) : (be n x).length = n := by
  induction n with
  | zero => rfl
  | succ n ih => simp only [be, List.length_cons, ih]

theorem ofBytes_foldl (bs : List Byte) (a : Nat) :
    bs.foldl (fun acc b => acc * 256 + b.toNat) a = a * 256 ^ bs.length + ofBytes bs := by
  induction bs generalizing a with
  | nil => simp [ofBytes]
  | cons b bs ih =>
    unfold ofBytes
    simp only [List.foldl_cons, List.length_cons, ih]
    ring_nf

theorem ofBytes_cons (b : Byte) (bs : List Byte) : ofBytes (b :: bs) = b.toNat * 256 ^ bs.length + ofBytes bs := by
  rw [ofBytes, List.foldl_cons, ofBytes_foldl]
  simp

theorem ofBytes_lt (bs : List Byte) : ofBytes bs < 256 ^ bs.length := by
  induction bs with
  | nil => simp [ofBytes]
  | cons b bs ih =>
    rw [ofBytes_cons, List.length_cons, pow_succ]
    have hb : b.toNat < 256 := b.isLt
    nlinarith [pow_pos (show 0 < 256 by norm_num) bs.length]

/-- Reading back what was written gives the number, modulo what the bytes can hold. -/
theorem ofBytes_be (n x : Nat) : ofBytes (be n x) = x % 256 ^ n := by
  induction n with
  | zero => simp [be, ofBytes, Nat.mod_one]
  | succ n ih =>
    have h8 : (2 : Nat) ^ 8 = 256 := by norm_num
    rw [be, ofBytes_cons, ih, be_length, BitVec.toNat_ofNat, h8, pow_succ 256, Nat.mod_mul, mul_comm, add_comm]

theorem be_mod (n x : Nat) : be n (x % 256 ^ n) = be n x := by
  induction n generalizing x with
  | zero => rfl
  | succ n ih =>
    rw [be, be]
    congr 1
    · apply BitVec.eq_of_toNat_eq
      rw [BitVec.toNat_ofNat, BitVec.toNat_ofNat, pow_succ, Nat.mod_mul_right_div_self]
      norm_num
    · rw [← ih x, ← ih (x % 256 ^ (n + 1)), pow_succ, Nat.mod_mul_right_mod]

/-- Writing what was read gives the bytes back. -/
theorem be_ofBytes (bs : List Byte) : be bs.length (ofBytes bs) = bs := by
  induction bs with
  | nil => rfl
  | cons b bs ih =>
    have hp : 0 < 256 ^ bs.length := by positivity
    rw [List.length_cons, be, ofBytes_cons]
    congr 1
    · rw [mul_comm, Nat.mul_add_div hp, Nat.div_eq_of_lt (ofBytes_lt bs), Nat.add_zero]
      simp
    · rw [← be_mod, mul_comm, Nat.mul_add_mod, be_mod, ih]

/-- A field of w bits written in n bytes that hold them reads back. -/
theorem field_be {w n : Nat} (x : BitVec w) (h : 2 ^ w ≤ 256 ^ n) : BitVec.ofNat w (ofBytes (be n x.toNat)) = x := by
  rw [ofBytes_be, Nat.mod_eq_of_lt (Nat.lt_of_lt_of_le x.isLt h)]
  simp

/-! ### Frames -/

theorem commandFrame_length (tag command : Byte) (payload : List Byte) : (commandFrame tag command payload).length = payload.length + 7 := by
  simp only [commandFrame, frameBody, crcBytes, List.length_cons, List.length_append, be_length, List.length_nil]
  omega

theorem responseFrame_length (flags : Byte) (r : Response) : (responseFrame flags r).length = r.payload.length + 8 := by
  simp only [responseFrame, responseBody, crcBytes, code, List.length_cons, List.length_append, be_length, List.length_nil]
  omega

/-- The two length bytes of a frame. -/
theorem be_two (n : Nat) : be 2 n = [BitVec.ofNat 8 (n / 256), BitVec.ofNat 8 n] := by
  simp only [be, pow_one, pow_zero, Nat.div_one]

/-- A command frame is read back whole. -/
theorem readFrame_commandFrame (tag command : Byte) (payload : List Byte) (h : payload.length ≤ 300) :
    readFrame? (commandFrame tag command payload) = some { tag := tag, command := command, payload := payload } := by
  have hn : ofBytes [BitVec.ofNat 8 (payload.length / 256), BitVec.ofNat 8 payload.length] = payload.length := by
    rw [← be_two, ofBytes_be, Nat.mod_eq_of_lt (by norm_num; omega)]
  have hb : ∀ l : List Byte, (payload ++ crcBytes l).drop payload.length = crcBytes l := fun l => by simp
  have ht : ∀ l : List Byte, (payload ++ crcBytes l).take payload.length = payload := fun l => by simp
  have hc : ∀ l : List Byte, (payload ++ crcBytes l).length = payload.length + 2 := fun l => by
    rw [List.length_append]; unfold crcBytes; rw [be_length]
  unfold readFrame? commandFrame frameBody
  rw [be_two]
  simp only [List.cons_append, List.nil_append, hn, hb, ht, hc, Config.payloadLimit, h, and_self, if_true]

/-- A frame that is read is the frame of what it holds, and its payload has at most 300 bytes. -/
theorem commandFrame_of_readFrame {bytes : List Byte} {f : Frame} (h : readFrame? bytes = some f) :
    bytes = commandFrame f.tag f.command f.payload ∧ f.payload.length ≤ 300 := by
  unfold readFrame? at h
  split at h
  · rename_i sync l1 l0 tag command rest
    dsimp only at h
    split at h
    · rename_i hc
      obtain ⟨hs, hn, hl, hcrc⟩ := hc
      cases h
      have hlen : (rest.take (ofBytes [l1, l0])).length = ofBytes [l1, l0] := by
        rw [List.length_take, hl]; omega
      refine ⟨?_, by rw [hlen]; exact hn⟩
      have h2 : be 2 (ofBytes [l1, l0]) = [l1, l0] := be_ofBytes [l1, l0]
      unfold commandFrame frameBody
      rw [hlen, h2, hs]
      simp only [List.cons_append, List.nil_append] at hcrc ⊢
      rw [← hcrc, List.take_append_drop]
    · cases h
  · cases h

/-- A command frame opens with the sync, so it opens a command write. -/
theorem commandFrame_opens (tag command : Byte) (payload : List Byte) : commandFrame tag command payload ≠ clearFrame ∧ syncByte ≠ fetchByte := by
  refine ⟨fun h => ?_, by decide⟩
  have := congrArg List.length h
  rw [commandFrame_length] at this
  simp [clearFrame] at this

end Sys2Proof.Machine
end

