-- ==== Sys2Proof/Laws/State.lean ====
section
/-! SUPPORT. One lemma for each field under each update of State, true by unfolding; then what an update reads back. -/

set_option Elab.async false

namespace Sys2Proof.Machine

/-! ### setTime -/

@[simp] theorem State.setTime_time (s : State) (x : Timebase) : (s.setTime x).time = x := rfl
@[simp] theorem State.setTime_evPins (s : State) (x : Timebase) : (s.setTime x).evPins = s.evPins := rfl
@[simp] theorem State.setTime_lines (s : State) (x : Timebase) : (s.setTime x).lines = s.lines := rfl
@[simp] theorem State.setTime_journal (s : State) (x : Timebase) : (s.setTime x).journal = s.journal := rfl
@[simp] theorem State.setTime_schedule (s : State) (x : Timebase) : (s.setTime x).schedule = s.schedule := rfl
@[simp] theorem State.setTime_outs (s : State) (x : Timebase) : (s.setTime x).outs = s.outs := rfl
@[simp] theorem State.setTime_claims (s : State) (x : Timebase) : (s.setTime x).claims = s.claims := rfl
@[simp] theorem State.setTime_permit (s : State) (x : Timebase) : (s.setTime x).permit = s.permit := rfl
@[simp] theorem State.setTime_conditions (s : State) (x : Timebase) : (s.setTime x).conditions = s.conditions := rfl
@[simp] theorem State.setTime_ports (s : State) (x : Timebase) : (s.setTime x).ports = s.ports := rfl
@[simp] theorem State.setTime_rstn (s : State) (x : Timebase) : (s.setTime x).rstn = s.rstn := rfl
@[simp] theorem State.setTime_tickWork (s : State) (x : Timebase) : (s.setTime x).tickWork = s.tickWork := rfl
@[simp] theorem State.setTime_tickStage (s : State) (x : Timebase) : (s.setTime x).tickStage = s.tickStage := rfl
@[simp] theorem State.setTime_freeUses (s : State) (x : Timebase) : (s.setTime x).freeUses = s.freeUses := rfl
@[simp] theorem State.setTime_pending (s : State) (x : Timebase) : (s.setTime x).pending = s.pending := rfl

/-! ### setJournal -/

@[simp] theorem State.setJournal_time (s : State) (x : Journal) : (s.setJournal x).time = s.time := rfl
@[simp] theorem State.setJournal_evPins (s : State) (x : Journal) : (s.setJournal x).evPins = s.evPins := rfl
@[simp] theorem State.setJournal_lines (s : State) (x : Journal) : (s.setJournal x).lines = s.lines := rfl
@[simp] theorem State.setJournal_journal (s : State) (x : Journal) : (s.setJournal x).journal = x := rfl
@[simp] theorem State.setJournal_schedule (s : State) (x : Journal) : (s.setJournal x).schedule = s.schedule := rfl
@[simp] theorem State.setJournal_outs (s : State) (x : Journal) : (s.setJournal x).outs = s.outs := rfl
@[simp] theorem State.setJournal_claims (s : State) (x : Journal) : (s.setJournal x).claims = s.claims := rfl
@[simp] theorem State.setJournal_permit (s : State) (x : Journal) : (s.setJournal x).permit = s.permit := rfl
@[simp] theorem State.setJournal_conditions (s : State) (x : Journal) : (s.setJournal x).conditions = s.conditions := rfl
@[simp] theorem State.setJournal_ports (s : State) (x : Journal) : (s.setJournal x).ports = s.ports := rfl
@[simp] theorem State.setJournal_rstn (s : State) (x : Journal) : (s.setJournal x).rstn = s.rstn := rfl
@[simp] theorem State.setJournal_tickWork (s : State) (x : Journal) : (s.setJournal x).tickWork = s.tickWork := rfl
@[simp] theorem State.setJournal_tickStage (s : State) (x : Journal) : (s.setJournal x).tickStage = s.tickStage := rfl
@[simp] theorem State.setJournal_freeUses (s : State) (x : Journal) : (s.setJournal x).freeUses = s.freeUses := rfl
@[simp] theorem State.setJournal_pending (s : State) (x : Journal) : (s.setJournal x).pending = s.pending := rfl

/-! ### setPermit -/

@[simp] theorem State.setPermit_time (s : State) (x : Permit) : (s.setPermit x).time = s.time := rfl
@[simp] theorem State.setPermit_evPins (s : State) (x : Permit) : (s.setPermit x).evPins = s.evPins := rfl
@[simp] theorem State.setPermit_lines (s : State) (x : Permit) : (s.setPermit x).lines = s.lines := rfl
@[simp] theorem State.setPermit_journal (s : State) (x : Permit) : (s.setPermit x).journal = s.journal := rfl
@[simp] theorem State.setPermit_schedule (s : State) (x : Permit) : (s.setPermit x).schedule = s.schedule := rfl
@[simp] theorem State.setPermit_outs (s : State) (x : Permit) : (s.setPermit x).outs = s.outs := rfl
@[simp] theorem State.setPermit_claims (s : State) (x : Permit) : (s.setPermit x).claims = s.claims := rfl
@[simp] theorem State.setPermit_permit (s : State) (x : Permit) : (s.setPermit x).permit = x := rfl
@[simp] theorem State.setPermit_conditions (s : State) (x : Permit) : (s.setPermit x).conditions = s.conditions := rfl
@[simp] theorem State.setPermit_ports (s : State) (x : Permit) : (s.setPermit x).ports = s.ports := rfl
@[simp] theorem State.setPermit_rstn (s : State) (x : Permit) : (s.setPermit x).rstn = s.rstn := rfl
@[simp] theorem State.setPermit_tickWork (s : State) (x : Permit) : (s.setPermit x).tickWork = s.tickWork := rfl
@[simp] theorem State.setPermit_tickStage (s : State) (x : Permit) : (s.setPermit x).tickStage = s.tickStage := rfl
@[simp] theorem State.setPermit_freeUses (s : State) (x : Permit) : (s.setPermit x).freeUses = s.freeUses := rfl
@[simp] theorem State.setPermit_pending (s : State) (x : Permit) : (s.setPermit x).pending = s.pending := rfl

/-! ### setPort -/

@[simp] theorem State.setPort_time (s : State) (p : Port) (x : PortState) : (s.setPort p x).time = s.time := rfl
@[simp] theorem State.setPort_evPins (s : State) (p : Port) (x : PortState) : (s.setPort p x).evPins = s.evPins := rfl
@[simp] theorem State.setPort_lines (s : State) (p : Port) (x : PortState) : (s.setPort p x).lines = s.lines := rfl
@[simp] theorem State.setPort_journal (s : State) (p : Port) (x : PortState) : (s.setPort p x).journal = s.journal := rfl
@[simp] theorem State.setPort_schedule (s : State) (p : Port) (x : PortState) : (s.setPort p x).schedule = s.schedule := rfl
@[simp] theorem State.setPort_outs (s : State) (p : Port) (x : PortState) : (s.setPort p x).outs = s.outs := rfl
@[simp] theorem State.setPort_claims (s : State) (p : Port) (x : PortState) : (s.setPort p x).claims = s.claims := rfl
@[simp] theorem State.setPort_permit (s : State) (p : Port) (x : PortState) : (s.setPort p x).permit = s.permit := rfl
@[simp] theorem State.setPort_conditions (s : State) (p : Port) (x : PortState) : (s.setPort p x).conditions = s.conditions := rfl
@[simp] theorem State.setPort_ports (s : State) (p : Port) (x : PortState) : (s.setPort p x).ports = s.ports.set p x := rfl
@[simp] theorem State.setPort_rstn (s : State) (p : Port) (x : PortState) : (s.setPort p x).rstn = s.rstn := rfl
@[simp] theorem State.setPort_tickWork (s : State) (p : Port) (x : PortState) : (s.setPort p x).tickWork = s.tickWork := rfl
@[simp] theorem State.setPort_tickStage (s : State) (p : Port) (x : PortState) : (s.setPort p x).tickStage = s.tickStage := rfl
@[simp] theorem State.setPort_freeUses (s : State) (p : Port) (x : PortState) : (s.setPort p x).freeUses = s.freeUses := rfl
@[simp] theorem State.setPort_pending (s : State) (p : Port) (x : PortState) : (s.setPort p x).pending = s.pending := rfl

/-! ### setSession -/

@[simp] theorem State.setSession_time (s : State) (p : Port) (x : Option Session) : (s.setSession p x).time = s.time := rfl
@[simp] theorem State.setSession_evPins (s : State) (p : Port) (x : Option Session) : (s.setSession p x).evPins = s.evPins := rfl
@[simp] theorem State.setSession_lines (s : State) (p : Port) (x : Option Session) : (s.setSession p x).lines = s.lines := rfl
@[simp] theorem State.setSession_journal (s : State) (p : Port) (x : Option Session) : (s.setSession p x).journal = s.journal := rfl
@[simp] theorem State.setSession_schedule (s : State) (p : Port) (x : Option Session) : (s.setSession p x).schedule = s.schedule := rfl
@[simp] theorem State.setSession_outs (s : State) (p : Port) (x : Option Session) : (s.setSession p x).outs = s.outs := rfl
@[simp] theorem State.setSession_claims (s : State) (p : Port) (x : Option Session) : (s.setSession p x).claims = s.claims := rfl
@[simp] theorem State.setSession_permit (s : State) (p : Port) (x : Option Session) : (s.setSession p x).permit = s.permit := rfl
@[simp] theorem State.setSession_conditions (s : State) (p : Port) (x : Option Session) : (s.setSession p x).conditions = s.conditions := rfl
@[simp] theorem State.setSession_ports (s : State) (p : Port) (x : Option Session) : (s.setSession p x).ports = s.ports.set p { s.port p with session := x } := rfl
@[simp] theorem State.setSession_rstn (s : State) (p : Port) (x : Option Session) : (s.setSession p x).rstn = s.rstn := rfl
@[simp] theorem State.setSession_tickWork (s : State) (p : Port) (x : Option Session) : (s.setSession p x).tickWork = s.tickWork := rfl
@[simp] theorem State.setSession_tickStage (s : State) (p : Port) (x : Option Session) : (s.setSession p x).tickStage = s.tickStage := rfl
@[simp] theorem State.setSession_freeUses (s : State) (p : Port) (x : Option Session) : (s.setSession p x).freeUses = s.freeUses := rfl
@[simp] theorem State.setSession_pending (s : State) (p : Port) (x : Option Session) : (s.setSession p x).pending = s.pending := rfl

/-! ### modSession -/

@[simp] theorem State.modSession_time (s : State) (p : Port) (f : Session → Session) : (s.modSession p f).time = s.time := rfl
@[simp] theorem State.modSession_evPins (s : State) (p : Port) (f : Session → Session) : (s.modSession p f).evPins = s.evPins := rfl
@[simp] theorem State.modSession_lines (s : State) (p : Port) (f : Session → Session) : (s.modSession p f).lines = s.lines := rfl
@[simp] theorem State.modSession_journal (s : State) (p : Port) (f : Session → Session) : (s.modSession p f).journal = s.journal := rfl
@[simp] theorem State.modSession_schedule (s : State) (p : Port) (f : Session → Session) : (s.modSession p f).schedule = s.schedule := rfl
@[simp] theorem State.modSession_outs (s : State) (p : Port) (f : Session → Session) : (s.modSession p f).outs = s.outs := rfl
@[simp] theorem State.modSession_claims (s : State) (p : Port) (f : Session → Session) : (s.modSession p f).claims = s.claims := rfl
@[simp] theorem State.modSession_permit (s : State) (p : Port) (f : Session → Session) : (s.modSession p f).permit = s.permit := rfl
@[simp] theorem State.modSession_conditions (s : State) (p : Port) (f : Session → Session) : (s.modSession p f).conditions = s.conditions := rfl
@[simp] theorem State.modSession_ports (s : State) (p : Port) (f : Session → Session) : (s.modSession p f).ports = s.ports.set p { s.port p with session := (s.session p).map f } := rfl
@[simp] theorem State.modSession_rstn (s : State) (p : Port) (f : Session → Session) : (s.modSession p f).rstn = s.rstn := rfl
@[simp] theorem State.modSession_tickWork (s : State) (p : Port) (f : Session → Session) : (s.modSession p f).tickWork = s.tickWork := rfl
@[simp] theorem State.modSession_tickStage (s : State) (p : Port) (f : Session → Session) : (s.modSession p f).tickStage = s.tickStage := rfl
@[simp] theorem State.modSession_freeUses (s : State) (p : Port) (f : Session → Session) : (s.modSession p f).freeUses = s.freeUses := rfl
@[simp] theorem State.modSession_pending (s : State) (p : Port) (f : Session → Session) : (s.modSession p f).pending = s.pending := rfl

/-! ### setEventLine -/

@[simp] theorem State.setEventLine_time (s : State) (n : Fin 16) (x : EventLine) : (s.setEventLine n x).time = s.time := rfl
@[simp] theorem State.setEventLine_evPins (s : State) (n : Fin 16) (x : EventLine) : (s.setEventLine n x).evPins = s.evPins := rfl
@[simp] theorem State.setEventLine_lines (s : State) (n : Fin 16) (x : EventLine) : (s.setEventLine n x).lines = s.lines.set n x := rfl
@[simp] theorem State.setEventLine_journal (s : State) (n : Fin 16) (x : EventLine) : (s.setEventLine n x).journal = s.journal := rfl
@[simp] theorem State.setEventLine_schedule (s : State) (n : Fin 16) (x : EventLine) : (s.setEventLine n x).schedule = s.schedule := rfl
@[simp] theorem State.setEventLine_outs (s : State) (n : Fin 16) (x : EventLine) : (s.setEventLine n x).outs = s.outs := rfl
@[simp] theorem State.setEventLine_claims (s : State) (n : Fin 16) (x : EventLine) : (s.setEventLine n x).claims = s.claims := rfl
@[simp] theorem State.setEventLine_permit (s : State) (n : Fin 16) (x : EventLine) : (s.setEventLine n x).permit = s.permit := rfl
@[simp] theorem State.setEventLine_conditions (s : State) (n : Fin 16) (x : EventLine) : (s.setEventLine n x).conditions = s.conditions := rfl
@[simp] theorem State.setEventLine_ports (s : State) (n : Fin 16) (x : EventLine) : (s.setEventLine n x).ports = s.ports := rfl
@[simp] theorem State.setEventLine_rstn (s : State) (n : Fin 16) (x : EventLine) : (s.setEventLine n x).rstn = s.rstn := rfl
@[simp] theorem State.setEventLine_tickWork (s : State) (n : Fin 16) (x : EventLine) : (s.setEventLine n x).tickWork = s.tickWork := rfl
@[simp] theorem State.setEventLine_tickStage (s : State) (n : Fin 16) (x : EventLine) : (s.setEventLine n x).tickStage = s.tickStage := rfl
@[simp] theorem State.setEventLine_freeUses (s : State) (n : Fin 16) (x : EventLine) : (s.setEventLine n x).freeUses = s.freeUses := rfl
@[simp] theorem State.setEventLine_pending (s : State) (n : Fin 16) (x : EventLine) : (s.setEventLine n x).pending = s.pending := rfl

/-! ### setOut -/

@[simp] theorem State.setOut_time (s : State) (k : Fin 8) (x : OutLine) : (s.setOut k x).time = s.time := rfl
@[simp] theorem State.setOut_evPins (s : State) (k : Fin 8) (x : OutLine) : (s.setOut k x).evPins = s.evPins := rfl
@[simp] theorem State.setOut_lines (s : State) (k : Fin 8) (x : OutLine) : (s.setOut k x).lines = s.lines := rfl
@[simp] theorem State.setOut_journal (s : State) (k : Fin 8) (x : OutLine) : (s.setOut k x).journal = s.journal := rfl
@[simp] theorem State.setOut_schedule (s : State) (k : Fin 8) (x : OutLine) : (s.setOut k x).schedule = s.schedule := rfl
@[simp] theorem State.setOut_outs (s : State) (k : Fin 8) (x : OutLine) : (s.setOut k x).outs = s.outs.set k x := rfl
@[simp] theorem State.setOut_claims (s : State) (k : Fin 8) (x : OutLine) : (s.setOut k x).claims = s.claims := rfl
@[simp] theorem State.setOut_permit (s : State) (k : Fin 8) (x : OutLine) : (s.setOut k x).permit = s.permit := rfl
@[simp] theorem State.setOut_conditions (s : State) (k : Fin 8) (x : OutLine) : (s.setOut k x).conditions = s.conditions := rfl
@[simp] theorem State.setOut_ports (s : State) (k : Fin 8) (x : OutLine) : (s.setOut k x).ports = s.ports := rfl
@[simp] theorem State.setOut_rstn (s : State) (k : Fin 8) (x : OutLine) : (s.setOut k x).rstn = s.rstn := rfl
@[simp] theorem State.setOut_tickWork (s : State) (k : Fin 8) (x : OutLine) : (s.setOut k x).tickWork = s.tickWork := rfl
@[simp] theorem State.setOut_tickStage (s : State) (k : Fin 8) (x : OutLine) : (s.setOut k x).tickStage = s.tickStage := rfl
@[simp] theorem State.setOut_freeUses (s : State) (k : Fin 8) (x : OutLine) : (s.setOut k x).freeUses = s.freeUses := rfl
@[simp] theorem State.setOut_pending (s : State) (k : Fin 8) (x : OutLine) : (s.setOut k x).pending = s.pending := rfl

/-! ### setClaim -/

@[simp] theorem State.setClaim_time (s : State) (r : Resource) (x : ClaimRecord) : (s.setClaim r x).time = s.time := rfl
@[simp] theorem State.setClaim_evPins (s : State) (r : Resource) (x : ClaimRecord) : (s.setClaim r x).evPins = s.evPins := rfl
@[simp] theorem State.setClaim_lines (s : State) (r : Resource) (x : ClaimRecord) : (s.setClaim r x).lines = s.lines := rfl
@[simp] theorem State.setClaim_journal (s : State) (r : Resource) (x : ClaimRecord) : (s.setClaim r x).journal = s.journal := rfl
@[simp] theorem State.setClaim_schedule (s : State) (r : Resource) (x : ClaimRecord) : (s.setClaim r x).schedule = s.schedule := rfl
@[simp] theorem State.setClaim_outs (s : State) (r : Resource) (x : ClaimRecord) : (s.setClaim r x).outs = s.outs := rfl
@[simp] theorem State.setClaim_claims (s : State) (r : Resource) (x : ClaimRecord) : (s.setClaim r x).claims = s.claims.set (resourceIndex r) x := rfl
@[simp] theorem State.setClaim_permit (s : State) (r : Resource) (x : ClaimRecord) : (s.setClaim r x).permit = s.permit := rfl
@[simp] theorem State.setClaim_conditions (s : State) (r : Resource) (x : ClaimRecord) : (s.setClaim r x).conditions = s.conditions := rfl
@[simp] theorem State.setClaim_ports (s : State) (r : Resource) (x : ClaimRecord) : (s.setClaim r x).ports = s.ports := rfl
@[simp] theorem State.setClaim_rstn (s : State) (r : Resource) (x : ClaimRecord) : (s.setClaim r x).rstn = s.rstn := rfl
@[simp] theorem State.setClaim_tickWork (s : State) (r : Resource) (x : ClaimRecord) : (s.setClaim r x).tickWork = s.tickWork := rfl
@[simp] theorem State.setClaim_tickStage (s : State) (r : Resource) (x : ClaimRecord) : (s.setClaim r x).tickStage = s.tickStage := rfl
@[simp] theorem State.setClaim_freeUses (s : State) (r : Resource) (x : ClaimRecord) : (s.setClaim r x).freeUses = s.freeUses := rfl
@[simp] theorem State.setClaim_pending (s : State) (r : Resource) (x : ClaimRecord) : (s.setClaim r x).pending = s.pending := rfl

/-! ### putEntry -/

@[simp] theorem State.putEntry_time (s : State) (i : Fin 64) (x : Option Entry) : (s.putEntry i x).time = s.time := rfl
@[simp] theorem State.putEntry_evPins (s : State) (i : Fin 64) (x : Option Entry) : (s.putEntry i x).evPins = s.evPins := rfl
@[simp] theorem State.putEntry_lines (s : State) (i : Fin 64) (x : Option Entry) : (s.putEntry i x).lines = s.lines := rfl
@[simp] theorem State.putEntry_journal (s : State) (i : Fin 64) (x : Option Entry) : (s.putEntry i x).journal = s.journal := rfl
@[simp] theorem State.putEntry_schedule (s : State) (i : Fin 64) (x : Option Entry) : (s.putEntry i x).schedule = { s.schedule with slots := s.schedule.slots.set i { s.schedule.slots[i] with entry := x } } := rfl
@[simp] theorem State.putEntry_outs (s : State) (i : Fin 64) (x : Option Entry) : (s.putEntry i x).outs = s.outs := rfl
@[simp] theorem State.putEntry_claims (s : State) (i : Fin 64) (x : Option Entry) : (s.putEntry i x).claims = s.claims := rfl
@[simp] theorem State.putEntry_permit (s : State) (i : Fin 64) (x : Option Entry) : (s.putEntry i x).permit = s.permit := rfl
@[simp] theorem State.putEntry_conditions (s : State) (i : Fin 64) (x : Option Entry) : (s.putEntry i x).conditions = s.conditions := rfl
@[simp] theorem State.putEntry_ports (s : State) (i : Fin 64) (x : Option Entry) : (s.putEntry i x).ports = s.ports := rfl
@[simp] theorem State.putEntry_rstn (s : State) (i : Fin 64) (x : Option Entry) : (s.putEntry i x).rstn = s.rstn := rfl
@[simp] theorem State.putEntry_tickWork (s : State) (i : Fin 64) (x : Option Entry) : (s.putEntry i x).tickWork = s.tickWork := rfl
@[simp] theorem State.putEntry_tickStage (s : State) (i : Fin 64) (x : Option Entry) : (s.putEntry i x).tickStage = s.tickStage := rfl
@[simp] theorem State.putEntry_freeUses (s : State) (i : Fin 64) (x : Option Entry) : (s.putEntry i x).freeUses = s.freeUses := rfl
@[simp] theorem State.putEntry_pending (s : State) (i : Fin 64) (x : Option Entry) : (s.putEntry i x).pending = s.pending := rfl

/-! ### setCondition -/

@[simp] theorem State.setCondition_time (s : State) (k : Condition) (x : ConditionRecord) : (s.setCondition k x).time = s.time := rfl
@[simp] theorem State.setCondition_evPins (s : State) (k : Condition) (x : ConditionRecord) : (s.setCondition k x).evPins = s.evPins := rfl
@[simp] theorem State.setCondition_lines (s : State) (k : Condition) (x : ConditionRecord) : (s.setCondition k x).lines = s.lines := rfl
@[simp] theorem State.setCondition_journal (s : State) (k : Condition) (x : ConditionRecord) : (s.setCondition k x).journal = s.journal := rfl
@[simp] theorem State.setCondition_schedule (s : State) (k : Condition) (x : ConditionRecord) : (s.setCondition k x).schedule = s.schedule := rfl
@[simp] theorem State.setCondition_outs (s : State) (k : Condition) (x : ConditionRecord) : (s.setCondition k x).outs = s.outs := rfl
@[simp] theorem State.setCondition_claims (s : State) (k : Condition) (x : ConditionRecord) : (s.setCondition k x).claims = s.claims := rfl
@[simp] theorem State.setCondition_permit (s : State) (k : Condition) (x : ConditionRecord) : (s.setCondition k x).permit = s.permit := rfl
@[simp] theorem State.setCondition_conditions (s : State) (k : Condition) (x : ConditionRecord) : (s.setCondition k x).conditions = s.conditions.set k x := rfl
@[simp] theorem State.setCondition_ports (s : State) (k : Condition) (x : ConditionRecord) : (s.setCondition k x).ports = s.ports := rfl
@[simp] theorem State.setCondition_rstn (s : State) (k : Condition) (x : ConditionRecord) : (s.setCondition k x).rstn = s.rstn := rfl
@[simp] theorem State.setCondition_tickWork (s : State) (k : Condition) (x : ConditionRecord) : (s.setCondition k x).tickWork = s.tickWork := rfl
@[simp] theorem State.setCondition_tickStage (s : State) (k : Condition) (x : ConditionRecord) : (s.setCondition k x).tickStage = s.tickStage := rfl
@[simp] theorem State.setCondition_freeUses (s : State) (k : Condition) (x : ConditionRecord) : (s.setCondition k x).freeUses = s.freeUses := rfl
@[simp] theorem State.setCondition_pending (s : State) (k : Condition) (x : ConditionRecord) : (s.setCondition k x).pending = s.pending := rfl

/-! ### useFree -/

@[simp] theorem useFree_time (s : State) : (useFree s).time = s.time := rfl
@[simp] theorem useFree_evPins (s : State) : (useFree s).evPins = s.evPins := rfl
@[simp] theorem useFree_lines (s : State) : (useFree s).lines = s.lines := rfl
@[simp] theorem useFree_journal (s : State) : (useFree s).journal = s.journal := rfl
@[simp] theorem useFree_schedule (s : State) : (useFree s).schedule = s.schedule := rfl
@[simp] theorem useFree_outs (s : State) : (useFree s).outs = s.outs := rfl
@[simp] theorem useFree_claims (s : State) : (useFree s).claims = s.claims := rfl
@[simp] theorem useFree_permit (s : State) : (useFree s).permit = s.permit := rfl
@[simp] theorem useFree_conditions (s : State) : (useFree s).conditions = s.conditions := rfl
@[simp] theorem useFree_ports (s : State) : (useFree s).ports = s.ports := rfl
@[simp] theorem useFree_rstn (s : State) : (useFree s).rstn = s.rstn := rfl
@[simp] theorem useFree_tickWork (s : State) : (useFree s).tickWork = s.tickWork := rfl
@[simp] theorem useFree_tickStage (s : State) : (useFree s).tickStage = s.tickStage := rfl
@[simp] theorem useFree_freeUses (s : State) : (useFree s).freeUses = s.freeUses + 1 := rfl
@[simp] theorem useFree_pending (s : State) : (useFree s).pending = s.pending := rfl

/-! ### formAtn -/

@[simp] theorem formAtn_time (s : State) : (formAtn s).time = s.time := rfl
@[simp] theorem formAtn_evPins (s : State) : (formAtn s).evPins = s.evPins := rfl
@[simp] theorem formAtn_lines (s : State) : (formAtn s).lines = s.lines := rfl
@[simp] theorem formAtn_journal (s : State) : (formAtn s).journal = s.journal := rfl
@[simp] theorem formAtn_schedule (s : State) : (formAtn s).schedule = s.schedule := rfl
@[simp] theorem formAtn_outs (s : State) : (formAtn s).outs = s.outs := rfl
@[simp] theorem formAtn_claims (s : State) : (formAtn s).claims = s.claims := rfl
@[simp] theorem formAtn_permit (s : State) : (formAtn s).permit = s.permit := rfl
@[simp] theorem formAtn_conditions (s : State) : (formAtn s).conditions = s.conditions := rfl
@[simp] theorem formAtn_ports (s : State) : (formAtn s).ports = s.ports.mapIdx fun p x => { x with atn := atnLevel s p } := rfl
@[simp] theorem formAtn_rstn (s : State) : (formAtn s).rstn = s.rstn := rfl
@[simp] theorem formAtn_tickWork (s : State) : (formAtn s).tickWork = s.tickWork := rfl
@[simp] theorem formAtn_tickStage (s : State) : (formAtn s).tickStage = s.tickStage := rfl
@[simp] theorem formAtn_freeUses (s : State) : (formAtn s).freeUses = s.freeUses := rfl
@[simp] theorem formAtn_pending (s : State) : (formAtn s).pending = s.pending := rfl

/-! ### formDrives -/

@[simp] theorem formDrives_time (s : State) : (formDrives s).time = s.time := rfl
@[simp] theorem formDrives_evPins (s : State) : (formDrives s).evPins = s.evPins := rfl
@[simp] theorem formDrives_lines (s : State) : (formDrives s).lines = s.lines := rfl
@[simp] theorem formDrives_journal (s : State) : (formDrives s).journal = s.journal := rfl
@[simp] theorem formDrives_schedule (s : State) : (formDrives s).schedule = s.schedule := rfl
@[simp] theorem formDrives_outs (s : State) : (formDrives s).outs = s.outs.map fun o => o.formed s.permit.state := rfl
@[simp] theorem formDrives_claims (s : State) : (formDrives s).claims = s.claims := rfl
@[simp] theorem formDrives_permit (s : State) : (formDrives s).permit = s.permit := rfl
@[simp] theorem formDrives_conditions (s : State) : (formDrives s).conditions = s.conditions := rfl
@[simp] theorem formDrives_ports (s : State) : (formDrives s).ports = s.ports := rfl
@[simp] theorem formDrives_rstn (s : State) : (formDrives s).rstn = s.rstn := rfl
@[simp] theorem formDrives_tickWork (s : State) : (formDrives s).tickWork = s.tickWork := rfl
@[simp] theorem formDrives_tickStage (s : State) : (formDrives s).tickStage = s.tickStage := rfl
@[simp] theorem formDrives_freeUses (s : State) : (formDrives s).freeUses = s.freeUses := rfl
@[simp] theorem formDrives_pending (s : State) : (formDrives s).pending = s.pending := rfl

/-! ### formGatedDrives -/

@[simp] theorem formGatedDrives_time (s : State) : (formGatedDrives s).time = s.time := rfl
@[simp] theorem formGatedDrives_evPins (s : State) : (formGatedDrives s).evPins = s.evPins := rfl
@[simp] theorem formGatedDrives_lines (s : State) : (formGatedDrives s).lines = s.lines := rfl
@[simp] theorem formGatedDrives_journal (s : State) : (formGatedDrives s).journal = s.journal := rfl
@[simp] theorem formGatedDrives_schedule (s : State) : (formGatedDrives s).schedule = s.schedule := rfl
@[simp] theorem formGatedDrives_outs (s : State) : (formGatedDrives s).outs = s.outs.map fun o => if o.gated then o.formed s.permit.state else o := rfl
@[simp] theorem formGatedDrives_claims (s : State) : (formGatedDrives s).claims = s.claims := rfl
@[simp] theorem formGatedDrives_permit (s : State) : (formGatedDrives s).permit = s.permit := rfl
@[simp] theorem formGatedDrives_conditions (s : State) : (formGatedDrives s).conditions = s.conditions := rfl
@[simp] theorem formGatedDrives_ports (s : State) : (formGatedDrives s).ports = s.ports := rfl
@[simp] theorem formGatedDrives_rstn (s : State) : (formGatedDrives s).rstn = s.rstn := rfl
@[simp] theorem formGatedDrives_tickWork (s : State) : (formGatedDrives s).tickWork = s.tickWork := rfl
@[simp] theorem formGatedDrives_tickStage (s : State) : (formGatedDrives s).tickStage = s.tickStage := rfl
@[simp] theorem formGatedDrives_freeUses (s : State) : (formGatedDrives s).freeUses = s.freeUses := rfl
@[simp] theorem formGatedDrives_pending (s : State) : (formGatedDrives s).pending = s.pending := rfl

/-! ### gatedLinesSafe -/

@[simp] theorem gatedLinesSafe_time (s : State) : (gatedLinesSafe s).time = s.time := rfl
@[simp] theorem gatedLinesSafe_evPins (s : State) : (gatedLinesSafe s).evPins = s.evPins := rfl
@[simp] theorem gatedLinesSafe_lines (s : State) : (gatedLinesSafe s).lines = s.lines := rfl
@[simp] theorem gatedLinesSafe_journal (s : State) : (gatedLinesSafe s).journal = s.journal := rfl
@[simp] theorem gatedLinesSafe_schedule (s : State) : (gatedLinesSafe s).schedule = s.schedule := rfl
@[simp] theorem gatedLinesSafe_outs (s : State) : (gatedLinesSafe s).outs = s.outs.map fun o => if o.gated then { o with commanded := o.safe, pulse := none } else o := rfl
@[simp] theorem gatedLinesSafe_claims (s : State) : (gatedLinesSafe s).claims = s.claims := rfl
@[simp] theorem gatedLinesSafe_permit (s : State) : (gatedLinesSafe s).permit = s.permit := rfl
@[simp] theorem gatedLinesSafe_conditions (s : State) : (gatedLinesSafe s).conditions = s.conditions := rfl
@[simp] theorem gatedLinesSafe_ports (s : State) : (gatedLinesSafe s).ports = s.ports := rfl
@[simp] theorem gatedLinesSafe_rstn (s : State) : (gatedLinesSafe s).rstn = s.rstn := rfl
@[simp] theorem gatedLinesSafe_tickWork (s : State) : (gatedLinesSafe s).tickWork = s.tickWork := rfl
@[simp] theorem gatedLinesSafe_tickStage (s : State) : (gatedLinesSafe s).tickStage = s.tickStage := rfl
@[simp] theorem gatedLinesSafe_freeUses (s : State) : (gatedLinesSafe s).freeUses = s.freeUses := rfl
@[simp] theorem gatedLinesSafe_pending (s : State) : (gatedLinesSafe s).pending = s.pending := rfl

/-! ### Reading back -/

@[simp] theorem PerPort.get_set_same {α : Type} (x : PerPort α) (p : Port) (v : α) : (x.set p v).get p = v := by cases p <;> rfl

theorem PerPort.get_set_ne {α : Type} (x : PerPort α) {p q : Port} (v : α) (h : q ≠ p) : (x.set p v).get q = x.get q := by
  cases p <;> cases q <;> first | rfl | exact absurd rfl h

theorem PerPort.get_set {α : Type} (x : PerPort α) (p q : Port) (v : α) : (x.set p v).get q = if q = p then v else x.get q := by
  cases p <;> cases q <;> rfl

@[simp] theorem PerPort.get_map {α β : Type} (f : α → β) (x : PerPort α) (p : Port) : (x.map f).get p = f (x.get p) := by cases p <;> rfl

@[simp] theorem PerPort.get_mapIdx {α β : Type} (f : Port → α → β) (x : PerPort α) (p : Port) : (x.mapIdx f).get p = f p (x.get p) := by
  cases p <;> rfl

theorem PerPort.ext_get {α : Type} {x y : PerPort α} (h : ∀ p, x.get p = y.get p) : x = y := by
  cases x; cases y; simp only [PerPort.mk.injEq]
  exact ⟨h .a, h .b, h .c, h .d⟩

@[simp] theorem PerPort.set_get {α : Type} (x : PerPort α) (p : Port) : x.set p (x.get p) = x := by cases p <;> rfl

theorem Conditions.get_set (c : Conditions) (j k : Condition) (r : ConditionRecord) : (c.set k r).get j = if j = k then r else c.get j := by
  cases j <;> cases k <;> rfl

@[simp] theorem Conditions.set_partVote (c : Conditions) (k : Condition) (r : ConditionRecord) : (c.set k r).partVote = c.partVote := by
  cases k <;> rfl

@[simp] theorem Conditions.set_raises (c : Conditions) (k : Condition) (r : ConditionRecord) : (c.set k r).raises = c.raises := by
  cases k <;> rfl

theorem port_setPort (s : State) (p q : Port) (x : PortState) : (s.setPort p x).port q = if q = p then x else s.port q :=
  PerPort.get_set s.ports p q x

@[simp] theorem port_setPort_same (s : State) (p : Port) (x : PortState) : (s.setPort p x).port p = x := by simp [port_setPort]

theorem setPort_setPort (s : State) (p : Port) (x y : PortState) : (s.setPort p x).setPort p y = s.setPort p y := by
  have h : ((s.setPort p x).setPort p y).ports = (s.setPort p y).ports := by
    apply PerPort.ext_get; intro q
    simp only [State.setPort_ports, PerPort.get_set]; split <;> rfl
  exact congrArg (fun ps => { s with ports := ps }) h

theorem session_setPort (s : State) (p q : Port) (x : PortState) : (s.setPort p x).session q = if q = p then x.session else s.session q := by
  unfold State.session; rw [port_setPort]; split <;> rfl

theorem port_setSession (s : State) (p q : Port) (x : Option Session) :
    (s.setSession p x).port q = if q = p then { s.port p with session := x } else s.port q := port_setPort s p q _

theorem session_setSession (s : State) (p q : Port) (x : Option Session) :
    (s.setSession p x).session q = if q = p then x else s.session q := by
  unfold State.session; rw [port_setSession]; split <;> rfl

@[simp] theorem session_setSession_same (s : State) (p : Port) (x : Option Session) : (s.setSession p x).session p = x := by
  simp [session_setSession]

theorem out_setOut (s : State) (k j : Fin 8) (o : OutLine) : (s.setOut k o).out j = if j = k then o else s.out j := by
  unfold State.out State.setOut
  simp only [Fin.getElem_fin, Vector.getElem_set, Fin.ext_iff, eq_comm]

theorem line_setEventLine (s : State) (n m : Fin 16) (l : EventLine) : (s.setEventLine n l).line m = if m = n then l else s.line m := by
  unfold State.line State.setEventLine
  simp only [Fin.getElem_fin, Vector.getElem_set, Fin.ext_iff, eq_comm]

theorem resourceIndex_inj {r q : Resource} : resourceIndex r = resourceIndex q ↔ r = q := by
  refine ⟨fun h => ?_, fun h => by rw [h]⟩
  have hv : (resourceIndex r).val = (resourceIndex q).val := congrArg Fin.val h
  cases r <;> cases q <;> simp only [resourceIndex, Fin.val_zero, Fin.val_one] at hv <;> first | rfl | omega | skip
  rename_i a b
  exact congrArg Resource.out (Fin.ext (by omega))

theorem claimOf_setClaim (s : State) (r q : Resource) (c : ClaimRecord) :
    (s.setClaim r c).claimOf q = if q = r then c else s.claimOf q := by
  unfold State.claimOf State.setClaim
  by_cases h : q = r
  · subst h; simp
  · have h' : resourceIndex r ≠ resourceIndex q := fun e => h (resourceIndex_inj.mp e).symm
    simp only [Fin.getElem_fin, Vector.getElem_set, h, if_false]
    rw [if_neg (fun e => h' (Fin.ext e))]

theorem entry_putEntry (s : State) (i j : Fin 64) (e : Option Entry) : (s.putEntry i e).entry j = if j = i then e else s.entry j := by
  unfold State.entry State.putEntry
  by_cases h : j = i
  · subst h; simp
  · simp only [Fin.getElem_fin, Vector.getElem_set, h, if_false]
    rw [if_neg (fun e => h (Fin.ext e.symm))]

@[simp] theorem handle_putEntry (s : State) (i j : Fin 64) (e : Option Entry) : (s.putEntry i e).handle j = s.handle j := by
  unfold State.handle State.putEntry
  by_cases h : j = i
  · subst h; simp
  · simp only [Fin.getElem_fin, Vector.getElem_set, Handle.mk.injEq, true_and]
    split
    · rename_i e; exact absurd (Fin.ext e.symm) h
    · rfl

end Sys2Proof.Machine
end

