-- ==== Sys2Proof/Laws/Settle.lean ====
section
/-! SUPPORT. What `conclude` leaves, that a state in which nothing is due stays as it is when settled, and that every step of the part leaves
the ATN lines and the drives formed. -/

set_option Elab.async false

namespace Sys2Proof.Machine

/-! ### Frames of `conclude` -/

@[simp] theorem conclude_time (s : State) : (conclude s).time = s.time := by unfold conclude; split <;> rfl
@[simp] theorem conclude_evPins (s : State) : (conclude s).evPins = s.evPins := by unfold conclude; split <;> rfl
@[simp] theorem conclude_lines (s : State) : (conclude s).lines = s.lines := by unfold conclude; split <;> rfl
@[simp] theorem conclude_journal (s : State) : (conclude s).journal = s.journal := by unfold conclude; split <;> rfl
@[simp] theorem conclude_schedule (s : State) : (conclude s).schedule = s.schedule := by unfold conclude; split <;> rfl
@[simp] theorem conclude_claims (s : State) : (conclude s).claims = s.claims := by unfold conclude; split <;> rfl
@[simp] theorem conclude_permit (s : State) : (conclude s).permit = s.permit := by unfold conclude; split <;> rfl
@[simp] theorem conclude_conditions (s : State) : (conclude s).conditions = s.conditions := by unfold conclude; split <;> rfl
@[simp] theorem conclude_rstn (s : State) : (conclude s).rstn = s.rstn := by unfold conclude; split <;> rfl
@[simp] theorem conclude_tickWork (s : State) : (conclude s).tickWork = s.tickWork := by unfold conclude; split <;> rfl
@[simp] theorem conclude_tickStage (s : State) : (conclude s).tickStage = s.tickStage := by unfold conclude; split <;> rfl
@[simp] theorem conclude_freeUses (s : State) : (conclude s).freeUses = s.freeUses := by unfold conclude; split <;> rfl
@[simp] theorem conclude_pending (s : State) : (conclude s).pending = s.pending := by unfold conclude; split <;> rfl

theorem conclude_outs (s : State) :
    (conclude s).outs = if !tickOpen s && s.rstn == .high then s.outs.map (fun o => o.formed s.permit.state) else s.outs := by
  unfold conclude; split <;> rfl

/-! ### Levels -/

/-- With nothing of a tick listed, its pulse ends and firings are complete. -/
theorem tickOpen_of_nil {s : State} (h : s.tickWork = []) : tickOpen s = false := by simp [tickOpen, h]

/-- Where the pulse ends and firings of a tick stand apart, they are complete or not begun. -/
theorem tickOpen_of_apart {s : State} (h : s.tickStage = .apart) : tickOpen s = false := by simp [tickOpen, h]

@[simp] theorem tickOpen_formAtn (s : State) : tickOpen (formAtn s) = tickOpen s := rfl
@[simp] theorem tickOpen_formDrives (s : State) : tickOpen (formDrives s) = tickOpen s := rfl

@[simp] theorem session_formAtn (s : State) (p : Port) : (formAtn s).session p = s.session p := by
  simp [State.session, State.port]

theorem journalLevel_congr {s t : State} (h : t.journal = s.journal) (x : Session) : journalLevel t x = journalLevel s x := by
  unfold journalLevel holdsMatch; rw [h]

theorem pendingSet_congr {s t : State} (h : t.journal = s.journal) (x : Session) : pendingSet t x = pendingSet s x := by
  unfold pendingSet; rw [journalLevel_congr h]

/-- An ATN level is read from the journal and the port's session only. -/
theorem atnLevel_congr {s t : State} {p : Port} (hj : t.journal = s.journal) (hs : t.session p = s.session p) :
    atnLevel t p = atnLevel s p := by
  unfold atnLevel; rw [hs]
  split
  · rfl
  · rw [pendingSet_congr hj]

@[simp] theorem atnLevel_formAtn (s : State) (p : Port) : atnLevel (formAtn s) p = atnLevel s p := atnLevel_congr rfl (session_formAtn s p)

theorem formAtn_formAtn (s : State) : formAtn (formAtn s) = formAtn s := by
  have h : (formAtn (formAtn s)).ports = (formAtn s).ports := by
    apply PerPort.ext_get; intro p; simp
  simpa [formAtn] using h

theorem OutLine.formed_formed (o : OutLine) (x : PermitState) : (o.formed x).formed x = o.formed x := by
  obtain ⟨c, d, r, f, g, q⟩ := o
  cases x <;> cases g <;> simp [OutLine.formed, OutLine.drive]

theorem formDrives_formDrives (s : State) : formDrives (formDrives s) = formDrives s := by
  simp [formDrives, Function.comp_def, OutLine.formed_formed]

/-- ATN forming and drive forming touch different fields. -/
theorem formDrives_formAtn (s : State) : formDrives (formAtn s) = formAtn (formDrives s) := rfl

/-- After `conclude`, ATN levels and drives are formed. -/
theorem conclude_formed (s : State) : LevelsFormed (conclude s) := by
  unfold conclude
  refine ⟨formAtn_formAtn _, fun hr ht => ?_⟩
  split
  · rw [formDrives_formAtn, formDrives_formDrives]
  · rename_i h
    simp_all

/-- A state whose levels are formed stays as it is when concluded. -/
theorem conclude_eq_self {s : State} (h : LevelsFormed s) : conclude s = s := by
  unfold conclude
  split
  · rename_i hc
    simp only [Bool.and_eq_true, Bool.not_eq_true', beq_iff_eq] at hc
    rw [h.2 hc.2 hc.1, h.1]
  · exact h.1

/-! ### A quiet state -/

theorem nextEvent_of_quiet {s : State} (h : quiet s = true) : nextEvent s = none := by
  simp only [quiet, Bool.and_eq_true, Option.isNone_iff_eq_none] at h; exact h.1.1.1

theorem drain_of_none {s : State} (h : nextEvent s = none) (limit fuel : Nat) : drain limit fuel s = s := by
  cases fuel <;> simp [drain, h]

theorem takeReferenceEvent_of_quiet {s : State} (h : quiet s = true) : takeReferenceEvent s = s := by
  simp only [quiet, Bool.and_eq_true, Bool.not_eq_true'] at h
  simp [takeReferenceEvent, h.1.1.2, h.1.2, h.2]

/-- Settling a state in which nothing is due changes nothing. -/
theorem settle_of_quiet {s : State} (h : quiet s = true) : settle s = s := by
  have hn := nextEvent_of_quiet h
  simp [settle, drainBelow, drain_of_none hn, takeReferenceEvent_of_quiet h]

/-- The idle part with nothing due stays as it is. -/
theorem idleStep_of_quiet {s : State} (h : quiet s = true) : idleStep s = s := by
  simp [idleStep, nextEvent_of_quiet h, takeReferenceEvent_of_quiet h]

/-- In a quiet state: no tick event, raise, step, finished slew or tick waits. -/
theorem quiet_facts {s : State} (h : quiet s = true) :
    s.tickWork = [] ∧ s.conditions.partVote = s.permit.partVote ∧ s.conditions.raises = [] ∧ s.time.stepDue = false ∧ slewIsDone s = false
      ∧ s.time.acc < 1 := by
  have hn := nextEvent_of_quiet h
  unfold nextEvent at hn
  split at hn
  · cases hn
  · cases ht : s.tickWork with
    | cons e l => rw [ht] at hn; dsimp only at hn; split_ifs at hn
    | nil =>
      rw [ht] at hn
      dsimp only at hn
      split_ifs at hn with h1 h2 h3 h4 h5
      simp only [not_not, not_le, Bool.not_eq_true] at h1 h2 h3 h4 h5
      exact ⟨rfl, h1, h2, h3, h4, h5⟩

theorem tickWork_of_quiet {s : State} (h : quiet s = true) : s.tickWork = [] := (quiet_facts h).1

/-! ### Levels stay formed -/

theorem carryOut_formed (e : DueEvent) (s : State) : LevelsFormed (carryOut e s) := conclude_formed _

theorem drain_formed (limit : Nat) : ∀ (fuel : Nat) (s : State), LevelsFormed s → LevelsFormed (drain limit fuel s)
  | 0, _, h => h
  | fuel + 1, s, h => by
      unfold drain
      split
      · exact h
      · split
        · exact drain_formed limit fuel _ (carryOut_formed _ _)
        · exact h

theorem takeReferenceEvent_formed {s : State} (h : LevelsFormed s) : LevelsFormed (takeReferenceEvent s) := by
  unfold takeReferenceEvent
  split_ifs
  · exact conclude_formed _
  · exact conclude_formed _
  · exact conclude_formed _
  · exact h

theorem settle_formed {s : State} (h : LevelsFormed s) : LevelsFormed (settle s) :=
  drain_formed _ _ _ (takeReferenceEvent_formed (drain_formed _ _ _ h))

theorem idleStep_formed {s : State} (h : LevelsFormed s) : LevelsFormed (idleStep s) := by
  unfold idleStep
  split
  · exact carryOut_formed _ _
  · exact takeReferenceEvent_formed h

end Sys2Proof.Machine
end

