-- ==== Sys2Proof/Laws/Frames.lean ====
section
/-! SUPPORT. The frame of every shared operation: which fields of State it can change, and that it leaves the ports' links as they were. One
lemma per operation; a proof about a field that an operation does not list reads the field through it unchanged. -/

set_option Elab.async false

namespace Sys2Proof.Machine

/-- Only the listed fields changed, and no port's link did. -/
structure Kept (changed : List Block) (s t : State) : Prop where
  unchanged : Unchanged changed s t
  links     : SameLinks s t

theorem Kept.refl (bs : List Block) (s : State) : Kept bs s s :=
  ⟨fun b _ => by cases b <;> rfl, fun _ => ⟨rfl, rfl, rfl, rfl, rfl, rfl⟩⟩

theorem Unchanged.trans {bs : List Block} {s t u : State} (h : Unchanged bs s t) (k : Unchanged bs t u) : Unchanged bs s u := fun b hb => by
  have h1 := h b hb
  have h2 := k b hb
  cases b <;> exact Eq.trans h2 h1

theorem Kept.trans {bs : List Block} {s t u : State} (h : Kept bs s t) (k : Kept bs t u) : Kept bs s u :=
  ⟨h.unchanged.trans k.unchanged, fun p => by
    obtain ⟨a1, a2, a3, a4, a5, a6⟩ := h.links p
    obtain ⟨b1, b2, b3, b4, b5, b6⟩ := k.links p
    exact ⟨b1.trans a1, b2.trans a2, b3.trans a3, b4.trans a4, b5.trans a5, b6.trans a6⟩⟩

theorem Unchanged.mono {bs cs : List Block} {s t : State} (h : Unchanged bs s t) (sub : bs ⊆ cs) : Unchanged cs s t :=
  fun b hb => h b fun k => hb (sub k)

theorem Kept.mono {bs cs : List Block} {s t : State} (h : Kept bs s t) (sub : bs ⊆ cs) : Kept cs s t := ⟨h.unchanged.mono sub, h.links⟩

/-- A state that differs in fields other than the ports only. -/
theorem Kept.of_ports {bs : List Block} {s t : State} (h : Unchanged bs s t) (hp : t.ports = s.ports) : Kept bs s t :=
  ⟨h, fun p => by
    have e : t.port p = s.port p := by unfold State.port; rw [hp]
    rw [e]; exact ⟨rfl, rfl, rfl, rfl, rfl, rfl⟩⟩

/-- One more operation, whose frame is within the frame so far. -/
theorem Kept.after {bs cs : List Block} {s t u : State} (k : Kept cs t u) (h : Kept bs s t)
    (sub : (cs.all fun b => bs.contains b) = true := by rfl) : Kept bs s u :=
  h.trans (k.mono fun b hb => by simpa using List.all_eq_true.mp sub b hb)

theorem Kept.foldl {α : Type} {bs : List Block} {f : State → α → State} (h : ∀ s a, Kept bs s (f s a)) :
    ∀ (l : List α) (s : State), Kept bs s (l.foldl f s)
  | [], s => Kept.refl bs s
  | a :: l, s => (h s a).trans (Kept.foldl h l (f s a))

/-! ### Updates -/

theorem kept_setTime (s : State) (x : Timebase) : Kept [.time] s (s.setTime x) :=
  .of_ports (fun b hb => by cases b <;> first | exact absurd (by decide) hb | rfl) rfl

theorem kept_setJournal (s : State) (x : Journal) : Kept [.journal] s (s.setJournal x) :=
  .of_ports (fun b hb => by cases b <;> first | exact absurd (by decide) hb | rfl) rfl

theorem kept_setPermit (s : State) (x : Permit) : Kept [.permit] s (s.setPermit x) :=
  .of_ports (fun b hb => by cases b <;> first | exact absurd (by decide) hb | rfl) rfl

theorem kept_setEventLine (s : State) (n : Fin 16) (x : EventLine) : Kept [.lines] s (s.setEventLine n x) :=
  .of_ports (fun b hb => by cases b <;> first | exact absurd (by decide) hb | rfl) rfl

theorem kept_setOut (s : State) (k : Fin 8) (x : OutLine) : Kept [.outs] s (s.setOut k x) :=
  .of_ports (fun b hb => by cases b <;> first | exact absurd (by decide) hb | rfl) rfl

theorem kept_setClaim (s : State) (r : Resource) (x : ClaimRecord) : Kept [.claims] s (s.setClaim r x) :=
  .of_ports (fun b hb => by cases b <;> first | exact absurd (by decide) hb | rfl) rfl

theorem kept_putEntry (s : State) (i : Fin 64) (x : Option Entry) : Kept [.schedule] s (s.putEntry i x) :=
  .of_ports (fun b hb => by cases b <;> first | exact absurd (by decide) hb | rfl) rfl

theorem kept_setCondition (s : State) (k : Condition) (x : ConditionRecord) : Kept [.conditions] s (s.setCondition k x) :=
  .of_ports (fun b hb => by cases b <;> first | exact absurd (by decide) hb | rfl) rfl

theorem kept_useFree (s : State) : Kept [.freeUses] s (useFree s) :=
  .of_ports (fun b hb => by cases b <;> first | exact absurd (by decide) hb | rfl) rfl

theorem kept_setSession (s : State) (p : Port) (x : Option Session) : Kept [.ports] s (s.setSession p x) :=
  ⟨fun b hb => by cases b <;> first | exact absurd (by decide) hb | rfl, fun q => by
    rw [port_setSession]; split
    · rename_i h; subst h; exact ⟨rfl, rfl, rfl, rfl, rfl, rfl⟩
    · exact ⟨rfl, rfl, rfl, rfl, rfl, rfl⟩⟩

theorem kept_modSession (s : State) (p : Port) (f : Session → Session) : Kept [.ports] s (s.modSession p f) := kept_setSession s p _

/-- Changing sessions only, port by port. -/
theorem kept_mapSessions (s : State) (f : Port → PortState → Option Session) :
    Kept [.ports] s { s with ports := s.ports.mapIdx fun p x => { x with session := f p x } } :=
  ⟨fun b hb => by cases b <;> first | exact absurd (by decide) hb | rfl, fun q => by simp [State.port]⟩

/-- Closes a frame goal whose changed fields are a sublist of those allowed. -/
theorem sub_of_all {bs cs : List Block} (h : (bs.all fun b => cs.contains b) = true) : bs ⊆ cs := fun b hb => by
  have := List.all_eq_true.mp h b hb
  simpa using this

/-! ### Journal, attention, conditions -/

/-- What offering a record can change. -/
abbrev offerBlocks : List Block := [.journal, .ports, .conditions]

theorem kept_storeRecord (t : Nat) (q : Quality) (o : Origin) (b : Body) (s : State) : Kept [.journal] s (storeRecord t q o b s) :=
  kept_setJournal _ _

theorem kept_retireOldest (s : State) : Kept [.journal, .ports] s (retireOldest s) := by
  unfold retireOldest
  split
  · exact .refl _ _
  · exact ⟨fun b hb => by cases b <;> first | exact absurd (by decide) hb | rfl, fun q => by simp [State.port]⟩

theorem kept_handRaise (c : Condition) (s : State) : Kept [.conditions] s (handRaise c s) := by
  unfold handRaise
  split
  · exact .refl _ _
  · exact .of_ports (fun b hb => by cases b <;> first | exact absurd (by decide) hb | rfl) rfl

theorem kept_enterWithholding (s : State) : Kept [.journal, .conditions] s (enterWithholding s) :=
  ((kept_setJournal _ _).mono (sub_of_all rfl)).trans ((kept_handRaise _ _).mono (sub_of_all rfl))

theorem kept_withhold (s : State) : Kept [.journal] s (withhold s) := kept_setJournal _ _

theorem kept_offerAs (t : Nat) (q : Quality) (o : Origin) (b : Body) (s : State) : Kept offerBlocks s (offerAs t q o b s) := by
  unfold offerAs
  split
  · exact .refl _ _
  · split
    · exact (kept_withhold s).mono (sub_of_all rfl)
    · split_ifs
      · exact (kept_storeRecord _ _ _ _ s).mono (sub_of_all rfl)
      · exact (kept_enterWithholding s).mono (sub_of_all rfl)
      · exact ((kept_retireOldest s).mono (sub_of_all rfl)).trans ((kept_storeRecord _ _ _ _ _).mono (sub_of_all rfl))

theorem kept_offer (o : Origin) (b : Body) (s : State) : Kept offerBlocks s (offer o b s) := kept_offerAs _ _ _ _ _

theorem kept_reexamine (s : State) : Kept offerBlocks s (reexamine s) := by
  unfold reexamine
  split
  · exact .refl _ _
  · split_ifs
    · exact .refl _ _
    · exact (((kept_retireOldest s).mono (sub_of_all rfl)).trans ((kept_storeRecord _ _ _ _ _).mono (sub_of_all rfl))).trans
        ((kept_setJournal _ _).mono (sub_of_all rfl))

theorem kept_raiseNotice (n : Byte) (p : Port) (s : State) : Kept [.ports] s (raiseNotice n p s) := kept_modSession _ _ _

theorem kept_raiseForAll (n : Byte) (e : Option Port) (s : State) : Kept [.ports] s (raiseForAll n e s) := by
  refine ⟨fun b hb => by cases b <;> first | exact absurd (by decide) hb | rfl, fun q => ?_⟩
  simp only [State.port, raiseForAll, PerPort.get_mapIdx]
  split <;> exact ⟨rfl, rfl, rfl, rfl, rfl, rfl⟩

theorem kept_handLevel (k : Fin 8) (l : Level) (s : State) : Kept [.outs] s (handLevel k l s) := kept_setOut _ _ _

/-! ### Entries -/

/-- What the schedule's operations can change. -/
abbrev entryBlocks : List Block := [.schedule, .outs, .journal, .ports, .conditions]

theorem kept_modEntry (i : Fin 64) (f : Entry → Entry) (s : State) : Kept [.schedule] s (modEntry i f s) := kept_putEntry _ _ _

theorem kept_handFiring (e : Entry) (s : State) : Kept [.outs] s (handFiring e s) := by
  unfold handFiring
  split
  · exact .refl _ _
  · exact .refl _ _
  · exact kept_handLevel _ _ _

theorem kept_fire (i : Fin 64) (late : Option Nat) (s : State) : Kept entryBlocks s (fire i late s) := by
  unfold fire
  split
  · exact .refl _ _
  · rename_i e _
    have h1 : Kept entryBlocks s (handFiring e s) := (kept_handFiring e s).mono (sub_of_all rfl)
    have h2 := h1.trans ((kept_modEntry i (fun e => { e with running := startedPulse e }) (handFiring e s)).mono (sub_of_all rfl))
    dsimp only
    generalize modEntry i (fun e => { e with running := startedPulse e }) (handFiring e s) = u at h2 ⊢
    have h3 : Kept entryBlocks s (if e.journalFlag then offer (.master e.owner) (.entryFired (u.handle i) e.action e.line late) u else u) := by
      split
      · exact h2.trans ((kept_offer _ _ _).mono (sub_of_all rfl))
      · exact h2
    generalize (if e.journalFlag then offer (.master e.owner) (.entryFired (u.handle i) e.action e.line late) u else u) = v at h3 ⊢
    have h4 : Kept entryBlocks s (if tooLate late v then handRaise .entryLate v else v) := by
      split
      · exact h3.trans ((kept_handRaise _ _).mono (sub_of_all rfl))
      · exact h3
    generalize (if tooLate late v then handRaise .entryLate v else v) = w at h4 ⊢
    split
    · exact h4.trans ((kept_raiseNotice _ _ _).mono (sub_of_all rfl))
    · exact h4

theorem kept_skip (i : Fin 64) (s : State) : Kept entryBlocks s (skip i s) := by
  unfold skip
  split
  · exact .refl _ _
  · split
    · exact (kept_offer _ _ _).mono (sub_of_all rfl)
    · exact .refl _ _

theorem kept_complete (i : Fin 64) (s : State) : Kept entryBlocks s (complete i s) := by
  unfold complete
  split
  · exact .refl _ _
  · exact ((kept_offer _ _ _).mono (sub_of_all rfl)).trans ((kept_putEntry _ _ _).mono (sub_of_all rfl))

theorem kept_closeOccurrence (i : Fin 64) (s : State) : Kept entryBlocks s (closeOccurrence i s) := by
  unfold closeOccurrence
  split
  · exact .refl _ _
  · split
    · exact (kept_modEntry _ _ _).mono (sub_of_all rfl)
    · exact (kept_modEntry _ _ _).mono (sub_of_all rfl)
    · split
      · exact (kept_modEntry _ _ _).mono (sub_of_all rfl)
      · exact kept_complete _ _

theorem kept_endPulse (i : Fin 64) (s : State) : Kept entryBlocks s (endPulse i s) := by
  unfold endPulse
  split
  · exact .refl _ _
  · split
    · exact .refl _ _
    · refine Kept.trans ?_ ((kept_modEntry _ _ _).mono (sub_of_all rfl))
      split
      · exact (kept_handLevel _ _ _).mono (sub_of_all rfl)
      · exact .refl _ _

theorem kept_fireAtTick (i : Fin 64) (s : State) : Kept entryBlocks s (fireAtTick i s) :=
  (((kept_endPulse i s).trans (kept_fire i none _)).trans ((kept_modEntry _ _ _).mono (sub_of_all rfl))).trans (kept_closeOccurrence i _)

theorem kept_catchUp (T : Nat) (i : Fin 64) (s : State) : Kept entryBlocks s (catchUp T i s) := by
  unfold catchUp
  dsimp only
  have h1 := kept_endPulse i s
  generalize endPulse i s = u at h1 ⊢
  split
  · exact h1
  · split
    · exact h1
    · refine (Kept.trans ?_ ((kept_modEntry _ _ _).mono (sub_of_all rfl))).trans (kept_closeOccurrence i _)
      split
      · exact h1.trans (kept_fire _ _ _)
      · exact h1.trans (kept_skip _ _)

theorem kept_defer (i : Fin 64) (s : State) : Kept entryBlocks s (defer i s) :=
  (kept_endPulse i s).trans ((kept_modEntry _ _ _).mono (sub_of_all rfl))

theorem kept_takeLate (T : Nat) (s : State) (i : Fin 64) : Kept entryBlocks s (takeLate T s i) := by
  unfold takeLate
  split
  · exact .refl _ _
  · split
    · exact kept_defer _ _
    · exact kept_catchUp _ _ _

theorem kept_entryComesDue (i : Fin 64) (s : State) : Kept entryBlocks s (entryComesDue i s) := by
  unfold entryComesDue
  split
  · exact .refl _ _
  · split_ifs
    · exact kept_defer _ _
    · exact kept_fireAtTick _ _
    · exact .refl _ _

theorem kept_pulseRunsOut (i : Fin 64) (s : State) : Kept entryBlocks s (pulseRunsOut i s) := by
  unfold pulseRunsOut
  split
  · exact .refl _ _
  · split
    · split_ifs
      · exact (kept_endPulse _ _).trans (kept_closeOccurrence _ _)
      · exact .refl _ _
    · exact .refl _ _

theorem kept_cancel (c : CancelCause) (s : State) (i : Fin 64) : Kept entryBlocks s (cancel c s i) := by
  unfold cancel
  split
  · exact .refl _ _
  · refine Kept.after (kept_putEntry _ _ _) ?_
    split
    · exact Kept.after (kept_endPulse _ _) (Kept.after (kept_offer _ _ _) (.refl _ _))
    · exact Kept.after (kept_offer _ _ _) (.refl _ _)

theorem kept_cancelWhere (c : CancelCause) (test : Entry → Bool) (s : State) : Kept entryBlocks s (cancelWhere c test s) :=
  Kept.foldl (kept_cancel c) _ _

theorem kept_resumeEntry (R : Nat) (s : State) (i : Fin 64) : Kept entryBlocks s (resumeEntry R s i) := by
  unfold resumeEntry
  split
  · exact .refl _ _
  · split_ifs
    · exact kept_catchUp _ _ _
    · exact (kept_modEntry _ _ _).mono (sub_of_all rfl)

theorem kept_resumeDeferred (s : State) : Kept entryBlocks s (resumeDeferred s) := Kept.foldl (kept_resumeEntry _) _ _

theorem kept_takeTrigger (t : Nat) (s : State) (i : Fin 64) : Kept entryBlocks s (takeTrigger t s i) := by
  unfold takeTrigger
  split
  · exact .refl _ _
  · exact ((kept_modEntry _ _ _).mono (sub_of_all rfl)).trans (kept_closeOccurrence _ _)

theorem kept_handEdge (n : Fin 16) (e : Edge) (t : Nat) (s : State) : Kept entryBlocks s (handEdge n e t s) :=
  (Kept.foldl (kept_takeTrigger t) _ _).trans (Kept.foldl (fun s i => kept_takeLate _ s i) _ _)

/-- What a step of part time can change in the schedule and beyond. -/
abbrev stepBlocks : List Block := [.schedule, .outs, .journal, .ports, .conditions, .freeUses]

theorem kept_shiftEntry (d : Int) (s : State) (i : Fin 64) : Kept stepBlocks s (shiftEntry d s i) := by
  unfold shiftEntry
  split
  · exact .refl _ _
  · split
    · dsimp only
      have h1 : ∀ x : Nat, Kept stepBlocks s (if (x : Int) + d < 0 then useFree s else s) := fun x => by
        split
        · exact (kept_useFree s).mono (sub_of_all rfl)
        · exact .refl _ _
      split
      · exact ((h1 _).trans ((kept_modEntry _ _ _).mono (sub_of_all rfl))).trans ((kept_closeOccurrence _ _).mono (sub_of_all rfl))
      · exact (h1 _).trans ((kept_modEntry _ _ _).mono (sub_of_all rfl))
    · exact .refl _ _

theorem kept_scheduleStep (t0 t1 : Nat) (s : State) : Kept stepBlocks s (scheduleStep t0 t1 s) :=
  (Kept.foldl (kept_shiftEntry _) _ _).trans ((Kept.foldl (kept_takeLate t1) _ _).mono (sub_of_all rfl))

/-! ### The permit -/

/-- What a change of permit state can change. -/
abbrev permitBlocks : List Block := [.permit, .schedule, .outs, .journal, .ports, .conditions]

theorem kept_enterPermitState (n : PermitState) (c : PermitCause) (s : State) : Kept [.permit] s (enterPermitState n c s) := kept_setPermit _ _

theorem kept_permitToSchedule (o n : PermitState) (s : State) : Kept entryBlocks s (permitToSchedule o n s) := by
  unfold permitToSchedule
  split
  · exact kept_cancelWhere _ _ _
  · exact kept_resumeDeferred _
  · exact .refl _ _

theorem kept_formGatedDrives (s : State) : Kept [.outs] s (formGatedDrives s) :=
  .of_ports (fun b hb => by cases b <;> first | exact absurd (by decide) hb | rfl) rfl

theorem kept_permitToLines (n : PermitState) (s : State) : Kept [.outs] s (permitToLines n s) := by
  unfold permitToLines
  refine Kept.after (kept_formGatedDrives _) ?_
  split
  · exact .of_ports (fun b hb => by cases b <;> first | exact absurd (by decide) hb | rfl) rfl
  · exact .refl _ _

theorem kept_setPermitPins (s : State) : Kept [.permit] s (setPermitPins s) := kept_setPermit _ _

theorem kept_changePermit (n : PermitState) (c : PermitCause) (e : Option Port) (s : State) : Kept permitBlocks s (changePermit n c e s) := by
  exact Kept.after (kept_raiseForAll _ _ _) <| Kept.after (kept_setPermitPins _) <| Kept.after (kept_permitToLines _ _) <|
    Kept.after (kept_permitToSchedule _ _ _) <| Kept.after (kept_offer _ _ _) <| Kept.after (kept_enterPermitState n c s) (.refl _ _)

theorem kept_takeAggregate (c : PermitCause) (e : Option Port) (s : State) : Kept permitBlocks s (takeAggregate c e s) := by
  unfold takeAggregate
  dsimp only
  split_ifs
  · exact .refl _ _
  · exact (kept_setPermit _ _).mono (sub_of_all rfl)
  · exact ((kept_setPermit _ _).mono (sub_of_all rfl)).trans (kept_changePermit _ _ _ _)

theorem kept_setElector (p : Port) (x : Option Elector) (c : PermitCause) (e : Option Port) (s : State) :
    Kept permitBlocks s (setElector p x c e s) := ((kept_setPermit _ _).mono (sub_of_all rfl)).trans (kept_takeAggregate _ _ _)

theorem kept_armingExpires (s : State) : Kept permitBlocks s (armingExpires s) := by
  unfold armingExpires
  split
  · exact kept_changePermit _ _ _ _
  · exact .refl _ _

theorem kept_takePartVote (s : State) : Kept permitBlocks s (takePartVote s) := by
  unfold takePartVote
  split
  · exact .refl _ _
  · exact ((kept_setPermit _ _).mono (sub_of_all rfl)).trans (kept_takeAggregate _ _ _)

theorem kept_formPartVoteAgain (s : State) : Kept [.conditions] s (formPartVoteAgain s) :=
  .of_ports (fun b hb => by cases b <;> first | exact absurd (by decide) hb | rfl) rfl

theorem kept_raiseCondition (c : Condition) (s : State) : Kept offerBlocks s (raiseCondition c s) := by
  unfold raiseCondition
  dsimp only
  split
  · exact (kept_setCondition _ _ _).mono (sub_of_all rfl)
  · have h := (((kept_setCondition s c { s.condition c with active := (s.condition c).active || isLevelCondition c, firstLatched := some s.time.partTime }).mono
      (cs := offerBlocks) (sub_of_all rfl)).trans (kept_offer .part (.conditionRaised c) _)).trans
      ((kept_raiseForAll noticeCondition none _).mono (sub_of_all rfl))
    split
    · exact h.trans ((kept_formPartVoteAgain _).mono (sub_of_all rfl))
    · exact h

theorem kept_levelFalls (c : Condition) (s : State) : Kept [.conditions] s (levelFalls c s) := kept_setCondition _ _ _

theorem kept_takeFirstRaise (s : State) : Kept offerBlocks s (takeFirstRaise s) := by
  unfold takeFirstRaise
  split
  · exact .refl _ _
  · refine Kept.trans ?_ (kept_raiseCondition _ _)
    exact .of_ports (fun b hb => by cases b <;> first | exact absurd (by decide) hb | rfl) rfl

/-! ### Claims, lapse and close -/

/-- What a hand-over can change. -/
abbrev claimBlocks : List Block := [.claims, .schedule, .outs, .journal, .ports, .conditions]

theorem kept_clearLine (p : Port) (k : Fin 8) (s : State) : Kept entryBlocks s (clearLine p k s) :=
  ((kept_cancelWhere _ _ s).trans ((kept_handLevel _ _ _).mono (sub_of_all rfl))).trans ((kept_setOut _ _ _).mono (sub_of_all rfl))

theorem kept_passOn (r : Resource) (s : State) : Kept claimBlocks s (passOn r s) := by
  unfold passOn
  split
  · exact (kept_setClaim _ _ _).mono (sub_of_all rfl)
  · exact (((kept_setClaim _ _ _).mono (sub_of_all rfl)).trans ((kept_offer _ _ _).mono (sub_of_all rfl))).trans
      ((kept_raiseNotice _ _ _).mono (sub_of_all rfl))

theorem kept_handOver (p : Port) (c : ClaimCause) (r : Resource) (s : State) : Kept claimBlocks s (handOver p c r s) := by
  unfold handOver
  refine Kept.after (kept_passOn _ _) ?_
  have h : Kept claimBlocks s (offer (.master p) (.claimReleased r c) s) := Kept.after (kept_offer _ _ _) (.refl _ _)
  cases r with
  | out k => exact Kept.after (kept_clearLine _ _ _) h
  | time => exact h
  | config => exact h

theorem kept_handOverIfHeld (p : Port) (c : ClaimCause) (s : State) (r : Resource) : Kept claimBlocks s (handOverIfHeld p c s r) := by
  unfold handOverIfHeld
  split
  · exact kept_handOver _ _ _ _
  · exact .refl _ _

theorem kept_leaveWaitLists (p : Port) (s : State) : Kept [.claims] s (leaveWaitLists p s) :=
  .of_ports (fun b hb => by cases b <;> first | exact absurd (by decide) hb | rfl) rfl

theorem kept_forceStop (p : Port) (s : State) : Kept permitBlocks s (forceStop p s) := by
  unfold forceStop
  split
  · exact .refl _ _
  · exact kept_setElector _ _ _ _ _

/-- What a lapse or a close can change. -/
abbrev sessionBlocks : List Block := [.permit, .claims, .schedule, .outs, .journal, .ports, .conditions]

theorem kept_lapseSession (p : Port) (s : State) : Kept sessionBlocks s (lapseSession p s) := by
  exact Kept.after (kept_reexamine _) <| Kept.after (kept_modSession _ _ _) <| Kept.after (kept_handOverIfHeld _ _ _ _) <|
    Kept.after (kept_handOverIfHeld _ _ _ _) <| Kept.after (kept_leaveWaitLists _ _) <| Kept.after (kept_forceStop _ _) <|
    Kept.after (kept_offer _ _ _) <| Kept.after (kept_modSession s p Session.lapsed) (.refl _ _)

theorem kept_deadlineExpires (p : Port) (s : State) : Kept sessionBlocks s (deadlineExpires p s) := by
  unfold deadlineExpires
  split
  · split
    · exact kept_lapseSession _ _
    · exact .refl _ _
  · exact .refl _ _

theorem kept_dropElector (p : Port) (s : State) : Kept permitBlocks s (dropElector p s) := by
  unfold dropElector
  split
  · exact .refl _ _
  · exact kept_setElector _ _ _ _ _

theorem kept_closeSessionOn (p : Port) (c : CloseCause) (s : State) : Kept sessionBlocks s (closeSessionOn p c s) := by
  exact Kept.after (kept_offer _ _ _) <| Kept.after (kept_reexamine _) <| Kept.after (kept_setSession _ _ _) <|
    Kept.after (kept_dropElector _ _) <| Kept.after (Kept.foldl (kept_handOverIfHeld p .close) _ _) <|
    Kept.after (kept_leaveWaitLists _ _) <| Kept.after (kept_cancelWhere .closed (fun e => e.owner == p) s) (.refl _ _)

/-! ### The timebase and the events of a tick -/

/-- What a cycle can change in the timebase beside the record of a finished slew. -/
abbrev slewBlocks : List Block := [.time, .journal, .ports, .conditions]

theorem kept_feed (F : Nat) (s : State) : Kept [.time] s (feed F s) := kept_setTime _ _

theorem kept_endSlew (s : State) : Kept slewBlocks s (endSlew s) := by
  unfold endSlew
  split
  · exact .refl _ _
  · split
    · exact ((kept_setTime _ _).mono (sub_of_all rfl)).trans ((kept_offer _ _ _).mono (sub_of_all rfl))
    · exact .refl _ _

theorem kept_abandonSlew (s : State) : Kept slewBlocks s (abandonSlew s) := by
  unfold abandonSlew
  split
  · exact .refl _ _
  · exact ((kept_setTime _ _).mono (sub_of_all rfl)).trans ((kept_offer _ _ _).mono (sub_of_all rfl))

theorem kept_takeCapture (p : Port) (s : State) : Kept [.time, .ports] s (takeCapture p s) := by
  unfold takeCapture
  dsimp only
  split
  · exact ((kept_setTime _ _).mono (sub_of_all rfl)).trans ((kept_raiseNotice _ _ _).mono (sub_of_all rfl))
  · exact .refl _ _

theorem kept_modLine (n : Fin 16) (f : EventLine → EventLine) (s : State) : Kept [.lines] s (modLine n f s) := kept_setEventLine _ _ _

theorem kept_reportExcess (n : Fin 16) (s : State) : Kept offerBlocks s (reportExcess n s) := by
  unfold reportExcess
  dsimp only
  split
  · exact .refl _ _
  · exact kept_offer _ _ _

/-- What an event of an input line can change. -/
abbrev lineBlocks : List Block := [.lines, .schedule, .outs, .journal, .ports, .conditions]

theorem kept_admitEdge (n : Fin 16) (l : Level) (s : State) : Kept entryBlocks s (admitEdge n l s) :=
  ((kept_offerAs _ _ _ _ _).mono (sub_of_all rfl)).trans (kept_handEdge _ _ _ _)

theorem kept_qualifyEdge (n : Fin 16) (s : State) : Kept lineBlocks s (qualifyEdge n s) := by
  unfold qualifyEdge
  dsimp only
  have h1 : Kept lineBlocks s (s.setEventLine n { s.line n with tracked := some (s.line n).raw, qual := .idle }) :=
    (kept_setEventLine _ _ _).mono (sub_of_all rfl)
  split_ifs
  · exact h1.trans ((kept_admitEdge _ _ _).mono (sub_of_all rfl))
  · exact (h1.trans ((kept_modLine _ _ _).mono (sub_of_all rfl))).trans ((kept_admitEdge _ _ _).mono (sub_of_all rfl))
  · exact h1.trans ((kept_modLine _ _ _).mono (sub_of_all rfl))
  · exact h1

theorem kept_endWindow (n : Fin 16) (s : State) : Kept lineBlocks s (endWindow n s) :=
  Kept.after (kept_modLine n (fun l => { l with admitted := 0, excess := 0 }) _) <| Kept.after (kept_reportExcess n s) (.refl _ _)

theorem kept_endImmediatePulse (k : Fin 8) (s : State) : Kept [.outs] s (endImmediatePulse k s) := by
  unfold endImmediatePulse
  split
  · split
    · exact kept_handLevel _ _ _
    · exact .refl _ _
  · exact .refl _ _

/-- What an event of a tick can change. -/
abbrev eventBlocks : List Block := [.time, .lines, .permit, .claims, .schedule, .outs, .journal, .ports, .conditions]

theorem kept_doTickEvent (s : State) (e : TickEvent) : Kept eventBlocks s (doTickEvent s e) := by
  cases e with
  | strobeCapture p => exact (kept_takeCapture p s).mono (sub_of_all rfl)
  | lineEnable n => exact (kept_modLine _ _ _).mono (sub_of_all rfl)
  | lineDisable n => exact ((kept_reportExcess n s).mono (sub_of_all rfl)).trans ((kept_modLine _ _ _).mono (sub_of_all rfl))
  | filterChange n => exact (kept_modLine _ _ _).mono (sub_of_all rfl)
  | edgeSelectChange n => exact (kept_modLine _ _ _).mono (sub_of_all rfl)
  | budgetChange n => exact ((kept_reportExcess n s).mono (sub_of_all rfl)).trans ((kept_modLine _ _ _).mono (sub_of_all rfl))
  | edgeQualified n => exact (kept_qualifyEdge n s).mono (sub_of_all rfl)
  | chatterWindowEnd n => exact Kept.after (kept_endWindow n s) (.refl _ _)
  | entryDue i => exact (kept_entryComesDue i s).mono (sub_of_all rfl)
  | pulseEnd i => exact (kept_pulseRunsOut i s).mono (sub_of_all rfl)
  | immediatePulseEnd k => exact (kept_endImmediatePulse k s).mono (sub_of_all rfl)
  | delayExpired => exact (kept_armingExpires s).mono (sub_of_all rfl)
  | lapse p => exact (kept_deadlineExpires p s).mono (sub_of_all rfl)

theorem kept_refuseStep (x : PendingStep) (s : State) : Kept slewBlocks s (refuseStep x s) :=
  ((kept_setTime _ _).mono (sub_of_all rfl)).trans ((kept_offer _ _ _).mono (sub_of_all rfl))

/-- What the application of a step can change. -/
abbrev applyBlocks : List Block := [.time, .schedule, .outs, .journal, .ports, .conditions, .freeUses]

theorem kept_acceptStep (x : PendingStep) (t : Nat) (s : State) : Kept applyBlocks s (acceptStep x t s) := by
  refine Kept.after (kept_setTime _ _) ?_
  have h : ∀ u : State, Kept applyBlocks s u →
      Kept applyBlocks s (offer (.master x.issuer) (.time (.stepApplied s.time.partTime)) (scheduleStep s.time.partTime t (abandonSlew u))) :=
    fun u h => Kept.after (kept_offer _ _ _) <| Kept.after (kept_scheduleStep _ _ _) <| Kept.after (kept_abandonSlew _) h
  split
  · exact Kept.after (kept_levelFalls _ _) <| Kept.after (kept_offer _ _ _) <| h _ (Kept.after (kept_setTime _ _) (.refl _ _))
  · exact h _ (Kept.after (kept_setTime _ _) (.refl _ _))

theorem kept_applyStep (s : State) : Kept applyBlocks s (applyStep s) := by
  unfold applyStep
  split
  · exact (kept_setTime _ _).mono (sub_of_all rfl)
  · dsimp only
    split
    · exact (kept_refuseStep _ _).mono (sub_of_all rfl)
    · exact kept_acceptStep _ _ _

/-! ### Settling -/

/-- What the part's own events can change: everything but the pins, RSTn and the queue of commands. -/
abbrev ownBlocks : List Block :=
  [.time, .lines, .journal, .schedule, .outs, .claims, .permit, .conditions, .ports, .tickWork, .freeUses]

theorem kept_formAtn (s : State) : Kept [.ports] s (formAtn s) :=
  ⟨fun b hb => by cases b <;> first | exact absurd (by decide) hb | rfl, fun p => by simp [State.port]⟩

theorem kept_formDrives (s : State) : Kept [.outs] s (formDrives s) :=
  .of_ports (fun b hb => by cases b <;> first | exact absurd (by decide) hb | rfl) rfl

theorem kept_conclude (s : State) : Kept [.outs, .ports] s (conclude s) := by
  unfold conclude
  refine Kept.after (kept_formAtn _) ?_
  split
  · exact Kept.after (kept_formDrives s) (.refl _ _)
  · exact .refl _ _

theorem kept_countTick (s : State) : Kept ownBlocks s (countTick s) :=
  ⟨fun b hb => by cases b <;> first | exact absurd (by decide) hb | rfl, fun p => by simp [State.port, countTick]⟩

theorem kept_setTickWork (s : State) (l : List TickEvent) : Kept [.tickWork] s { s with tickWork := l } :=
  .of_ports (fun b hb => by cases b <;> first | exact absurd (by decide) hb | rfl) rfl

theorem kept_without (s : State) (e : TickEvent) : Kept [.tickWork] s (s.without e) :=
  .of_ports (fun b hb => by cases b <;> first | exact absurd (by decide) hb | rfl) rfl

theorem kept_setLines (s : State) (l : Vector EventLine 16) : Kept [.lines] s { s with lines := l } :=
  .of_ports (fun b hb => by cases b <;> first | exact absurd (by decide) hb | rfl) rfl

theorem kept_sampleLines (s : State) : Kept [.lines] s (sampleLines s) := kept_setLines s _

theorem kept_issueTick (s : State) : Kept ownBlocks s (issueTick s) := by
  unfold issueTick
  exact Kept.after (kept_setTickWork _ _) <| Kept.after (kept_sampleLines _) <| Kept.after (kept_countTick _) <|
    Kept.after (kept_setTime _ _) (.refl _ _)

theorem kept_carryOut (e : DueEvent) (s : State) : Kept ownBlocks s (carryOut e s) := by
  unfold carryOut
  refine Kept.after (kept_conclude _) ?_
  cases e with
  | unfinished e => exact Kept.after (kept_doTickEvent _ _) <| Kept.after (kept_without s e) (.refl _ _)
  | tickEvent e => exact Kept.after (kept_doTickEvent _ _) <| Kept.after (kept_without s e) (.refl _ _)
  | partVote => exact Kept.after (kept_takePartVote s) (.refl _ _)
  | raise => exact Kept.after (kept_takeFirstRaise s) (.refl _ _)
  | step => exact Kept.after (kept_applyStep s) (.refl _ _)
  | slewDone => exact Kept.after (kept_endSlew s) (.refl _ _)
  | tick => exact kept_issueTick s

theorem kept_drain (limit : Nat) : ∀ (fuel : Nat) (s : State), Kept ownBlocks s (drain limit fuel s)
  | 0, s => .refl _ s
  | fuel + 1, s => by
      unfold drain
      split
      · exact .refl _ _
      · split
        · exact (kept_carryOut _ s).trans (kept_drain limit fuel _)
        · exact .refl _ _

theorem kept_drainBelow (limit : Nat) (s : State) : Kept ownBlocks s (drainBelow limit s) := kept_drain _ _ _

theorem kept_credit : ∀ (n : Nat) (s : State), Kept slewBlocks s (credit n s)
  | 0, s => .refl _ s
  | n + 1, s => by
      unfold credit
      exact Kept.trans (Kept.after (kept_endSlew _) <| Kept.after (kept_feed _ s) (.refl _ _)) (kept_credit n _)

theorem kept_enterHoldover (s : State) : Kept ownBlocks s (enterHoldover s) :=
  Kept.after (kept_offer _ _ _) <| Kept.after (kept_handRaise _ _) <| Kept.after (kept_setTime _ _) <|
    Kept.after (kept_drainBelow _ _) <| Kept.after (kept_credit _ s) (.refl _ _)

theorem kept_breakReference (s : State) : Kept [.time] s (breakReference s) := kept_setTime _ _

theorem kept_leaveHoldover (s : State) : Kept slewBlocks s (leaveHoldover s) :=
  Kept.after (kept_levelFalls _ _) <| Kept.after (kept_offer _ _ _) <| Kept.after (kept_setTime s _) (.refl _ _)

theorem kept_takeReferenceEvent (s : State) : Kept ownBlocks s (takeReferenceEvent s) := by
  unfold takeReferenceEvent
  split_ifs
  · exact Kept.after (kept_conclude _) (kept_enterHoldover s)
  · exact Kept.after (kept_conclude _) <| Kept.after (kept_breakReference s) (.refl _ _)
  · exact Kept.after (kept_conclude _) <| Kept.after (kept_leaveHoldover s) (.refl _ _)
  · exact .refl _ _

/-- Settling leaves the pins, RSTn, the queue of commands and the ports' links as they were. -/
theorem kept_settle (s : State) : Kept ownBlocks s (settle s) :=
  Kept.after (kept_drainBelow _ _) <| Kept.after (kept_takeReferenceEvent _) (kept_drainBelow _ s)

theorem kept_idleStep (s : State) : Kept ownBlocks s (idleStep s) := by
  unfold idleStep
  split
  · exact kept_carryOut _ _
  · exact kept_takeReferenceEvent _

theorem kept_takeListed (s : State) (e : TickEvent) : Kept ownBlocks s (takeListed s e) := by
  have one : ∀ u : State, Kept ownBlocks u (conclude (doTickEvent (u.without e) e)) := fun u =>
    Kept.after (kept_conclude _) <| Kept.after (kept_doTickEvent _ e) <| Kept.after (kept_without u e) (.refl _ _)
  have go : ∀ u : State, Kept ownBlocks s u → Kept ownBlocks s (if e ∈ u.tickWork then conclude (doTickEvent (u.without e) e) else u) :=
    fun u h => by
      split
      · exact h.trans (one u)
      · exact h
  unfold takeListed
  split
  · exact go s (.refl _ _)
  · exact go _ (kept_drainBelow _ _)

theorem kept_takeTickEvent (e : TickEvent) (s : State) : Kept ownBlocks s (takeTickEvent e s) := by
  unfold takeTickEvent
  split
  · exact (Kept.foldl kept_takeListed _ _).trans (kept_takeListed _ _)
  · exact .refl _ _

end Sys2Proof.Machine
end

