-- ==== Sys2Proof/Laws/Journal.lean ====
section
/-! SUPPORT. Everything an offer and a re-examination can do to the journal (R43 to R51), and that the journal stays consistent. -/

set_option Elab.async false

namespace Sys2Proof.Machine

/-! ### Offers -/

/-- With room, an offer is stored and changes nothing else. -/
theorem offerAs_of_room {s : State} (h : RoomFor 1 s) (t : Nat) (q : Quality) (o : Origin) (b : Body) :
    offerAs t q o b s = storeRecord t q o b s := by
  have hr : s.rstn ≠ .low := by rw [h.rstn]; decide
  have hl : s.journal.store.length < Config.journalCapacity := by
    have := h.room; unfold Config.journalCapacity; omega
  unfold offerAs
  rw [if_neg hr, h.accepting]
  simp only
  rw [if_pos hl]

theorem offer_of_room {s : State} (h : RoomFor 1 s) (o : Origin) (b : Body) :
    offer o b s = storeRecord s.time.partTime (quality s) o b s := offerAs_of_room h _ _ _ _

/-- Room left after an offer that was stored. -/
theorem RoomFor.after_store {s : State} {n : Nat} (h : RoomFor (n + 1) s) (t : Nat) (q : Quality) (o : Origin) (b : Body) :
    RoomFor n (storeRecord t q o b s) :=
  ⟨h.rstn, h.accepting, by
    have := h.room
    simp only [storeRecord, State.setJournal_journal, List.length_append, List.length_singleton]; omega⟩

/-- Room depends on RSTn and the journal only. -/
theorem RoomFor.congr {n : Nat} {s t : State} (h : RoomFor n s) (hr : t.rstn = s.rstn) (hj : t.journal = s.journal) : RoomFor n t :=
  ⟨hr.trans h.rstn, by rw [hj]; exact h.accepting, by rw [hj]; exact h.room⟩

theorem RoomFor.mono {m n : Nat} {s : State} (h : RoomFor n s) (hmn : m ≤ n) : RoomFor m s :=
  ⟨h.rstn, h.accepting, by have := h.room; omega⟩

/-- Everything an offer can do: it is dropped while RSTn is LOW, counted in WITHHOLDING, stored with room, stored in the place of an
unpinned oldest record, or else it puts the journal into WITHHOLDING. -/
theorem offerAs_cases (t : Nat) (q : Quality) (o : Origin) (b : Body) (s : State) :
    (s.rstn = .low ∧ offerAs t q o b s = s)
    ∨ (s.rstn ≠ .low ∧ s.journal.state = .withholding ∧ offerAs t q o b s = withhold s)
    ∨ (s.rstn ≠ .low ∧ s.journal.state = .accepting ∧ s.journal.store.length < 512 ∧ offerAs t q o b s = storeRecord t q o b s)
    ∨ (s.rstn ≠ .low ∧ s.journal.state = .accepting ∧ ¬ s.journal.store.length < 512 ∧ oldestPinned s = true
        ∧ offerAs t q o b s = enterWithholding s)
    ∨ (s.rstn ≠ .low ∧ s.journal.state = .accepting ∧ ¬ s.journal.store.length < 512 ∧ oldestPinned s = false
        ∧ offerAs t q o b s = storeRecord t q o b (retireOldest s)) := by
  unfold offerAs Config.journalCapacity
  by_cases hr : s.rstn = .low
  · exact .inl ⟨hr, if_pos hr⟩
  · rw [if_neg hr]
    cases hj : s.journal.state
    · by_cases hl : s.journal.store.length < 512
      · exact .inr (.inr (.inl ⟨hr, rfl, hl, by simp only [hl, if_true]⟩))
      · cases hp : oldestPinned s
        · exact .inr (.inr (.inr (.inr ⟨hr, rfl, hl, rfl, by simp [hl]⟩)))
        · exact .inr (.inr (.inr (.inl ⟨hr, rfl, hl, rfl, by simp [hl]⟩)))
    · exact .inr (.inl ⟨hr, rfl, rfl⟩)

theorem retireOldest_journal (s : State) : (retireOldest s).journal = { s.journal with store := s.journal.store.tail } := by
  unfold retireOldest
  split
  · rename_i h; rw [h]; simp only [List.tail_nil]; rw [← h]
  · rename_i r rest h; rw [h]; rfl

/-- Everything a re-examination can do: nothing in ACCEPTING or with the oldest record pinned, else the GAP record takes the place of the
oldest and the journal accepts (R49, R50). -/
theorem reexamine_cases (s : State) :
    (s.journal.state = .accepting ∧ reexamine s = s)
    ∨ (s.journal.state = .withholding ∧ oldestPinned s = true ∧ reexamine s = s)
    ∨ (s.journal.state = .withholding ∧ oldestPinned s = false
        ∧ (reexamine s).journal
          = { store := s.journal.store.tail
                ++ [{ seq := s.journal.counter, time := s.time.partTime, quality := quality s, origin := .part, body := .gap s.journal.withheld }]
              counter := s.journal.counter + 1, state := .accepting, withheld := 0 }) := by
  unfold reexamine
  cases hj : s.journal.state
  · exact .inl ⟨rfl, rfl⟩
  · cases hp : oldestPinned s
    · refine .inr (.inr ⟨rfl, rfl, ?_⟩)
      simp [storeRecord, retireOldest_journal, quality, hj]
    · exact .inr (.inl ⟨rfl, rfl, rfl⟩)

/-- The answer the offering block gets is the seq the record is stored with (R52). -/
theorem offerSeq_eq {s : State} {seq : Nat} (h : offerSeq s = some seq) (o : Origin) (b : Body) :
    seq = s.journal.counter ∧ (offer o b s).journal.counter = s.journal.counter + 1 := by
  unfold offerSeq Config.journalCapacity at h
  rcases offerAs_cases s.time.partTime (quality s) o b s with ⟨hr, _⟩ | ⟨hr, hj, _⟩ | ⟨hr, hj, hl, e⟩ | ⟨hr, hj, hl, hp, _⟩ | ⟨hr, hj, hl, hp, e⟩
  · simp [hr] at h
  · simp [hr, hj] at h
  · rw [if_neg hr, hj] at h; simp only [hl, if_true, Option.some.injEq] at h
    exact ⟨h.symm, by unfold offer; rw [e]; rfl⟩
  · rw [if_neg hr, hj] at h; simp [hl, hp] at h
  · rw [if_neg hr, hj] at h; simp [hl, hp] at h
    exact ⟨h.symm, by unfold offer; rw [e]; simp [storeRecord, retireOldest_journal]⟩

end Sys2Proof.Machine
end

