-- ==== Sys2Proof/Laws/Ports.lean ====
section
/-! SUPPORT. What a frame does on a port that is ready for it: the one equation that every command row's proof begins with; and the events of
a tick taken from the head of the list. -/

set_option Elab.async false

namespace Sys2Proof.Machine

/-- The state in which a command's own act begins: the transaction is over and the session's deadline has restarted. -/
def taken (s : State) (p : Port) (width : Nat) : State := (endWrite p (width + Config.frameOverhead) s).modSession p Session.restarted

theorem port_taken (s : State) (p q : Port) (n : Nat) :
    (taken s p n).port q
      = if q = p then
          { s.port p with transaction := .idle, shifted := readyCount (s.port p) :: List.replicate (n + 7 - 1) 0#8, session := (s.session p).map Session.restarted }
        else s.port q := by
  unfold taken State.modSession endWrite
  simp only [port_setSession, port_setPort, session_setPort, if_true]
  split <;> rfl

theorem session_taken (s : State) (p q : Port) (n : Nat) :
    (taken s p n).session q = if q = p then (s.session p).map Session.restarted else s.session q := by
  unfold State.session; rw [port_taken]; split <;> rfl

theorem kept_taken (s : State) (p : Port) (n : Nat) : Unchanged [.ports] s (taken s p n) := fun b hb => by
  cases b <;> first | exact absurd (by decide) hb | rfl

@[simp] theorem taken_time (s : State) (p : Port) (n : Nat) : (taken s p n).time = s.time := rfl
@[simp] theorem taken_evPins (s : State) (p : Port) (n : Nat) : (taken s p n).evPins = s.evPins := rfl
@[simp] theorem taken_lines (s : State) (p : Port) (n : Nat) : (taken s p n).lines = s.lines := rfl
@[simp] theorem taken_journal (s : State) (p : Port) (n : Nat) : (taken s p n).journal = s.journal := rfl
@[simp] theorem taken_schedule (s : State) (p : Port) (n : Nat) : (taken s p n).schedule = s.schedule := rfl
@[simp] theorem taken_outs (s : State) (p : Port) (n : Nat) : (taken s p n).outs = s.outs := rfl
@[simp] theorem taken_claims (s : State) (p : Port) (n : Nat) : (taken s p n).claims = s.claims := rfl
@[simp] theorem taken_permit (s : State) (p : Port) (n : Nat) : (taken s p n).permit = s.permit := rfl
@[simp] theorem taken_conditions (s : State) (p : Port) (n : Nat) : (taken s p n).conditions = s.conditions := rfl
@[simp] theorem taken_rstn (s : State) (p : Port) (n : Nat) : (taken s p n).rstn = s.rstn := rfl
@[simp] theorem taken_tickWork (s : State) (p : Port) (n : Nat) : (taken s p n).tickWork = s.tickWork := rfl
@[simp] theorem taken_freeUses (s : State) (p : Port) (n : Nat) : (taken s p n).freeUses = s.freeUses := rfl
@[simp] theorem taken_pending (s : State) (p : Port) (n : Nat) : (taken s p n).pending = s.pending := rfl

/-- Where a transaction of this kind can end with its effect, its end is the effect and the levels formed again. -/
theorem endTransaction_effect {s : State} {p : Port} {kind : Transaction} (hq : quiet s = true) (hr : s.rstn ≠ .low)
    (hc : canEnd kind (s.port p) = true) (clocked : Nat) (effect : State → State) :
    endTransaction p kind clocked effect s = conclude (effect s) := by
  have hd : (s.port p).discarded = .idle := by simp only [canEnd, Bool.and_eq_true, beq_iff_eq] at hc; exact hc.1
  simp only [endTransaction, settle_of_quiet hq, hr, hd, ne_eq, not_true_eq_false, or_self, if_false, hc, if_true]

/-- A discarded transaction ends: nothing changes but that none is left, and what the port shifted out while RSTn is LOW. -/
theorem endTransaction_discarded {s : State} {p : Port} {kind : Transaction} (hq : quiet s = true) (hk : kind ≠ .idle)
    (hd : (s.port p).discarded = kind) (clocked : Nat) (effect : State → State) :
    endTransaction p kind clocked effect s
      = s.setPort p
          { s.port p with
            discarded := .idle, shifted := if s.rstn = .low then List.replicate clocked 0#8 else (s.port p).shifted } := by
  simp only [endTransaction, endWithoutEffect, settle_of_quiet hq, hd, hk, ne_eq, not_false_eq_true, or_true, if_true]

/-- A row of another kind than the discarded transaction changes nothing. -/
theorem endTransaction_other {s : State} {p : Port} {kind : Transaction} (hq : quiet s = true) (hi : (s.port p).discarded ≠ .idle)
    (hd : (s.port p).discarded ≠ kind) (clocked : Nat) (effect : State → State) : endTransaction p kind clocked effect s = s := by
  simp only [endTransaction, endWithoutEffect, settle_of_quiet hq, hi, hd, ne_eq, not_false_eq_true, or_true, or_self, if_true, if_false]

/-- A frame on a ready port: the common checks, the command's act, its answer, and the levels formed again. -/
theorem onFrame_ready {s : State} {p : Port} {n : Nat} (h : Ready s p) (tag : Byte) (c : FrameCommand) :
    onFrame p tag n c s = conclude (respond p tag (commonChecks p c (taken s p n)).2 (commonChecks p c (taken s p n)).1) := by
  have hr : s.rstn ≠ .low := by rw [h.rstn]; decide
  have hc : canEnd .commandWrite (s.port p) = true := by
    rcases h.free with ⟨d, e | e⟩ <;> simp [canEnd, d, e]
  have hq : ¬ Config.outstandingLimit ≤ ((endWrite p (n + Config.frameOverhead) s).port p).queue.length := by
    have := h.room
    simp only [endWrite, port_setPort_same, Config.outstandingLimit]; omega
  unfold onFrame
  rw [endTransaction_effect h.calm hr hc]
  unfold takeFrame
  rw [if_neg hq]
  rfl

theorem onCommand_ready {s : State} {p : Port} {n : Nat} (h : Ready s p) (tag : Byte) (f : TakenFrom) (act : Act) :
    onCommand p tag n f act s
      = conclude (respond p tag (commonChecks p (.known f act) (taken s p n)).2 (commonChecks p (.known f act) (taken s p n)).1) :=
  onFrame_ready h tag _

/-- From a LIVE session every command passes the common checks. -/
theorem commonChecks_live {s : State} {p : Port} {n : Nat} {x : Session} (h : OpenLive s p x) (f : TakenFrom) (act : Act) :
    commonChecks p (.known f act) (taken s p n) = act (taken s p n) := by
  have hs : (taken s p n).session p = some x.restarted := by rw [session_taken, if_pos rfl, h.isOpen]; rfl
  have hl : x.restarted.liveness ≠ .lapsed := by
    unfold Session.restarted
    split <;> simp [h.live]
  simp [commonChecks, hs, hl]

/-- From a LAPSED session a command that is taken there passes the common checks. -/
theorem commonChecks_anySession {s : State} {p : Port} {n : Nat} {x : Session} (h : s.session p = some x) (act : Act) :
    commonChecks p (.known .anySession act) (taken s p n) = act (taken s p n) := by
  have hs : (taken s p n).session p = some x.restarted := by rw [session_taken, if_pos rfl, h]; rfl
  simp [commonChecks, hs, TakenFrom.anySession]

/-- With no session, IDENTIFY and OPEN pass the common checks. -/
theorem commonChecks_anyPort {s : State} {p : Port} {n : Nat} (h : s.session p = none) (act : Act) :
    commonChecks p (.known .anyPort act) (taken s p n) = act (taken s p n) := by
  have hs : (taken s p n).session p = none := by rw [session_taken, if_pos rfl, h]; rfl
  simp [commonChecks, hs, TakenFrom.anyPort]

/-- A command from a LIVE session on a ready port. -/
theorem onCommand_live {s : State} {p : Port} {n : Nat} {x : Session} (hr : Ready s p) (hx : OpenLive s p x) (tag : Byte) (f : TakenFrom) (act : Act) :
    onCommand p tag n f act s = conclude (respond p tag (act (taken s p n)).2 (act (taken s p n)).1) := by
  rw [onCommand_ready hr, commonChecks_live hx]

/-- A session as the act of a command from it finds it. -/
theorem session_taken_live {s : State} {p : Port} {n : Nat} {x : Session} (hx : OpenLive s p x) : (taken s p n).session p = some x.restarted := by
  rw [session_taken, if_pos rfl, hx.isOpen]; rfl

theorem withSession_taken {s : State} {p : Port} {n : Nat} {x : Session} (hx : s.session p = some x) (f : Session → Act) :
    withSession p f (taken s p n) = f x.restarted (taken s p n) := by
  have hs : (taken s p n).session p = some x.restarted := by rw [session_taken, if_pos rfl, hx]; rfl
  simp [withSession, hs]

/-! ### Ports after an answer -/

theorem respond_port (p q : Port) (tag : Byte) (r : Reply) (s : State) :
    (respond p tag r s).port q
      = if q = p then { s.port p with queue := (s.port p).queue ++ [{ tag := tag, status := r.status, payload := r.payload }] } else s.port q :=
  port_setPort _ _ _ _

theorem respond_unchanged (p : Port) (tag : Byte) (r : Reply) (s : State) : Unchanged [.ports] s (respond p tag r s) := fun b hb => by
  cases b <;> first | exact absurd (by decide) hb | rfl

@[simp] theorem respond_rstn (p : Port) (tag : Byte) (r : Reply) (s : State) : (respond p tag r s).rstn = s.rstn := rfl
@[simp] theorem respond_tickWork (p : Port) (tag : Byte) (r : Reply) (s : State) : (respond p tag r s).tickWork = s.tickWork := rfl
@[simp] theorem respond_journal (p : Port) (tag : Byte) (r : Reply) (s : State) : (respond p tag r s).journal = s.journal := rfl
@[simp] theorem respond_outs (p : Port) (tag : Byte) (r : Reply) (s : State) : (respond p tag r s).outs = s.outs := rfl
@[simp] theorem respond_permit (p : Port) (tag : Byte) (r : Reply) (s : State) : (respond p tag r s).permit = s.permit := rfl

theorem conclude_port (s : State) (p : Port) : (conclude s).port p = { s.port p with atn := atnLevel (conclude s) p } := by
  have key : ∀ u : State, (formAtn u).port p = { u.port p with atn := atnLevel (formAtn u) p } := fun u => by
    rw [atnLevel_formAtn]; exact PerPort.get_mapIdx _ _ _
  unfold conclude
  rw [key]
  split <;> rfl

@[simp] theorem conclude_session (s : State) (p : Port) : (conclude s).session p = s.session p := by
  unfold State.session; rw [conclude_port]

/-- Drives that stand formed stay so when neither the lines nor the permit moved. -/
theorem conclude_outs_same {s t : State} (h : LevelsFormed s) (hr : s.rstn = .high) (ht : s.tickWork = []) (ho : t.outs = s.outs)
    (hp : t.permit.state = s.permit.state) : (conclude t).outs = s.outs := by
  have e : s.outs.map (fun o => o.formed s.permit.state) = s.outs := congrArg State.outs (h.2 hr (tickOpen_of_nil ht))
  rw [conclude_outs, ho, hp]
  split
  · exact e
  · rfl

/-- Concluding a state that differs from one with formed levels in its ports only, on port `p` only, and not in its session. -/
theorem conclude_setPort {s : State} (h : LevelsFormed s) (p : Port) (x : PortState) (hs : atnLevel (s.setPort p x) p = x.atn) :
    conclude (s.setPort p x) = s.setPort p x := by
  apply conclude_eq_self
  refine ⟨?_, fun hr ht => ?_⟩
  · have hp : (formAtn (s.setPort p x)).ports = (s.setPort p x).ports := by
      apply PerPort.ext_get
      intro q
      have h0 : (formAtn s).port q = s.port q := by rw [h.1]
      have h1 : (formAtn s).port q = { s.port q with atn := atnLevel s q } := PerPort.get_mapIdx _ _ _
      have h2 : { s.port q with atn := atnLevel s q } = s.port q := h1.symm.trans h0
      have h3 : (formAtn (s.setPort p x)).ports.get q = { (s.setPort p x).port q with atn := atnLevel (s.setPort p x) q } :=
        PerPort.get_mapIdx _ _ _
      rw [h3]
      change _ = (s.setPort p x).port q
      by_cases hq : q = p
      · subst hq; rw [hs, port_setPort_same]
      · have e : (s.setPort p x).session q = s.session q := by rw [session_setPort, if_neg hq]
        have ej : (s.setPort p x).journal = s.journal := rfl
        rw [atnLevel_congr ej e, port_setPort, if_neg hq, h2]
    exact congrArg (fun ps => { s.setPort p x with ports := ps }) hp
  · have := h.2 hr ht
    exact congrArg (fun t : State => { s.setPort p x with outs := t.outs }) this

/-- A session's level on the ATN line depends on its notices, mask and reader only. -/
theorem atnLevel_setPort_congr (s : State) (p : Port) (x : PortState)
    (h : ∀ y, s.session p = some y → ∃ z, x.session = some z ∧ z.notices = y.notices ∧ z.mask = y.mask ∧ z.reader = y.reader)
    (hn : s.session p = none → x.session = none) : atnLevel (s.setPort p x) p = atnLevel s p := by
  unfold atnLevel
  rw [session_setPort, if_pos rfl]
  cases hs : s.session p with
  | none => rw [hn hs]
  | some y =>
    obtain ⟨z, hz, h1, h2, h3⟩ := h y hs
    rw [hz]
    have : pendingSet (s.setPort p x) z = pendingSet s y := by
      unfold pendingSet journalLevel holdsMatch; rw [h1, h3]; rfl
    simp only [this, h2]

/-- Concluding a change of a port's link alone. -/
theorem conclude_link {s : State} (h : LevelsFormed s) (p : Port) (x : PortState) (hx : x.session = s.session p)
    (ha : x.atn = (s.port p).atn) : conclude (s.setPort p x) = s.setPort p x := by
  apply conclude_setPort h
  rw [atnLevel_setPort_congr]
  · have h1 : (formAtn s).port p = { s.port p with atn := atnLevel s p } := PerPort.get_mapIdx _ _ _
    rw [h.1] at h1
    rw [ha]; exact (congrArg PortState.atn h1).symm
  · intro y hy; exact ⟨y, by rw [hx, hy], rfl, rfl, rfl⟩
  · intro hn; rw [hx, hn]

/-- A command that is answered and changes nothing leaves exactly `answeredFrame`. -/
theorem conclude_respond_taken {s : State} {p : Port} {n : Nat} (h : LevelsFormed s) (tag : Byte) (r : Reply) :
    conclude (respond p tag r (taken s p n)) = answeredFrame s p (n + 7) tag r.status r.payload := by
  have e : respond p tag r (taken s p n) = answeredFrame s p (n + 7) tag r.status r.payload := by
    have hp : (respond p tag r (taken s p n)).ports = (answeredFrame s p (n + 7) tag r.status r.payload).ports := by
      apply PerPort.ext_get
      intro q
      change (respond p tag r (taken s p n)).port q = (answeredFrame s p (n + 7) tag r.status r.payload).port q
      rw [respond_port, port_taken, port_taken, if_pos rfl]
      unfold answeredFrame
      rw [port_setPort]
      split <;> rfl
    exact congrArg (fun ps => { s with ports := ps }) hp
  rw [e]
  apply conclude_setPort h
  rw [atnLevel_setPort_congr]
  · have h1 : (formAtn s).port p = { s.port p with atn := atnLevel s p } := PerPort.get_mapIdx _ _ _
    rw [h.1] at h1
    exact (congrArg PortState.atn h1).symm
  · intro y hy
    refine ⟨y.restarted, by simp [answeredPort, hy], ?_⟩
    unfold Session.restarted
    split <;> exact ⟨rfl, rfl, rfl⟩
  · intro hn; simp [answeredPort, hn]

/-- A refusal, or any answer of an act that changes nothing, from a LIVE session. -/
theorem onCommand_answeredOnly {s : State} {p : Port} {n : Nat} {x : Session} (hr : Ready s p) (hx : OpenLive s p x) (hl : LevelsFormed s) (tag : Byte)
    (f : TakenFrom) (act : Act) (r : Reply) (ha : act (taken s p n) = (taken s p n, r)) :
    onCommand p tag n f act s = answeredFrame s p (n + 7) tag r.status r.payload := by
  rw [onCommand_live hr hx, ha]
  exact conclude_respond_taken hl tag r

/-- The state after an answered row is that after the frame which carries it. -/
theorem answeredOnly_eq {i : Instr} {p : Port} {tag command : Byte} {sent : List Byte} (h : frameFields? i = some (p, tag, command, sent))
    (s : State) (st : Status) (payload : List Byte) : answeredOnly s i st payload = answeredFrame s p (sent.length + 7) tag st payload := by
  unfold answeredOnly; rw [h]

end Sys2Proof.Machine
end

