-- ==== Sys2Proof/Laws/Commands.lean ====
section
/-! SUPPORT. One lemma for each command's act: what it can change, and that a refusal changes nothing and carries no payload (R180). From
them, the same of the command that any frame holds. -/

set_option Elab.async false

namespace Sys2Proof.Machine

/-- What holds of every act's result: only the part's own fields changed, no link did, and a refusal changed nothing and carries no
payload. -/
def Lawful (s : State) (r : State × Reply) : Prop :=
  Kept ownBlocks s r.1 ∧ (r.2.status.isRefusal = false ∨ (r.1 = s ∧ r.2.payload = []))

theorem lawful_refuse (s : State) (st : Status) : Lawful s (s, refuse st) := ⟨.refl _ _, .inr ⟨rfl, rfl⟩⟩

theorem lawful_answer {s t : State} {r : Reply} (h : Kept ownBlocks s t) (hr : r.status.isRefusal = false) : Lawful s (t, r) := ⟨h, .inl hr⟩

/-- A query: it answers and changes nothing. -/
theorem lawful_query (s : State) (payload : List Byte) : Lawful s (s, okay payload) := lawful_answer (.refl _ _) rfl

theorem lawful_withSession {p : Port} {f : Session → Act} {s : State} (h : ∀ x, s.session p = some x → Lawful s (f x s)) :
    Lawful s (withSession p f s) := by
  unfold withSession
  split
  · rename_i x hx; exact h x hx
  · exact lawful_refuse _ _

/-- What holds of every command's act. -/
def LawfulAct (act : Act) : Prop := ∀ s, Lawful s (act s)

/-! ### Sessions -/

theorem lawful_identify (p : Port) (s : State) : Lawful s (takeIdentify p s) := lawful_query s _

theorem lawful_open (p : Port) (mode : Byte) (f : Filter) (start : Byte) (w : BitVec 16) (s : State) :
    Lawful s (takeOpen p mode f start w s) := by
  unfold takeOpen
  repeat' split
  all_goals first
    | exact lawful_refuse _ _
    | exact lawful_answer (Kept.after (kept_offer _ _ _) <| Kept.after (kept_setSession s _ _) (.refl _ _)) rfl

theorem lawful_close (p : Port) (s : State) : Lawful s (takeClose p s) :=
  lawful_withSession fun _ _ => lawful_answer (Kept.after (kept_closeSessionOn p .command s) (.refl _ _)) rfl

theorem lawful_keepalive (p : Port) (s : State) : Lawful s (takeKeepalive p s) := lawful_withSession fun _ _ => lawful_query s _

theorem lawful_renew (p : Port) (s : State) : Lawful s (takeRenew p s) := by
  refine lawful_withSession fun x _ => ?_
  cases x.liveness
  · exact lawful_query s _
  · exact lawful_answer (Kept.after (kept_offer _ _ _) <| Kept.after (kept_setSession s _ _) (.refl _ _)) rfl

theorem lawful_status (p : Port) (s : State) : Lawful s (takeStatus p s) :=
  lawful_withSession fun _ _ => lawful_answer (Kept.after (kept_setSession s _ _) (.refl _ _)) rfl

theorem lawful_setAttentionMask (p : Port) (m : Byte) (s : State) : Lawful s (takeSetAttentionMask p m s) := by
  refine lawful_withSession fun x _ => ?_
  split
  · exact lawful_answer (Kept.after (kept_setSession s _ _) (.refl _ _)) rfl
  · exact lawful_refuse _ _

/-! ### Time and inputs -/

theorem lawful_getTime (p : Port) (s : State) : Lawful s (takeGetTime p s) := lawful_withSession fun _ _ => lawful_query s _

theorem kept_reportReplaced (s : State) : Kept offerBlocks s (reportReplaced s) := by
  unfold reportReplaced
  split
  · exact .refl _ _
  · exact kept_offer _ _ _

theorem lawful_stepTime (p : Port) (o : BitVec 64) (m : Byte) (s : State) : Lawful s (takeStepTime p o m s) := by
  unfold takeStepTime
  repeat' split
  all_goals first
    | exact lawful_refuse _ _
    | exact lawful_answer (Kept.after (kept_setTime _ _) <| Kept.after (kept_reportReplaced s) (.refl _ _)) rfl

theorem lawful_slewTime (p : Port) (a : BitVec 32) (r : BitVec 16) (s : State) : Lawful s (takeSlewTime p a r s) := by
  unfold takeSlewTime
  repeat' split
  all_goals first
    | exact lawful_refuse _ _
    | exact lawful_answer (Kept.after (kept_offer _ _ _) <| Kept.after (kept_setTime _ _) <| Kept.after (kept_abandonSlew s) (.refl _ _)) rfl

theorem lawful_setTrim (p : Port) (x : BitVec 32) (s : State) : Lawful s (takeSetTrim p x s) := by
  unfold takeSetTrim
  repeat' split
  all_goals first
    | exact lawful_refuse _ _
    | exact lawful_answer (Kept.after (kept_offer _ _ _) <| Kept.after (kept_setTime s _) (.refl _ _)) rfl

theorem lawful_readStrobe (p : Port) (s : State) : Lawful s (takeReadStrobe p s) := by
  unfold takeReadStrobe
  dsimp only
  split
  · exact lawful_answer (Kept.after (kept_setTime s _) (.refl _ _)) rfl
  · exact lawful_answer (.refl _ _) rfl

theorem lawful_readInputs (p : Port) (s : State) : Lawful s (takeReadInputs p s) := lawful_withSession fun _ _ => lawful_query s _

/-! ### The journal -/

theorem lawful_postNote (p : Port) (n : List Byte) (s : State) : Lawful s (takePostNote p n s) := by
  unfold takePostNote
  split
  · exact lawful_answer (Kept.after (kept_offer _ _ s) (.refl _ _)) rfl
  · exact lawful_answer (Kept.after (kept_offer _ _ s) (.refl _ _)) rfl

theorem lawful_queryJournal (p : Port) (s : State) : Lawful s (takeQueryJournal p s) := lawful_withSession fun _ _ => lawful_query s _

theorem lawful_readJournal (p : Port) (n c : Byte) (s : State) : Lawful s (takeReadJournal p n c s) := by
  refine lawful_withSession fun x _ => ?_
  dsimp only
  split
  · exact lawful_refuse _ _
  · split
    · exact lawful_refuse _ _
    · refine lawful_answer ?_ rfl
      split
      · exact Kept.after (kept_reexamine _) <| Kept.after (kept_setSession s _ _) (.refl _ _)
      · exact Kept.after (kept_setSession s _ _) (.refl _ _)

theorem lawful_ackJournal (p : Port) (u : BitVec 64) (s : State) : Lawful s (takeAckJournal p u s) := by
  refine lawful_withSession fun x _ => ?_
  repeat' split
  · exact lawful_refuse _ _
  · exact lawful_answer (Kept.after (kept_reexamine _) <| Kept.after (kept_setSession s _ _) (.refl _ _)) rfl
  · exact lawful_answer (Kept.after (kept_reexamine s) (.refl _ _)) rfl

theorem lawful_seekJournal (p : Port) (w : Byte) (q : BitVec 64) (s : State) : Lawful s (takeSeekJournal p w q s) := by
  refine lawful_withSession fun x _ => ?_
  split
  · exact lawful_answer (Kept.after (kept_reexamine _) <| Kept.after (kept_setSession s _ _) (.refl _ _)) rfl
  · exact lawful_refuse _ _

theorem lawful_setFilter (p : Port) (f : Filter) (s : State) : Lawful s (takeSetFilter p f s) := by
  refine lawful_withSession fun x _ => ?_
  split
  · exact lawful_answer (Kept.after (kept_reexamine _) <| Kept.after (kept_setSession s _ _) (.refl _ _)) rfl
  · exact lawful_refuse _ _

theorem lawful_setReaderMode (p : Port) (m : Byte) (s : State) : Lawful s (takeSetReaderMode p m s) := by
  refine lawful_withSession fun x _ => ?_
  split
  · exact lawful_answer (Kept.after (kept_reexamine _) <| Kept.after (kept_setSession s _ _) (.refl _ _)) rfl
  · exact lawful_refuse _ _

theorem lawful_queryReader (p : Port) (s : State) : Lawful s (takeQueryReader p s) := lawful_withSession fun _ _ => lawful_query s _

/-! ### The schedule -/

theorem kept_placeEntry (i : Fin 64) (e : Entry) (s : State) : Kept [.schedule] s (placeEntry i e s) :=
  .of_ports (fun b hb => by cases b <;> first | exact absurd (by decide) hb | rfl) rfl

theorem kept_afterAdmission (i : Fin 64) (e : Entry) (s : State) : Kept entryBlocks s (afterAdmission i e s) := by
  unfold afterAdmission
  split_ifs
  · exact .refl _ _
  · exact kept_closeOccurrence _ _
  · exact kept_takeLate _ _ _
  · exact .refl _ _

theorem lawful_addEntry (p : Port) (d : Descriptor) (s : State) : Lawful s (takeAddEntry p d s) := by
  unfold takeAddEntry
  repeat' split
  all_goals first
    | exact lawful_refuse _ _
    | exact lawful_answer (Kept.after (kept_afterAdmission _ _ _) <| Kept.after (kept_placeEntry _ _ s) (.refl _ _)) rfl

theorem lawful_cancelEntry (p : Port) (i g : Byte) (s : State) : Lawful s (takeCancelEntry p i g s) := by
  unfold takeCancelEntry
  repeat' split
  all_goals first
    | exact lawful_refuse _ _
    | exact lawful_answer (Kept.after (kept_cancel _ s _) (.refl _ _)) rfl

theorem lawful_queryEntry (i g : Byte) (s : State) : Lawful s (takeQueryEntry i g s) := by
  unfold takeQueryEntry
  repeat' split
  all_goals first
    | exact lawful_refuse _ _
    | exact lawful_query s _

theorem lawful_listEntries (p : Port) (sc f : Byte) (s : State) : Lawful s (takeListEntries p sc f s) := by
  unfold takeListEntries
  repeat' split
  all_goals first
    | exact lawful_refuse _ _
    | exact lawful_query s _

/-! ### Lines, claims and configuration -/

theorem lawful_setLine (p : Port) (l a v : Byte) (w : BitVec 24) (s : State) : Lawful s (takeSetLine p l a v w s) := by
  unfold takeSetLine
  repeat' split
  all_goals first
    | exact lawful_refuse _ _
    | exact lawful_answer (Kept.after (kept_setOut s _ _) (.refl _ _)) rfl

theorem lawful_readOutputs (p : Port) (s : State) : Lawful s (takeReadOutputs p s) := lawful_withSession fun _ _ => lawful_query s _

theorem lawful_claim (p : Port) (r w : Byte) (s : State) : Lawful s (takeClaim p r w s) := by
  unfold takeClaim
  split
  · split
    · exact lawful_answer (Kept.after (kept_offer _ _ _) <| Kept.after (kept_setClaim s _ _) (.refl _ _)) rfl
    · split
      · exact lawful_query s _
      · unfold claimHeld
        dsimp only
        repeat' split
        · exact lawful_answer (.refl _ _) rfl
        · exact lawful_answer (Kept.after (kept_setClaim s _ _) (.refl _ _)) rfl
        · exact lawful_answer (.refl _ _) rfl
  · exact lawful_refuse _ _

theorem lawful_release (p : Port) (r : Byte) (s : State) : Lawful s (takeRelease p r s) := by
  unfold takeRelease
  repeat' split
  all_goals first
    | exact lawful_refuse _ _
    | exact lawful_answer (Kept.after (kept_handOver _ _ _ s) (.refl _ _)) rfl

theorem lawful_withdraw (p : Port) (r : Byte) (s : State) : Lawful s (takeWithdraw p r s) := by
  unfold takeWithdraw
  dsimp only
  repeat' split
  all_goals first
    | exact lawful_refuse _ _
    | exact lawful_answer (Kept.after (kept_setClaim s _ _) (.refl _ _)) rfl

theorem lawful_queryClaims (p : Port) (s : State) : Lawful s (takeQueryClaims p s) := lawful_withSession fun _ _ => lawful_query s _

/-- A CONFIGURE is lawful where what the write does is within the part's own fields. -/
theorem lawful_configure {ι α : Type} {x : Parameter ι α} (h : ∀ i v s, Kept ownBlocks s (x.store i v s)) (p : Port) (inst : Byte)
    (value : BitVec 32) (s : State) : Lawful s (x.configure p inst value s) := by
  unfold Parameter.configure
  repeat' split
  all_goals first
    | exact lawful_refuse _ _
    | exact lawful_answer ((Kept.after (kept_offer _ _ s) (.refl _ _)).trans (h _ _ _)) rfl

theorem kept_setSchedule (s : State) (x : Schedule) : Kept [.schedule] s { s with schedule := x } :=
  .of_ports (fun b hb => by cases b <;> first | exact absurd (by decide) hb | rfl) rfl

theorem kept_storeSafeLevel (k : Fin 8) (v : Level) (s : State) : Kept [.outs] s (storeSafeLevel k v s) := by
  unfold storeSafeLevel
  dsimp only
  split_ifs
  · exact .refl _ _
  · exact (kept_setOut s _ _).trans (kept_handLevel _ _ _)
  · exact kept_setOut s _ _

theorem kept_storeGatedFlag (k : Fin 8) (v : Bool) (s : State) : Kept entryBlocks s (storeGatedFlag k v s) := by
  unfold storeGatedFlag
  dsimp only
  split_ifs
  · exact .refl _ _
  · exact Kept.after (kept_handLevel _ _ _) <| Kept.after (kept_setOut _ _ _) <| Kept.after (kept_cancelWhere _ _ s) (.refl _ _)
  · exact Kept.after (kept_setOut s _ _) (.refl _ _)

theorem kept_storeConditionAction (c : Condition) (v : ConditionAction) (s : State) : Kept permitBlocks s (storeConditionAction c v s) := by
  unfold storeConditionAction
  split
  · exact .refl _ _
  · exact Kept.after (kept_takePartVote _) <| Kept.after (kept_formPartVoteAgain _) <| Kept.after (kept_setCondition s _ _) (.refl _ _)

theorem kept_storeLineConfig (n : Fin 16) (f : LineConfig → LineConfig) (s : State) : Kept ownBlocks s (storeLineConfig n f s) :=
  Kept.after (kept_modLine _ _ s) (.refl _ _)

theorem lawful_configureRefHz (p : Port) (n : Byte) (v : BitVec 32) (s : State) : Lawful s (takeConfigureRefHz p n v s) :=
  lawful_configure (fun _ _ s => Kept.after (kept_setTime s _) (.refl _ _)) p n v s

theorem lawful_configureEnabled (p : Port) (n : Byte) (v : BitVec 32) (s : State) : Lawful s (takeConfigureEnabled p n v s) :=
  lawful_configure (fun _ _ s => by unfold paramEnabled; dsimp only; exact kept_storeLineConfig _ _ s) p n v s

theorem lawful_configureEdgeSelect (p : Port) (n : Byte) (v : BitVec 32) (s : State) : Lawful s (takeConfigureEdgeSelect p n v s) :=
  lawful_configure (fun _ _ s => by unfold paramEdgeSelect; dsimp only; exact kept_storeLineConfig _ _ s) p n v s

theorem lawful_configureFilterLength (p : Port) (n : Byte) (v : BitVec 32) (s : State) : Lawful s (takeConfigureFilterLength p n v s) :=
  lawful_configure (fun _ _ s => by unfold paramFilterLength; dsimp only; exact kept_storeLineConfig _ _ s) p n v s

theorem lawful_configureChatterBudget (p : Port) (n : Byte) (v : BitVec 32) (s : State) : Lawful s (takeConfigureChatterBudget p n v s) :=
  lawful_configure (fun _ _ s => by unfold paramChatterBudget; dsimp only; exact kept_storeLineConfig _ _ s) p n v s

theorem lawful_configureQuota (p : Port) (n : Byte) (v : BitVec 32) (s : State) : Lawful s (takeConfigureQuota p n v s) :=
  lawful_configure (fun _ _ s => Kept.after (kept_setSchedule s _) (.refl _ _)) p n v s

theorem lawful_configureLateTolerance (p : Port) (n : Byte) (v : BitVec 32) (s : State) : Lawful s (takeConfigureLateTolerance p n v s) :=
  lawful_configure (fun _ _ s => Kept.after (kept_setSchedule s _) (.refl _ _)) p n v s

theorem lawful_configureRestLevel (p : Port) (n : Byte) (v : BitVec 32) (s : State) : Lawful s (takeConfigureRestLevel p n v s) :=
  lawful_configure (fun _ _ s => Kept.after (kept_setOut s _ _) (.refl _ _)) p n v s

theorem lawful_configureSafeLevel (p : Port) (n : Byte) (v : BitVec 32) (s : State) : Lawful s (takeConfigureSafeLevel p n v s) :=
  lawful_configure (fun _ _ s => Kept.after (kept_storeSafeLevel _ _ s) (.refl _ _)) p n v s

theorem lawful_configureGatedFlag (p : Port) (n : Byte) (v : BitVec 32) (s : State) : Lawful s (takeConfigureGatedFlag p n v s) :=
  lawful_configure (fun _ _ s => Kept.after (kept_storeGatedFlag _ _ s) (.refl _ _)) p n v s

theorem lawful_configureStartDelay (p : Port) (n : Byte) (v : BitVec 32) (s : State) : Lawful s (takeConfigureStartDelay p n v s) :=
  lawful_configure (fun _ _ s => Kept.after (kept_setPermit s _) (.refl _ _)) p n v s

theorem lawful_configureConditionAction (p : Port) (n : Byte) (v : BitVec 32) (s : State) :
    Lawful s (takeConfigureConditionAction p n v s) :=
  lawful_configure (fun _ _ s => Kept.after (kept_storeConditionAction _ _ s) (.refl _ _)) p n v s

theorem lawful_readConfig (x : BitVec 16) (s : State) : Lawful s (takeReadConfig x s) := by
  unfold takeReadConfig
  split
  · exact lawful_query s _
  · exact lawful_refuse _ _

/-! ### Permit and conditions -/

theorem lawful_enroll (p : Port) (v : Option Byte) (s : State) : Lawful s (takeEnroll p v s) := by
  unfold takeEnroll
  repeat' split
  all_goals first
    | exact lawful_refuse _ _
    | exact lawful_answer (Kept.after (kept_setElector _ _ _ _ s) (.refl _ _)) rfl

theorem lawful_leave (p : Port) (s : State) : Lawful s (takeLeave p s) := by
  unfold takeLeave
  split
  · exact lawful_answer (Kept.after (kept_setElector _ _ _ _ s) (.refl _ _)) rfl
  · exact lawful_refuse _ _

theorem lawful_vote (p : Port) (v : Byte) (s : State) : Lawful s (takeVote p v s) := by
  unfold takeVote
  repeat' split
  all_goals first
    | exact lawful_refuse _ _
    | exact lawful_answer (Kept.after (kept_setElector _ _ _ _ s) (.refl _ _)) rfl

theorem lawful_queryPermit (p : Port) (s : State) : Lawful s (takeQueryPermit p s) := lawful_withSession fun _ _ => lawful_query s _

theorem kept_clearLatch (p : Port) (c : Condition) (s : State) : Kept permitBlocks s (clearLatch p c s) :=
  Kept.after (kept_takePartVote _) <| Kept.after (kept_formPartVoteAgain _) <| Kept.after (kept_offer _ _ _) <|
    Kept.after (kept_setCondition s _ _) (.refl _ _)

theorem lawful_clearCondition (p : Port) (c : Byte) (s : State) : Lawful s (takeClearCondition p c s) := by
  unfold takeClearCondition
  repeat' split
  all_goals first
    | exact lawful_refuse _ _
    | exact lawful_query s _
    | exact lawful_answer (Kept.after (kept_clearLatch _ _ s) (.refl _ _)) rfl

theorem lawful_queryConditions (p : Port) (s : State) : Lawful s (takeQueryConditions p s) := lawful_withSession fun _ _ => lawful_query s _

/-! ### The command of any frame -/

/-- What holds of the command a frame holds, whatever the checks say. -/
def LawfulCommand (c : FrameCommand) : Prop :=
  match c with
  | .known _ act => LawfulAct act
  | _ => True

theorem lawfulCommand_ofLength {n : Nat} {x : List Byte} {f : TakenFrom} {act : Act} (h : LawfulAct act) :
    LawfulCommand (ofLength n x f act) := by
  unfold ofLength
  split
  · exact h
  · trivial

theorem lawful_configureAct (p : Port) (g n : Byte) (v : BitVec 32) : LawfulAct (configureAct p g n v) := by
  unfold configureAct
  split
  · exact lawful_configureRefHz p n v
  · exact lawful_configureEnabled p n v
  · exact lawful_configureEdgeSelect p n v
  · exact lawful_configureFilterLength p n v
  · exact lawful_configureChatterBudget p n v
  · exact lawful_configureQuota p n v
  · exact lawful_configureLateTolerance p n v
  · exact lawful_configureRestLevel p n v
  · exact lawful_configureSafeLevel p n v
  · exact lawful_configureGatedFlag p n v
  · exact lawful_configureStartDelay p n v
  · exact lawful_configureConditionAction p n v
  · intro s
    unfold configureNothing
    split <;> exact lawful_refuse _ _

theorem lawfulCommand_postNote (p : Port) (n : List Byte) : LawfulCommand (postNoteCommand p n) := by
  unfold postNoteCommand
  split
  · exact lawful_postNote p n
  · trivial

/-- Every command that a frame can hold is lawful. -/
theorem lawfulCommand_frame (p : Port) (command : Byte) (x : List Byte) : LawfulCommand (frameCommand p command x) := by
  unfold frameCommand
  split
  · exact lawfulCommand_ofLength (lawful_identify p)
  · exact lawfulCommand_ofLength (lawful_open p _ _ _ _)
  · exact lawfulCommand_ofLength (lawful_close p)
  · exact lawfulCommand_ofLength (lawful_keepalive p)
  · exact lawfulCommand_ofLength (lawful_renew p)
  · exact lawfulCommand_ofLength (lawful_status p)
  · exact lawfulCommand_ofLength (lawful_setAttentionMask p _)
  · exact lawfulCommand_ofLength (lawful_getTime p)
  · exact lawfulCommand_ofLength (lawful_stepTime p _ _)
  · exact lawfulCommand_ofLength (lawful_slewTime p _ _)
  · exact lawfulCommand_ofLength (lawful_setTrim p _)
  · exact lawfulCommand_ofLength (lawful_readStrobe p)
  · exact lawfulCommand_ofLength (lawful_readInputs p)
  · exact lawfulCommand_postNote p x
  · exact lawfulCommand_ofLength (lawful_queryJournal p)
  · exact lawfulCommand_ofLength (lawful_readJournal p _ _)
  · exact lawfulCommand_ofLength (lawful_ackJournal p _)
  · exact lawfulCommand_ofLength (lawful_seekJournal p _ _)
  · exact lawfulCommand_ofLength (lawful_setFilter p _)
  · exact lawfulCommand_ofLength (lawful_setReaderMode p _)
  · exact lawfulCommand_ofLength (lawful_queryReader p)
  · exact lawfulCommand_ofLength (lawful_addEntry p _)
  · exact lawfulCommand_ofLength (lawful_cancelEntry p _ _)
  · exact lawfulCommand_ofLength (lawful_queryEntry _ _)
  · exact lawfulCommand_ofLength (lawful_listEntries p _ _)
  · exact lawfulCommand_ofLength (lawful_setLine p _ _ _ _)
  · exact lawfulCommand_ofLength (lawful_readOutputs p)
  · exact lawfulCommand_ofLength (lawful_claim p _ _)
  · exact lawfulCommand_ofLength (lawful_release p _)
  · exact lawfulCommand_ofLength (lawful_withdraw p _)
  · exact lawfulCommand_ofLength (lawful_queryClaims p)
  · exact lawfulCommand_ofLength (lawful_configureAct p _ _ _)
  · exact lawfulCommand_ofLength (lawful_readConfig _)
  · unfold enrollCommand
    split
    · exact lawful_enroll p _
    · exact lawful_enroll p _
    · trivial
  · exact lawfulCommand_ofLength (lawful_leave p)
  · exact lawfulCommand_ofLength (lawful_vote p _)
  · exact lawfulCommand_ofLength (lawful_queryPermit p)
  · exact lawfulCommand_ofLength (lawful_clearCondition p _)
  · exact lawfulCommand_ofLength (lawful_queryConditions p)
  · trivial

/-- The common checks keep a lawful command lawful. -/
theorem lawful_commonChecks {c : FrameCommand} (h : LawfulCommand c) (p : Port) (s : State) : Lawful s (commonChecks p c s) := by
  unfold commonChecks
  split
  · exact lawful_refuse _ _
  · exact lawful_refuse _ _
  · repeat' split
    all_goals first
      | exact lawful_refuse _ _
      | exact h s

end Sys2Proof.Machine
end

