-- ==== Sys2Proof/Laws/Events.lean ====
section
/-! SUPPORT. What an event row does when its event is due, what is due next, and the permit unit after an operation of its own. -/

set_option Elab.async false

namespace Sys2Proof.Machine

/-! ### Events of a tick -/

/-- The row of an event of a tick takes that event. -/
theorem exec_tickRow (e : TickEvent) (s : State) : exec (tickRow e) s = .next (takeTickEvent e s) := by cases e <;> rfl

/-- An event that is not listed changes nothing. -/
theorem takeTickEvent_not_due {s : State} {e : TickEvent} (h : e ∉ s.tickWork) : takeTickEvent e s = s := by
  unfold takeTickEvent; rw [if_neg h]

/-- Draining below a rank stops at once where the next event is not below it. -/
theorem drain_of_not_below {s : State} {e : DueEvent} (h : nextEvent s = some e) {limit : Nat} (hl : limit ≤ e.rank) (fuel : Nat) :
    drain limit fuel s = s := by
  cases fuel with
  | zero => rfl
  | succ n => simp [drain, h, Nat.not_lt.mpr hl]

/-- With neither the rest of the schedule's tick, nor a changed part vote, nor a raise to be taken, nothing comes before an event of a
tick. -/
theorem drainBelow_of_clear {s : State} (h1 : unfinished? s = none) (h2 : s.conditions.partVote = s.permit.partVote)
    (h3 : s.conditions.raises = []) : drainBelow 3 s = s := by
  unfold drainBelow
  cases hn : nextEvent s with
  | none => exact drain_of_none hn _ _
  | some e =>
    refine drain_of_not_below hn ?_ _
    simp only [nextEvent, h1, h2, h3, ne_eq, not_true_eq_false, if_false] at hn
    split at hn
    · cases hn; exact Nat.le_refl 3
    · split_ifs at hn <;> (cases hn; decide)

/-- An event that is due, with nothing that the rules place before it, is carried out at once; the others stay listed. -/
theorem takeTickEvent_due {s : State} {e : TickEvent} (h : Due s e) : takeTickEvent e s = conclude (doTickEvent (s.without e) e) := by
  have hf : (s.tickWork.takeWhile (· ≠ e)).filter (fun x => x.comesBefore e) = [] :=
    List.filter_eq_nil_iff.mpr fun x hx => by simp [h.first x hx]
  unfold takeTickEvent
  rw [if_pos h.listed, hf, List.foldl_nil]
  unfold takeListed
  rcases h.clear with ⟨h1, h2⟩ | ⟨h1, h2, h3⟩
  · simp only [h1, h2, Bool.and_self, if_true, h.listed]
  · simp only [h1, Option.isSome_none, Bool.false_and, Bool.false_eq_true, if_false, drainBelow_of_clear h1 h2 h3, h.listed, if_true]

/-- The row of an event that is due carries it out and concludes it. -/
theorem exec_tickRow_due {s : State} {e : TickEvent} (h : Due s e) :
    exec (tickRow e) s = .next (conclude (doTickEvent (s.without e) e)) := by rw [exec_tickRow, takeTickEvent_due h]

/-! ### What is due next -/

/-- A tick is due: nothing of rank below it is. -/
theorem nextEvent_tick {s : State} (h : nextEvent s = some .tick) :
    s.tickWork = [] ∧ s.conditions.partVote = s.permit.partVote ∧ s.conditions.raises = [] ∧ s.time.stepDue = false ∧ slewIsDone s = false
      ∧ 1 ≤ s.time.acc := by
  unfold nextEvent at h
  split at h
  · cases h
  · cases ht : s.tickWork with
    | cons e l =>
      rw [ht] at h
      dsimp only at h
      split_ifs at h
      all_goals cases h
    | nil =>
      rw [ht] at h
      dsimp only at h
      split_ifs at h with h1 h2 h3 h4 h5
      all_goals first | (cases h; done) | skip
      simp only [not_not, Bool.not_eq_true] at h1 h2 h3 h4
      exact ⟨rfl, h1, h2, h3, h4, h5⟩

/-! ### The permit unit -/

/-- What a change of permit state leaves in the permit unit (R147, R148, R150, R156). -/
theorem changePermit_permit (new : PermitState) (cause : PermitCause) (x : Option Port) (s : State) :
    (changePermit new cause x s).permit
      = { s.permit with
          state := new
          timer := if new = .arming then some (1000 * s.permit.startDelay) else none
          lastChange := some (s.time.partTime, cause)
          prun := levelOfBool (new == .running), phold := levelOfBool (new == .held) } := by
  have ho : ∀ (b : Body) (u : State), (offer .part b u).permit = u.permit := fun b u => (kept_offer _ _ _).unchanged .permit (by decide)
  have hs : ∀ u : State, (permitToSchedule s.permit.state new u).permit = u.permit := fun u =>
    (kept_permitToSchedule _ _ _).unchanged .permit (by decide)
  have hl : ∀ u : State, (permitToLines new u).permit = u.permit := fun u => (kept_permitToLines _ _).unchanged .permit (by decide)
  have hn : ∀ u : State, (raiseForAll noticePermit x u).permit = u.permit := fun u => (kept_raiseForAll _ _ _).unchanged .permit (by decide)
  have hp : ∀ u : State, (setPermitPins u).permit
      = { u.permit with prun := levelOfBool (u.permit.state == .running), phold := levelOfBool (u.permit.state == .held) } := fun _ => rfl
  have he : (enterPermitState new cause s).permit
      = { s.permit with
          state := new, timer := if new = .arming then some (1000 * s.permit.startDelay) else none
          lastChange := some (s.time.partTime, cause) } := rfl
  unfold changePermit
  simp only [hn, hp, hl, hs, ho, he]

/-- The permit unit after the aggregate is formed again (R144 to R148). -/
theorem takeAggregate_permit (cause : PermitCause) (x : Option Port) (s : State) :
    (takeAggregate cause x s).permit = permitAfter s.permit s.time.partTime cause := by
  unfold takeAggregate permitAfter
  by_cases h : formAggregate s.permit = s.permit.aggregate
  · simp [h]
  · by_cases h2 : nextPermitState s.permit.state (formAggregate s.permit) s.permit.startDelay = s.permit.state
    · simp [h, h2, State.setPermit]
    · simp [h, h2, State.setPermit, changePermit_permit]

/-- The permit unit after an elector record is written (R138 to R142). -/
theorem setElector_permit (p : Port) (e : Option Elector) (cause : PermitCause) (x : Option Port) (s : State) :
    (setElector p e cause x s).permit = permitAfter { s.permit with electors := s.permit.electors.set p e } s.time.partTime cause :=
  takeAggregate_permit _ _ _

end Sys2Proof.Machine
end

