-- ==== Sys2Proof/Tests/Slice0.lean ====
section
/-! SUPPORT. Tests of single steps against the document's worked examples, the refusals of WellFormed, and for each statement with hypotheses a
named state and operands that meet them, at the ends of their ranges. -/

set_option Elab.async false

namespace Sys2Proof.Tests

open Sys2Proof.Machine

/-! ### WellFormed -/

theorem test_wellFormed_note_empty : (Instr.postNote .a 0#8 []).wellFormed = false := by decide
theorem test_wellFormed_note_of_17 : (Instr.postNote .a 0#8 (List.replicate 17 0#8)).wellFormed = false := by decide
theorem test_wellFormed_note_of_16 : (Instr.postNote .a 0#8 (List.replicate 16 0#8)).wellFormed = true := by decide
theorem test_wellFormed_write_empty : (Instr.commandWrite .a []).wellFormed = false := by decide
theorem test_wellFormed_write_of_fetch : (Instr.commandWrite .a [0x3C#8, 0#8]).wellFormed = false := by decide
theorem test_wellFormed_write_of_clear : (Instr.commandWrite .a [0xC3#8, 0xC3#8, 0xC3#8, 0xC3#8]).wellFormed = false := by decide
theorem test_wellFormed_write_bad_clear : (Instr.commandWrite .a [0xC3#8, 0xC3#8, 0xC3#8]).wellFormed = true := by decide

/-! ### The states of the tests -/

def everything : Filter := { kinds := 0x3FFE#16, lines := 0xFFFF#16, origins := 0x1F#8 }

/-- A session whose reader stands at 1, with records 1 and 2 read and not committed. -/
def openSession (l : Liveness) (mode : ReaderMode) (window : Nat) (deadline : Option Nat) : Session :=
  { liveness := l, window := window, deadline := deadline
    reader := { mode := mode, filter := everything, cursor := 1, readMark := 3, missed := 0 }
    notices := 0#8, mask := 0x3F#8 }

def sessionA : Session := openSession .live .retaining 0 none
def sessionB : Session := openSession .lapsed .lossy 10 none
def sessionC : Session := openSession .live .lossy 10 (some 10000)

/-- SET of OUT0 at part time 100, unrepeated, with both flags. -/
def descriptor : Descriptor :=
  { action := 0#8, line := 0#8, pulseLevel := 0xFF#8, width := 0#24, timing := 0#8, timeValue := 100#64, trigLine := 0xFF#8, trigEdge := 0xFF#8
    rearm := 0#8, period := 0#32, count := 0#16, latePolicy := 0#8, flags := 3#8 }

/-- An entry of A that sets a line at part time 100. -/
def entryOn (k : Fin 8) : Entry :=
  { owner := .a, admission := 0, descriptor := descriptor, action := .set, line := some k, pulseLevel := .low, width := 0, anchor := .absolute
    due := some 100, trigger := none, rearm := false, period := none, initial := none, remaining := none, late := .fireLate
    journalFlag := true, notifyFlag := true, state := .pending, running := none }

def waitingEntry : Entry :=
  { entryOn 0 with
    owner := .c, action := .mark, line := none, anchor := .relative, due := none, trigger := some { line := 0, edge := .rise, offset := 5 }
    rearm := true, state := .awaitingTrigger }

/-- LOCKED and VALID at part time 40. A and C have LIVE sessions, B a LAPSED one. A holds TIME, CONFIG, OUT0 and OUT1 with C waiting for
OUT0, C holds OUT2 with A waiting. C is an elector with GO and the permit is RUNNING. OUT1 is gated. Slots 0 and 1 hold entries of A on OUT0
and OUT1, slot 2 an entry of C that waits for EV0. -/
def busyBlocks : State :=
  let s := State.reset
  let s := ((s.setSession .a (some sessionA)).setSession .b (some sessionB)).setSession .c (some sessionC)
  let s := (s.setClaim .time { holder := some .a, waiters := [] }).setClaim .config { holder := some .a, waiters := [] }
  let s := (s.setClaim (.out 0) { holder := some .a, waiters := [.c] }).setClaim (.out 1) { holder := some .a, waiters := [] }
  let s := s.setClaim (.out 2) { holder := some .c, waiters := [.a] }
  let s := s.setOut 1 { s.out 1 with gated := true, safe := .high }
  let s := ((s.putEntry 0 (some (entryOn 0))).putEntry 1 (some (entryOn 1))).putEntry 2 (some waitingEntry)
  { s with
    time := { s.time with partTime := 40, validity := .valid, refState := .locked }
    conditions :=
      { s.conditions with
        timeInvalid := { active := false, firstLatched := none, action := .note }
        refLost := { active := false, firstLatched := some 0, action := .note } }
    permit :=
      { s.permit with
        electors := ⟨none, none, some { vote := .go, forced := false }, none⟩, aggregate := .go, state := .running, prun := .high } }

def busy : State := conclude busyBlocks

/-- The same with the permit STOPPED and nobody in the electorate. -/
def stopped : State := conclude { busyBlocks with permit := Permit.initial }

/-- The same in HELD by a vote of C. -/
def held : State :=
  conclude
    { busyBlocks with
      permit :=
        { busyBlocks.permit with
          electors := ⟨none, none, some { vote := .hold, forced := false }, none⟩, aggregate := .hold, state := .held, prun := .low, phold := .high } }

/-- The same with the schedule empty. -/
def unscheduled : State := conclude { busyBlocks with schedule := Schedule.initial }

/-- The same with events of the latest tick still listed. -/
def withWork (s : State) (e : TickEvent) : State := { s with tickWork := [e] }

/-- The same with one more tick in the accumulator. -/
def ticking : State := conclude (busyBlocks.setTime { busyBlocks.time with acc := 1 })

theorem ready_of {s : State} {p : Port}
    (h : (quiet s && s.rstn == .high && canEnd .commandWrite (s.port p) && decide ((s.port p).queue.length < 4)) = true) : Ready s p := by
  simp only [canEnd, Bool.and_eq_true, Bool.or_eq_true, beq_iff_eq, decide_eq_true_eq] at h
  exact ⟨h.1.1.1, h.1.1.2, h.1.2, h.2⟩

/-- A transaction of this kind can end on the port. -/
theorem canEnd_of {s : State} {p : Port} {kind : Transaction} (h : canEnd kind (s.port p) = true) : CanEnd s p kind := by
  simpa [canEnd, CanEnd] using h

theorem room_of {n : Nat} {s : State}
    (h : (s.rstn == .high && s.journal.state == .accepting && decide (s.journal.store.length + n ≤ 512)) = true) : RoomFor n s := by
  simp only [Bool.and_eq_true, beq_iff_eq, decide_eq_true_eq] at h
  exact ⟨h.1.1, h.1.2, h.2⟩

theorem due_of {s : State} {e : TickEvent} (h : s.tickWork = [e])
    (c : (s.tickStage == .apart && s.conditions.partVote == s.permit.partVote && s.conditions.raises == []) = true := by
      first | rfl | decide +kernel) : Due s e := by
  simp only [Bool.and_eq_true, beq_iff_eq] at c
  exact ⟨by simp [h], by simp [h], .inr ⟨by simp [unfinished?, c.1.1], c.1.2, c.2⟩⟩

theorem busy_levels : LevelsFormed busy := conclude_formed _
theorem busy_readyA : Ready busy .a := ready_of (by decide +kernel)
theorem busy_readyB : Ready busy .b := ready_of (by decide +kernel)
theorem busy_readyC : Ready busy .c := ready_of (by decide +kernel)
theorem busy_readyD : Ready busy .d := ready_of (by decide +kernel)
theorem busy_liveA : OpenLive busy .a sessionA := ⟨by decide +kernel, rfl⟩
theorem busy_liveC : OpenLive busy .c sessionC := ⟨by decide +kernel, rfl⟩
theorem busy_room : RoomFor 3 busy := room_of (by decide +kernel)
theorem stopped_ready : Ready stopped .a ∧ LevelsFormed stopped ∧ OpenLive stopped .a sessionA ∧ RoomFor 3 stopped :=
  ⟨ready_of (by decide +kernel), conclude_formed _, ⟨by decide +kernel, rfl⟩, room_of (by decide +kernel)⟩
theorem held_ready : Ready held .a ∧ LevelsFormed held ∧ OpenLive held .a sessionA ∧ RoomFor 3 held :=
  ⟨ready_of (by decide +kernel), conclude_formed _, ⟨by decide +kernel, rfl⟩, room_of (by decide +kernel)⟩
theorem unscheduled_ready : Ready unscheduled .a ∧ LevelsFormed unscheduled ∧ OpenLive unscheduled .a sessionA ∧ RoomFor 3 unscheduled :=
  ⟨ready_of (by decide +kernel), conclude_formed _, ⟨by decide +kernel, rfl⟩, room_of (by decide +kernel)⟩

/-! ### Tests of single steps, from the worked examples -/

/-- What a command on port A answers, by status and payload. -/
def answerOf (r : Result) (p : Port) : Option (Status × List Byte) :=
  match r with
  | .next t => (t.port p).queue.getLast?.map fun x => (x.status, x.payload)
  | _ => none

/-- The state after a row. -/
def after (i : Instr) (s : State) : State :=
  match exec i s with
  | .next t => t
  | _ => s

/-- Section 7.8: a second CLAIM by a waiter keeps its place and reports holder and position. -/
theorem test_claim_again_keeps_place : answerOf (exec (.claim .c 1#8 0x10#8 1#8) busy) .c = some (.queued, [0x00#8, 0x01#8]) := by decide +kernel

/-- Section 7.8: WITHDRAW by a master that is not in the list is refused BAD_ARG. -/
theorem test_withdraw_not_waiting : answerOf (exec (.withdraw .c 1#8 0#8) busy) .c = some (.badArg, []) := by decide +kernel

/-- Section 6.8, first row: PULSE HIGH of 500 ticks on a gated line in RUNNING drives HIGH with LOW to follow. -/
theorem test_setLine_pulse :
    (after (.setLine .a 1#8 1#8 3#8 1#8 500#24) busy).out 1
      = { commanded := .high, driven := .high, rest := .low, safe := .high, gated := true
          pulse := some { level := .high, left := 500, trailing := .low } } := by decide +kernel

/-- Section 6.8, fourth row: in HELD a gated line refuses SET_LINE. -/
theorem test_setLine_held : answerOf (exec (.setLine .a 1#8 1#8 0#8 0xFF#8 0#24) held) .a = some (.wrongState, []) := by decide +kernel

/-- Section 1.9: an armed capture takes part time 41 at the tick that makes it, VALID, with no step pending. -/
theorem test_strobe_capture :
    ((after (.strobeCapture .c) (after (.tick 0#16) (after (.strobeEdge .c) ticking))).time.strobes.get .c).captured = none
      ∧ ((after (.strobeCapture .c) (after (.tick 0#16)
          { after (.strobeEdge .c) busy with time := { (after (.strobeEdge .c) busy).time with acc := 1 } })).time.strobes.get .c)
        = { captured := some { time := 41, quality := .valid, stepPending := false }, overwrite := 0, armed := false } := by
  decide +kernel

/-- R26, R29, R30: an enabled line with filter 0 qualifies a rise at its tick and records it with that tick's time. -/
theorem test_edge_filter_0 :
    let cfg : LineConfig := { enabled := true, edge := .both, filter := 0, budget := 0 }
    let s := ticking.setEventLine 3 { EventLine.initial with cfg := cfg, inForce := cfg, tracked := some .low }
    (after (.edgeQualified 3) (after (.tick 8#16) s)).journal.store.getLast?
      = some { seq := 3, time := 41, quality := .valid, origin := .part, body := .input 3 .high .rise } := by decide +kernel

/-- Section 8.10, third row: the last GO takes a STOPPED permit to ARMING with 1000 times the start delay. -/
theorem test_vote_arms :
    let s := conclude
      { busyBlocks with
        permit := { Permit.initial with electors := ⟨some { vote := .go, forced := false }, none, some { vote := .stop, forced := false }, none⟩ } }
    (after (.vote .c 1#8 2#8) s).permit.timer = some 500000 ∧ answerOf (exec (.vote .c 1#8 2#8) s) .c = some (.ok, [1#8]) := by decide +kernel

/-- Section 11.3: an INPUT record is 23 bytes and a PERMIT record 25 bytes. -/
theorem test_record_widths :
    (recordBytes { seq := 9, time := 1, quality := .valid, origin := .part, body := .input 2 .high .rise }).length = 23
      ∧ (recordBytes { seq := 9, time := 1, quality := .valid, origin := .part, body := .permit .stopped .arming .electorate }).length = 25 := by
  decide +kernel

/-- R181: an OPEN from a LAPSED session is refused LAPSED, not SESSION_OPEN. -/
theorem test_open_lapsed :
    answerOf (exec (.openSession .b 1#8 0#8 0#16 0#16 0#8 0#8 0#16) busy) .b = some (.lapsed, []) := by decide +kernel

/-- R176: a row that ends a command write does nothing on a port in a fetch. -/
theorem test_row_in_fetch :
    (after (.identify .a 1#8) (after (.transactionStart .a 0x3C#8) busy)).port .a = (after (.transactionStart .a 0x3C#8) busy).port .a := by
  decide +kernel

/-- R15, R17: remaining of a slew of -700 with 219.93 done is -480, rounded toward zero. -/
theorem test_slew_remaining : ({ amount := -700, rate := 200, progress := 21993 / 100, issuer := .d } : Slew).remaining = -480 := by decide +kernel

/-! ### Witnesses: every hypothesis of a statement is met -/

theorem witness_NothingDueNothingHappens :
    State.reset.pending = [] ∧ quiet State.reset = true ∧ TickEvent.delayExpired ∉ State.reset.tickWork ∧ State.reset.time.acc < 1
      ∧ lossIsDue State.reset = false ∧ breakIsDue State.reset = false ∧ exitIsDue State.reset = false ∧ State.reset.time.stepDue = false
      ∧ slewIsDone State.reset = false ∧ State.reset.conditions.partVote = State.reset.permit.partVote
      ∧ Condition.refLost ∉ State.reset.conditions.raises := by decide +kernel

theorem witness_FrameCarriesRow :
    (Instr.identify .a 7#8).wellFormed = true ∧ frameFields? (.identify .a 7#8) = some (.a, 7#8, 0x01#8, []) := ⟨rfl, rfl⟩

theorem witness_FramesDropped :
    (quiet State.reset = true ∧ State.reset.rstn = .high ∧ CanEnd State.reset .a .commandWrite ∧ LevelsFormed State.reset)
      ∧ (syncByte ≠ fetchByte ∧ [syncByte] ≠ clearFrame
          ∧ ∀ tag command payload, payload.length ≤ 300 → [syncByte] ≠ commandFrame tag command payload)
      ∧ (List.replicate 300 0#8).length ≤ 300 := by
  refine ⟨⟨by decide +kernel, rfl, canEnd_of rfl, ⟨by decide +kernel, fun _ _ => by decide +kernel⟩⟩, ⟨by decide, by decide, ?_⟩, List.length_replicate.le⟩
  intro tag command payload _ h
  have := congrArg List.length h
  simp [commandFrame_length] at this

/-- A port with four responses waiting. -/
def fullPort : State := conclude (busyBlocks.setPort .a { busyBlocks.port .a with queue := List.replicate 4 emptyResponse })

theorem witness_FramesDropped_full :
    quiet fullPort = true ∧ fullPort.rstn = .high ∧ CanEnd fullPort .a .commandWrite ∧ 4 ≤ (fullPort.port .a).queue.length :=
  ⟨by decide +kernel, by decide +kernel, canEnd_of (by decide +kernel), by decide +kernel⟩

theorem witness_OneResponse : Ready busy .a ∧ LevelsFormed busy ∧ (List.replicate 300 0#8 : List Byte).length ≤ 300 :=
  ⟨busy_readyA, busy_levels, List.length_replicate.le⟩

theorem witness_SessionChecks :
    (Instr.leave .d 7#8).wellFormed = true ∧ frameFields? (.leave .d 7#8) = some (.d, 7#8, 0x51#8, []) ∧ Ready busy .d ∧ LevelsFormed busy
      ∧ busy.session .d = none ∧ 0x51#8 ∉ [0x01#8, 0x02#8] := ⟨rfl, rfl, busy_readyD, busy_levels, by decide +kernel, by decide⟩

theorem witness_SessionChecks_lapsed :
    (Instr.identify .b 7#8).wellFormed = true ∧ frameFields? (.identify .b 7#8) = some (.b, 7#8, 0x01#8, []) ∧ Ready busy .b ∧ LevelsFormed busy
      ∧ busy.session .b = some sessionB ∧ sessionB.liveness = .lapsed
      ∧ 0x01#8 ∉ [0x05#8, 0x04#8, 0x06#8, 0x10#8, 0x22#8, 0x23#8, 0x03#8] := ⟨rfl, rfl, busy_readyB, busy_levels, by decide +kernel, rfl, by decide⟩

/-- A fetch of 8 bytes ends the empty frame, one of 7 does not. -/
theorem witness_FetchOldest :
    (quiet State.reset = true ∧ State.reset.rstn = .high ∧ CanEnd State.reset .a .fetch) ∧ LevelsFormed State.reset
      ∧ ((State.reset.port .a).queue.head?.getD emptyResponse).payload.length + 8 ≤ 8
      ∧ 7 < ((State.reset.port .a).queue.head?.getD emptyResponse).payload.length + 8 :=
  ⟨⟨by decide +kernel, rfl, canEnd_of rfl⟩, ⟨by decide +kernel, fun _ _ => by decide +kernel⟩, by decide, by decide⟩

theorem witness_Widths :
    (∀ r, ClaimConsistent (busy.claimOf r))
      ∧ ∀ bs, (Body.note (List.replicate 16 0#8)) = .note bs → bs.length ≤ 16 := by
  refine ⟨fun r => ?_, fun bs h => by cases h; decide⟩
  rcases r with _ | _ | n
  · exact ⟨by decide +kernel, by decide +kernel, by decide +kernel⟩
  · exact ⟨by decide +kernel, by decide +kernel, by decide +kernel⟩
  · revert n
    suffices h : ∀ n : Fin 8, ((busy.claimOf (.out n)).holder = none → (busy.claimOf (.out n)).waiters = [])
        ∧ ((allPorts.all fun p => (busy.claimOf (.out n)).holder != some p || !(busy.claimOf (.out n)).waiters.contains p) = true)
        ∧ (busy.claimOf (.out n)).waiters.Nodup from fun n =>
      ⟨(h n).1, fun p hp hw => by have := (h n).2.1; cases p <;> simp_all [allPorts], (h n).2.2⟩
    decide +kernel

theorem witness_StartsAndClears :
    quiet busy = true ∧ busy.rstn = .high ∧ (busy.port .d).transaction = .idle ∧ (busy.port .d).discarded = .idle ∧ CanEnd busy .d .portClear
      ∧ busy.session .d = none :=
  ⟨by decide +kernel, by decide +kernel, by decide +kernel, by decide +kernel, canEnd_of (by decide +kernel), by decide +kernel⟩

theorem witness_CloseLeavesNothing :
    (Ready busy .a ∧ busy.session .a = some sessionA) ∧ Ready busy .b ∧ busy.session .b = some sessionB
      ∧ (after (.closeSession .a 1#8) busy).journal.state = .accepting :=
  ⟨⟨busy_readyA, by decide +kernel⟩, busy_readyB, by decide +kernel, by decide +kernel⟩

theorem witness_IdentifyAnswers :
    (Ready busy .d ∧ busy.session .d = none) ∧ (Ready busy .a ∧ OpenLive busy .a sessionA)
      ∧ Ready busy .b ∧ busy.session .b = some sessionB ∧ sessionB.liveness = .lapsed ∧ LevelsFormed busy :=
  ⟨⟨busy_readyD, by decide +kernel⟩, ⟨busy_readyA, busy_liveA⟩, busy_readyB, by decide +kernel, rfl, busy_levels⟩

/-- RETAINING from the oldest with the window off, and with the smallest and the greatest window. -/
theorem witness_OpenBeginsSession :
    Ready busy .d ∧ LevelsFormed busy ∧ RoomFor 1 busy ∧ busy.session .d = none ∧ readerModeOf? 0#8 = some .retaining
      ∧ readerStart? 0#8 busy = some 0 ∧ readerStart? 1#8 busy = some 3 ∧ 0x3FFE#16 &&& 0xC001#16 = 0#16 ∧ 0x1F#8 &&& 0xE0#8 = 0#8
      ∧ ∀ w ∈ [0#16, 10#16, 60000#16], w.toNat = 0 ∨ (10 ≤ w.toNat ∧ w.toNat ≤ 60000) :=
  ⟨busy_readyD, busy_levels, room_of (by decide +kernel), by decide +kernel, by decide, by decide +kernel, by decide +kernel, by decide,
    by decide, by simp⟩

theorem witness_RenewRestoresLivenessOnly :
    Ready busy .b ∧ LevelsFormed busy ∧ RoomFor 1 busy ∧ busy.session .b = some sessionB ∧ sessionB.liveness = .lapsed :=
  ⟨busy_readyB, busy_levels, room_of (by decide +kernel), by decide +kernel, rfl⟩

theorem witness_StatusAndMask :
    (Ready busy .b ∧ busy.session .b = some sessionB) ∧ Ready busy .a ∧ LevelsFormed busy ∧ busy.session .a = some sessionA
      ∧ sessionA.liveness = .live ∧ (63#8).toNat < 64 ∧ 64 ≤ (64#8).toNat :=
  ⟨⟨busy_readyB, by decide +kernel⟩, busy_readyA, busy_levels, by decide +kernel, rfl, by decide, by decide⟩

theorem witness_QueriesAnswerOnly :
    (Ready busy .b ∧ busy.session .b = some sessionB) ∧ Ready busy .c ∧ LevelsFormed busy ∧ busy.session .c = some sessionC
      ∧ sessionC.liveness = .live := ⟨⟨busy_readyB, by decide +kernel⟩, busy_readyC, busy_levels, by decide +kernel, rfl⟩

theorem witness_AddressedQueriesAnswer :
    Ready busy .a ∧ LevelsFormed busy ∧ OpenLive busy .a sessionA
      ∧ (64 ≤ (64#8).toNat ∧ busy.entry 63 = none ∧ (busy.handle 0).generation ≠ 1#8 ∧ busy.entry 0 = some (entryOn 0)
        ∧ (63#8).toNat < 64 ∧ 2 ≤ (2#8).toNat)
      ∧ parameterValue? 0x0A01#16 busy = some 1 ∧ parameterValue? 0x0A08#16 busy = none ∧ parameterValue? 0x0D00#16 busy = none :=
  ⟨busy_readyA, busy_levels, busy_liveA, by decide +kernel, by decide +kernel, by decide +kernel, by decide +kernel⟩

/-! Part time -/

/-- The same with a step waiting. -/
def stepping (offset : Int) (due : Bool) (s : State) : State :=
  conclude (s.setTime { s.time with step := some { offset := offset, markValid := true, issuer := .a }, stepDue := due })

theorem witness_StepTimeWaits :
    (Ready busy .a ∧ LevelsFormed busy ∧ OpenLive busy .a sessionA ∧ busy.holds .a .time = true ∧ busy.time.step.isSome = false)
      ∧ (Ready busy .c ∧ OpenLive busy .c sessionC ∧ busy.holds .c .time = false)
      ∧ ((0#64).toInt = 0 ∧ 2 ^ 62 < (0x4000000000000001#64).toInt.natAbs ∧ 2 ≤ (2#8).toNat)
      ∧ ((0x4000000000000000#64).toInt ≠ 0 ∧ (0x4000000000000000#64).toInt.natAbs ≤ 2 ^ 62 ∧ (0xC000000000000000#64).toInt.natAbs ≤ 2 ^ 62
        ∧ (1#8).toNat < 2) :=
  ⟨⟨busy_readyA, busy_levels, busy_liveA, by decide +kernel, by decide +kernel⟩, ⟨busy_readyC, busy_liveC, by decide +kernel⟩,
    by decide +kernel, by decide +kernel⟩

theorem witness_StepTimeWaits_replacing :
    let s := stepping 1000 false busyBlocks
    Ready s .a ∧ LevelsFormed s ∧ OpenLive s .a sessionA ∧ s.holds .a .time = true ∧ s.time.step.isSome = true ∧ RoomFor 1 s :=
  ⟨ready_of (by decide +kernel), conclude_formed _, ⟨by decide +kernel, rfl⟩, by decide +kernel, by decide +kernel, room_of (by decide +kernel)⟩

theorem witness_SlewAndTrim :
    (Ready busy .a ∧ LevelsFormed busy ∧ OpenLive busy .a sessionA ∧ busy.holds .a .time = true ∧ RoomFor 2 busy)
      ∧ busy.holds .c .time = false
      ∧ ((0#32).toInt = 0 ∧ 1000000 < (1000001#32).toInt.natAbs ∧ (0#16).toNat = 0 ∧ 500 < (501#16).toNat ∧ 500000 < (500001#32).toInt.natAbs)
      ∧ ((1000000#32).toInt ≠ 0 ∧ (1000000#32).toInt.natAbs ≤ 1000000 ∧ 1 ≤ (500#16).toNat ∧ (500#16).toNat ≤ 500
        ∧ (500000#32).toInt.natAbs ≤ 500000) :=
  ⟨⟨busy_readyA, busy_levels, busy_liveA, by decide +kernel, room_of (by decide +kernel)⟩, by decide +kernel, by decide +kernel,
    by decide +kernel⟩

/-- A slot that is HELD, armed, and has counted to its limit. -/
def strobed : State :=
  conclude
    (busyBlocks.setTime
      { busyBlocks.time with
        strobes := busyBlocks.time.strobes.set .a
          { captured := some { time := 9, quality := .valid, stepPending := false }, overwrite := 255, armed := true } })

theorem witness_StrobeSlots :
    (quiet busy = true ∧ LevelsFormed busy) ∧ (Due (withWork strobed (.strobeCapture .a)) (.strobeCapture .a)
        ∧ ((withWork strobed (.strobeCapture .a)).time.strobes.get .a).armed = true)
      ∧ (Ready busy .a ∧ OpenLive busy .a sessionA ∧ (busy.time.strobes.get .a).captured = none)
      ∧ Ready strobed .a ∧ OpenLive strobed .a sessionA ∧ (strobed.time.strobes.get .a).captured.isSome = true :=
  ⟨⟨by decide +kernel, busy_levels⟩, ⟨due_of rfl, by decide +kernel⟩, ⟨busy_readyA, busy_liveA, by decide +kernel⟩,
    ready_of (by decide +kernel), ⟨by decide +kernel, rfl⟩, by decide +kernel⟩

theorem witness_CyclesFeedTheAccumulator :
    (quiet State.reset = true ∧ State.reset.time.refState = .holdover) ∧ quiet busy = true ∧ LevelsFormed busy ∧ busy.time.refState = .locked :=
  ⟨by decide +kernel, by decide +kernel, busy_levels, by decide +kernel⟩

/-- A tick below 2^64 - 1 and one at it. -/
theorem witness_Tick :
    let top := conclude (busyBlocks.setTime { busyBlocks.time with acc := 1, partTime := 2 ^ 64 - 1 })
    (nextEvent ticking = some .tick ∧ LevelsFormed ticking ∧ ticking.time.partTime < 2 ^ 64 - 1)
      ∧ nextEvent top = some .tick ∧ LevelsFormed top ∧ top.time.partTime = 2 ^ 64 - 1 :=
  ⟨⟨by decide +kernel, conclude_formed _, by decide +kernel⟩, by decide +kernel, conclude_formed _, by decide +kernel⟩

/-- R2: part time does not wrap, and the tick at 2^64 - 1 leaves 1 tick less in the accumulator. -/
theorem test_no_wrap :
    let t := issueTick (busyBlocks.setTime { busyBlocks.time with acc := 1, partTime := 2 ^ 64 - 1 })
    t.time.partTime = 2 ^ 64 - 1 ∧ t.time.acc = 0 := by decide +kernel

/-- An enabled line in a state of qualification, at a tick. -/
def sampling (filter : Nat) (qual : Qualification) : State :=
  let cfg : LineConfig := { enabled := true, edge := .both, filter := filter, budget := 3 }
  conclude
    ((busyBlocks.setTime { busyBlocks.time with acc := 1 }).setEventLine 3
      { EventLine.initial with cfg := cfg, inForce := cfg, tracked := some .low, qual := qual, window := 9999 })

/-- Each row of R27's table, with the sample HIGH (bit 3 of 8) or LOW. -/
theorem witness_SampleQualifies :
    ∀ x ∈ [(0, Qualification.idle), (1, .idle), (65535, .qualifying .high 65534), (2, .qualifying .high 0)],
      nextEvent (sampling x.1 x.2) = some .tick
        ∧ ((sampling x.1 x.2).line 3).inForce = ((sampling x.1 x.2).line 3).cfg ∧ ((sampling x.1 x.2).line 3).cfg.enabled = true
        ∧ ((sampling x.1 x.2).line 3).qual = x.2 ∧ ((sampling x.1 x.2).line 3).tracked = some .low := by decide +kernel

/-- The timebase in a state in which its own event is due. -/
def timed (f : Timebase → Timebase) : State := conclude (busyBlocks.setTime (f busyBlocks.time))

theorem witness_ReferenceEvents :
    (State.reset.time.trim = 0 ∧ State.reset.time.slew = none)
      ∧ lossIsDue (timed fun t => { t with lossCount := 100 }) = true
      ∧ (nextEvent (timed fun t => { t with refState := .holdover, refSeen := true, lossCount := 100 }) = none
        ∧ breakIsDue (timed fun t => { t with refState := .holdover, refSeen := true, lossCount := 100 }) = true)
      ∧ (nextEvent (timed fun t => { t with refState := .holdover, exitCount := 20000 }) = none
        ∧ exitIsDue (timed fun t => { t with refState := .holdover, exitCount := 20000 }) = true)
      ∧ nextEvent (timed fun t => { t with slew := some { amount := 5, rate := 1, progress := 5, issuer := .a } }) = some .slewDone := by
  decide +kernel

theorem witness_ReferenceEvents_levels :
    LevelsFormed (timed fun t => { t with refState := .holdover, refSeen := true, lossCount := 100 })
      ∧ RoomFor 1 (timed fun t => { t with refState := .holdover, exitCount := 20000 })
      ∧ RoomFor 1 (timed fun t => { t with slew := some { amount := 5, rate := 1, progress := 5, issuer := .a } }) :=
  ⟨conclude_formed _, room_of (by decide +kernel), room_of (by decide +kernel)⟩

/-- A step to 0, one below it, one to 2^64 - 1 and one above it. -/
theorem witness_StepApplicationMovesTime :
    ∀ x ∈ [((-40 : Int), true), (-41, false), (2 ^ 64 - 41, true), (2 ^ 64 - 40, false)],
      nextEvent (stepping x.1 true { busyBlocks with schedule := Schedule.initial }) = some .step
        ∧ (x.2 = true ↔ 0 ≤ (40 : Int) + x.1 ∧ (40 : Int) + x.1 ≤ 2 ^ 64 - 1)
        ∧ (stepping x.1 true { busyBlocks with schedule := Schedule.initial }).time.partTime = 40
        ∧ ∀ i, (stepping x.1 true { busyBlocks with schedule := Schedule.initial }).entry i = none := by decide +kernel

theorem witness_StepApplicationMovesTime_room : RoomFor 3 (stepping (-40) true { busyBlocks with schedule := Schedule.initial }) :=
  room_of (by decide +kernel)

/-- HELD, with a RELATIVE entry in slot 0, an ABSOLUTE one on a gated line in slot 1, and one with no due time in slot 2. -/
def heldStep (offset : Int) : State :=
  stepping offset true (((State.putEntry held 0 (some { entryOn 0 with anchor := .relative })).putEntry 3 (some { entryOn 0 with due := some 40 })))

theorem witness_StepMovesDueTimes :
    nextEvent (heldStep 60) = some .step ∧ (heldStep 60).time.partTime = 40 ∧ (heldStep 60).permit.state = .held
      ∧ (heldStep 60).entry 0 = some { entryOn 0 with anchor := .relative } ∧ (heldStep 60).entry 2 = some waitingEntry
      ∧ (heldStep 60).entry 3 = some { entryOn 0 with due := some 40 } ∧ (heldStep 60).entry 1 = some (entryOn 1)
      ∧ onGatedLine (heldStep 60) (entryOn 1) = true ∧ nextEvent (heldStep 59) = some .step ∧ (40 : Int) + 59 < 100 := by decide +kernel

/-! Event inputs -/

/-- A line with settings stored that are not in force yet, and an excess of 2. -/
def lineBlocks : State :=
  busyBlocks.setEventLine 3
    { EventLine.initial with
      cfg := { enabled := true, edge := .fall, filter := 9, budget := 2 }
      inForce := { enabled := true, edge := .both, filter := 1, budget := 1 }, tracked := some .low, raw := .high, admitted := 1, excess := 2 }

theorem witness_LineEvents :
    (∀ e ∈ [TickEvent.lineEnable 3, .lineDisable 3, .filterChange 3, .edgeSelectChange 3, .budgetChange 3, .chatterWindowEnd 3],
        Due (withWork lineBlocks e) e)
      ∧ (lineBlocks.line 3).tracked = some .low ∧ (lineBlocks.line 3).excess ≠ 0 ∧ RoomFor 1 (withWork lineBlocks (.lineDisable 3)) :=
  ⟨fun _ _ => due_of rfl, by decide +kernel, by decide +kernel, room_of (by decide +kernel)⟩

/-- A qualified rise: not selected; past the budget; at the last place in it; without a budget. -/
def edgeBlocks (edge : EdgeSelect) (budget admitted : Nat) : State :=
  let cfg : LineConfig := { enabled := true, edge := edge, filter := 30, budget := budget }
  withWork
    (busyBlocks.setEventLine 0
      { EventLine.initial with cfg := cfg, inForce := cfg, tracked := some .low, raw := .high, admitted := admitted })
    (.edgeQualified 0)

theorem witness_EdgeQualified :
    (∀ x ∈ [(EdgeSelect.fall, 0, 0), (.rise, 3, 3), (.both, 3, 2), (.rise, 0, 0)], Due (edgeBlocks x.1 x.2.1 x.2.2) (.edgeQualified 0))
      ∧ ((edgeBlocks .rise 3 3).line 0).inForce.budget ≠ 0 ∧ ((edgeBlocks .rise 3 3).line 0).inForce.budget ≤ ((edgeBlocks .rise 3 3).line 0).admitted
      ∧ ((edgeBlocks .both 3 2).line 0).admitted < ((edgeBlocks .both 3 2).line 0).inForce.budget :=
  ⟨fun _ _ => due_of rfl, by decide +kernel, by decide +kernel, by decide +kernel⟩

/-- The entry in slot 2 waits for the rise; its due time 40 - 30 + offset lies after 40 for an offset of 31, and not for 30. -/
theorem witness_EdgeQualified_taken :
    (edgeBlocks .rise 0 0).entry 2 = some waitingEntry ∧ waitingEntry.awaits 0 .rise = true ∧ waitingEntry.running = none
      ∧ waitingEntry.trigger = some { line := 0, edge := .rise, offset := 5 } ∧ 40 < 40 - 30 + 31 ∧ 40 - 30 + 5 ≤ 40
      ∧ (edgeBlocks .rise 0 0).time.partTime = 40 ∧ (entryOn 0).awaits 0 .rise = false := by decide +kernel

/-- The same in HELD, with the entry on the gated line. -/
theorem witness_EdgeQualified_deferred :
    let e := { waitingEntry with action := .set, line := some 1 }
    let s := State.putEntry { edgeBlocks .rise 0 0 with permit := held.permit } 2 (some e)
    Due s (.edgeQualified 0) ∧ s.entry 2 = some e ∧ e.awaits 0 .rise = true ∧ s.permit.state = .held ∧ onGatedLine s e = true :=
  ⟨due_of rfl, by decide +kernel, by decide +kernel, by decide +kernel, by decide +kernel⟩

/-! The journal -/

def someRecord (seq : Nat) : Record := { seq := seq, time := 0, quality := .valid, origin := .part, body := .lapsed }

/-- A full journal whose oldest record is pinned by A's reader, or by nobody. -/
def fullJournal (isPinned : Bool) (st : JournalState) : State :=
  let s := busyBlocks.setJournal { store := (List.range 512).map fun i => someRecord (i + 1), counter := 513, state := st, withheld := 0 }
  conclude (if isPinned then s else s.setSession .a (some (openSession .live .lossy 0 none)))

theorem witness_PostNoteDecides :
    Ready busy .a ∧ LevelsFormed busy ∧ OpenLive busy .a sessionA ∧ RoomFor 1 busy ∧ (List.replicate 16 0#8 : List Byte).length ≤ 16
      ∧ 16 < (List.replicate 17 0#8 : List Byte).length :=
  ⟨busy_readyA, busy_levels, busy_liveA, room_of (by decide +kernel), by decide, by decide⟩

theorem witness_PostNoteDecides_full :
    (Ready (fullJournal true .accepting) .a ∧ OpenLive (fullJournal true .accepting) .a sessionA
        ∧ 512 ≤ (fullJournal true .accepting).journal.store.length ∧ oldestPinned (fullJournal true .accepting) = true)
      ∧ (Ready (fullJournal false .accepting) .c ∧ OpenLive (fullJournal false .accepting) .c sessionC
        ∧ 512 ≤ (fullJournal false .accepting).journal.store.length ∧ oldestPinned (fullJournal false .accepting) = false)
      ∧ Ready (fullJournal true .withholding) .c ∧ OpenLive (fullJournal true .withholding) .c sessionC
        ∧ (fullJournal true .withholding).journal.state = .withholding :=
  ⟨⟨ready_of (by decide +kernel), ⟨by decide +kernel, rfl⟩, by decide +kernel, by decide +kernel⟩,
    ⟨ready_of (by decide +kernel), ⟨by decide +kernel, rfl⟩, by decide +kernel, by decide +kernel⟩,
    ready_of (by decide +kernel), ⟨by decide +kernel, rfl⟩, by decide +kernel⟩

theorem witness_PinsAndTheGap :
    (someRecord 1 ∈ (fullJournal true .accepting).journal.store ∧ pinned (fullJournal true .accepting) (someRecord 1) = true)
      ∧ (fullJournal true .accepting).journal.state = .accepting ∧ oldestPinned (fullJournal true .withholding) = true
      ∧ ((fullJournal false .withholding).journal.state = .withholding
        ∧ (fullJournal false .withholding).journal.store.head? = some (someRecord 1) ∧ oldestPinned (fullJournal false .withholding) = false) := by
  decide +kernel

theorem witness_ReadJournalScans :
    (Ready busy .b ∧ busy.session .b = some sessionB) ∧ Ready busy .a ∧ LevelsFormed busy ∧ busy.session .a = some sessionA
      ∧ ((0#8).toNat = 0 ∧ 8 < (9#8).toNat ∧ 2 ≤ (2#8).toNat ∧ 1 ≤ (1#8).toNat ∧ (8#8).toNat ≤ 8 ∧ (1#8).toNat < 2) :=
  ⟨⟨busy_readyB, by decide +kernel⟩, busy_readyA, busy_levels, by decide +kernel, by decide⟩

/-- A's reader has its cursor at 1 and its read_mark at 3; the store holds 0 to 2. -/
theorem witness_ReaderCommands :
    Ready busy .a ∧ LevelsFormed busy ∧ busy.session .a = some sessionA ∧ sessionA.liveness = .live
      ∧ ((0#64).toNat < sessionA.reader.cursor ∧ sessionA.reader.cursor ≤ (1#64).toNat ∧ (2#64).toNat < sessionA.reader.readMark
        ∧ sessionA.reader.readMark ≤ (3#64).toNat)
      ∧ (oldestSeq busy ≤ (0#64).toNat ∧ (3#64).toNat ≤ endSeq busy ∧ endSeq busy < (4#64).toNat ∧ 3 ≤ (3#8).toNat)
      ∧ 0xFFFF#16 &&& 0xC001#16 ≠ 0#16 ∧ 2 ≤ (2#8).toNat :=
  ⟨busy_readyA, busy_levels, by decide +kernel, rfl, by decide, by decide +kernel, by decide, by decide⟩

/-- A store that begins at 2: a seek to 1 lies below it. -/
theorem witness_ReaderCommands_below :
    (1#64).toNat < oldestSeq (conclude (busyBlocks.setJournal { busyBlocks.journal with store := [someRecord 2] })) := by decide +kernel

/-! The schedule -/

def described (d : Descriptor) (p : Port) (s : State) : Bool :=
  match descriptorSpec? d with
  | none => false
  | some spec => (newEntry p d spec s.schedule.admission s.time.partTime).state == .pending

/-- A holds OUT0 and C does not; OUT1 is gated; the descriptor is due at 100, at 40 (not after the part time) or on a trigger, or is refused. -/
theorem witness_AddEntryAdmits :
    (Ready busy .a ∧ LevelsFormed busy ∧ OpenLive busy .a sessionA ∧ RoomFor 1 busy) ∧ (busy.holds .a (.out 0) = true ∧ busy.holds .c (.out 0) = false)
      ∧ ((stopped.out 1).gated = true ∧ stopped.permit.state = .stopped ∧ stopped.holds .a (.out 1) = true)
      ∧ (∀ x ∈ [(descriptor, true), ({ descriptor with timeValue := 40#64 }, true), ({ descriptor with action := 5#8 }, false)],
          (descriptorSpec? x.1).isSome = x.2 ∧ (x.2 = true → described x.1 .a busy = true))
      ∧ (owned busy .a < busy.schedule.quotas.get .a ∧ busy.entry 3 = none ∧ (∀ j : Fin 64, j < 3 → (busy.entry j).isSome = true)) := by
  refine ⟨⟨busy_readyA, busy_levels, busy_liveA, room_of (by decide +kernel)⟩, ?_⟩
  decide +kernel

/-- A quota that is used up, and a table with every slot in use. -/
theorem witness_AddEntryAdmits_full :
    let s := { busy with schedule := { busy.schedule with quotas := busy.schedule.quotas.set .a 2 } }
    let u := { busy with schedule := { busy.schedule with slots := Vector.replicate 64 { generation := 1#8, entry := some (entryOn 0) } } }
    s.schedule.quotas.get .a ≤ owned s .a ∧ (∀ i, (u.entry i).isSome = true) ∧ owned u .c < u.schedule.quotas.get .c := by decide +kernel

/-- A trigger on either edge of EV15; the greatest delay; and in HELD an entry on the gated line that is due. -/
theorem witness_AddEntryAdmits_timing :
    ((descriptorSpec? { descriptor with timing := 2#8, timeValue := 0#64, trigLine := 15#8, trigEdge := 2#8 }).map (·.timing))
        = some (.trigger { line := 15, edge := .either, offset := 0 })
      ∧ ((descriptorSpec? { descriptor with timing := 1#8, timeValue := 0xFFFFFFFF#64 }).map (·.timing)) = some (.relative 4294967295)
      ∧ deferredNow held { entryOn 1 with due := some 40 } = true ∧ deferredNow held { entryOn 0 with due := some 40 } = false := by
  decide +kernel

def planned (d : Descriptor) (time : Nat) : Option Entry := (descriptorSpec? d).map fun spec => newEntry .a d spec 0 time

/-- A delay past the end of part time leaves no due time; a late unrepeated entry under SKIP keeps its due time. -/
theorem witness_AddEntryAdmits_past :
    (planned { descriptor with timing := 1#8, timeValue := 1#64 } (2 ^ 64 - 1)).map (fun e => (e.due, e.state)) = some (none, .pending)
      ∧ (planned { descriptor with timeValue := 40#64, latePolicy := 1#8, flags := 0#8 } 40).map
          (fun e => (e.due, e.late, e.period, e.journalFlag)) = some (some 40, .skip, none, false) := by decide +kernel

theorem witness_CancelEntryFrees :
    (Ready busy .a ∧ LevelsFormed busy ∧ OpenLive busy .a sessionA ∧ RoomFor 1 busy)
      ∧ (64 ≤ (64#8).toNat ∧ busy.entry 63 = none ∧ (busy.handle 0).generation ≠ 1#8)
      ∧ (busy.entry 2 = some waitingEntry ∧ waitingEntry.owner ≠ .a) ∧ busy.entry 0 = some (entryOn 0) ∧ (entryOn 0).owner = .a := by
  refine ⟨⟨busy_readyA, busy_levels, busy_liveA, room_of (by decide +kernel)⟩, ?_⟩
  decide +kernel

/-- Entry 0 of A in a state of its own, with an event of it listed. -/
def entryState (base : State) (e : Entry) (ev : TickEvent) : State := withWork (base.putEntry 0 (some e)) ev

/-- An unrepeated SET; a TOGGLE with its last occurrence, with one more, and with one past the end of part time; a PULSE; and a MARK of C. -/
def firing : List Entry :=
  let e := { entryOn 0 with due := some 40 }
  [e, { e with action := .toggle, period := some 10, initial := some 1, remaining := some 1 },
   { e with action := .toggle, period := some 10, initial := some 2, remaining := some 2 },
   { e with period := some (2 ^ 64 - 1), remaining := none },
   { e with action := .pulse, pulseLevel := .high, width := 1 },
   { waitingEntry with due := some 40, state := .pending, rearm := true }]

theorem witness_EntryFires :
    ∀ e ∈ firing, Due (entryState busy e (.entryDue 0)) (.entryDue 0) ∧ (entryState busy e (.entryDue 0)).entry 0 = some e ∧ e.state = .pending
      ∧ e.due = some (entryState busy e (.entryDue 0)).time.partTime ∧ e.running = none
      ∧ deferredNow (entryState busy e (.entryDue 0)) e = false ∧ RoomFor 2 (entryState busy e (.entryDue 0)) := by
  intro e he
  have h : ∀ e ∈ firing, (entryState busy e (.entryDue 0)).entry 0 = some e ∧ e.state = .pending
      ∧ e.due = some (entryState busy e (.entryDue 0)).time.partTime ∧ e.running = none
      ∧ deferredNow (entryState busy e (.entryDue 0)) e = false := by decide +kernel
  obtain ⟨h1, h2, h3, h4, h5⟩ := h e he
  exact ⟨due_of rfl, h1, h2, h3, h4, h5, room_of (by revert e; decide +kernel)⟩

def gatedDue : Entry := { entryOn 1 with due := some 40 }
def pulsing (due : Option Nat) (rearm : Bool) : Entry :=
  { entryOn 0 with
    action := .pulse, due := due, rearm := rearm, state := .pulsing, running := some { left := 0, trailing := .low }, initial := some 3 }

theorem witness_EntryDefersAndPulseEnds :
    (Due (entryState held gatedDue (.entryDue 0)) (.entryDue 0) ∧ (entryState held gatedDue (.entryDue 0)).entry 0 = some gatedDue
        ∧ gatedDue.state = .pending ∧ gatedDue.due = some (entryState held gatedDue (.entryDue 0)).time.partTime ∧ gatedDue.running = none
        ∧ deferredNow (entryState held gatedDue (.entryDue 0)) gatedDue = true)
      ∧ (∀ x ∈ [(some 50, false), (none, true), (none, false)], Due (entryState busy (pulsing x.1 x.2) (.pulseEnd 0)) (.pulseEnd 0)
          ∧ (entryState busy (pulsing x.1 x.2) (.pulseEnd 0)).entry 0 = some (pulsing x.1 x.2))
      ∧ RoomFor 1 (entryState busy (pulsing none false) (.pulseEnd 0)) :=
  ⟨⟨due_of rfl, by decide +kernel⟩, fun x hx => ⟨due_of rfl, by revert x; decide +kernel⟩, room_of (by decide +kernel)⟩

/-- A repeating entry due at 100 with period 10, caught up to 100 and to 300; its count ends in the second, and a pulse in both. -/
theorem witness_CatchUp :
    let e := { entryOn 0 with period := some 10, remaining := some 2 }
    let f := { entryOn 0 with period := some 10, remaining := none, action := .pulse, width := 3 }
    ((busy.putEntry 0 (some e)).entry 0 = some e ∧ (busy.putEntry 0 (some f)).entry 0 = some f)
      ∧ ((100 - 100) / 10 + 1 = 1 ∧ (300 - 100) / 10 + 1 = 21 ∧ e.remaining.map (fun n => n - 1) ≠ some 0
        ∧ e.remaining.map (fun n => n - 21) = some 0) ∧ busy.rstn = .high ∧ busy.schedule.tolerance < 300 - 100 := by decide +kernel

/-! Output lines, claims and configuration -/

theorem witness_LinesAct :
    (Ready busy .a ∧ LevelsFormed busy ∧ OpenLive busy .a sessionA ∧ Ready held .a ∧ LevelsFormed held ∧ OpenLive held .a sessionA)
      ∧ (busy.holds .a (.out 0) = true ∧ (busy.out 0).gated = false) ∧ (busy.holds .a (.out 7) = false)
      ∧ (busy.holds .a (.out 1) = true ∧ (busy.out 1).gated = true ∧ busy.permit.state = .running)
      ∧ (held.holds .a (.out 1) = true ∧ (held.out 1).gated = true ∧ held.permit.state ≠ .running)
      ∧ (8 ≤ (8#8).toNat ∧ (7#8).toNat = (7 : Fin 8).val ∧ 4 ≤ (4#8).toNat ∧ (2#8).toNat ≤ 2 ∧ 2 ≤ (2#8).toNat) :=
  ⟨⟨busy_readyA, busy_levels, busy_liveA, held_ready.1, held_ready.2.1, held_ready.2.2.1⟩, by decide +kernel⟩

theorem witness_LinesAct_pulse :
    let q : ImmediatePulse := { level := .high, left := 0, trailing := .low }
    let s := withWork (busy.setOut 7 { busy.out 7 with pulse := some q }) (.immediatePulseEnd 7)
    Due s (.immediatePulseEnd 7) ∧ (s.out 7).pulse = some q ∧ q.left = 0 := ⟨due_of rfl, by decide +kernel, rfl⟩

/-- OUT0 is held by A with C waiting, OUT7 is free; the resources end at 17h. -/
theorem witness_Claims :
    (Ready busy .a ∧ Ready busy .c ∧ LevelsFormed busy ∧ OpenLive busy .a sessionA ∧ OpenLive busy .c sessionC ∧ RoomFor 3 busy)
      ∧ (resourceOf? 2#8 = none ∧ resourceOf? 0x18#8 = none ∧ resourceOf? 0x17#8 = some (.out 7) ∧ resourceOf? 0x10#8 = some (.out 0) ∧ 2 ≤ (2#8).toNat)
      ∧ ((busy.claimOf (.out 7)).holder = none ∧ (busy.claimOf (.out 0)).holder = some .a ∧ .c ∈ (busy.claimOf (.out 0)).waiters
        ∧ .c ∉ (busy.claimOf .time).waiters ∧ (busy.claimOf .time).holder = some .a) :=
  ⟨⟨busy_readyA, busy_readyC, busy_levels, busy_liveA, busy_liveC, busy_room⟩, by decide +kernel⟩

/-- A releases OUT0 with its entry there, and in the second state with none. -/
theorem witness_ReleaseHandsOver :
    (busy.holds .a (.out 0) = true ∧ busy.holds .c (.out 0) = false ∧ busy.entry 0 = some (entryOn 0) ∧ (entryOn 0).owner = .a
        ∧ (entryOn 0).line = some 0)
      ∧ (Ready unscheduled .a ∧ LevelsFormed unscheduled ∧ OpenLive unscheduled .a sessionA ∧ RoomFor 3 unscheduled)
      ∧ unscheduled.holds .a (.out 0) = true ∧ ∀ i, unscheduled.entry i = none :=
  ⟨by decide +kernel, unscheduled_ready, by decide +kernel, by decide +kernel⟩

theorem witness_ConfigureChecks :
    (Ready busy .a ∧ Ready busy .c ∧ LevelsFormed busy ∧ OpenLive busy .a sessionA ∧ OpenLive busy .c sessionC)
      ∧ (busy.holds .a .config = true ∧ busy.holds .c .config = false ∧ busy.permit.state ≠ .stopped)
      ∧ (∀ row ∈ configureRows, row.2.1 ≤ (BitVec.ofNat 8 row.2.1).toNat ∧ (BitVec.ofNat 8 (row.2.1 - 1)).toNat < row.2.1)
      ∧ (∀ x ∈ configureRows.zip [50000001, 2, 3, 65536, 256, 65, 65536, 2, 2, 2, 60001, 2], x.1.2.2.1 x.2 = false ∧ x.1.2.2.1 (x.2 - 1) = true)
      ∧ (1 ≤ (1#32).toNat ∧ (1#32).toNat < owned busy .a) :=
  ⟨⟨busy_readyA, busy_readyC, busy_levels, busy_liveA, busy_liveC⟩, by decide +kernel⟩

/-- STOPPED with no entry on OUT7 and none at all past the limits of the groups. -/
theorem witness_ConfigureStores :
    (Ready stopped .a ∧ LevelsFormed stopped ∧ OpenLive stopped .a sessionA ∧ RoomFor 3 stopped)
      ∧ (stopped.holds .a .config = true ∧ stopped.permit.state = .stopped ∧ owned stopped .a ≤ (64#32).toNat)
      ∧ (∀ i e, stopped.entry i = some e → e.line ≠ some 7) ∧ (stopped.condition .entryLate).action ≠ .stop
      ∧ (stopped.condition .entryLate).action = .note := by
  refine ⟨stopped_ready, by decide +kernel, ?_, by decide +kernel, by decide +kernel⟩
  have h : ∀ i, (stopped.entry i).all (fun e => e.line != some 7) = true := by decide +kernel
  intro i e he hl
  have := h i
  rw [he] at this
  simp [hl] at this

/-! The permit and the conditions -/

theorem witness_PermitTables :
    (∀ p, Permit.initial.electors.get p = none)
      ∧ (held.permit.electors.get .c = some { vote := .hold, forced := false } ∧ held.permit.partVote ≠ .stop)
      ∧ (busy.permit.electors.get .c = some { vote := .go, forced := false } ∧ busy.permit.partVote ≠ .stop)
      ∧ ({ busy.permit with partVote := .stop } : Permit).partVote = .stop :=
  ⟨fun p => by cases p <;> rfl, by decide +kernel, by decide +kernel, rfl⟩

/-- A is no elector and C is one; a vote of C moves the permit, one of GO does not; nothing is scheduled in the second state. -/
theorem witness_Electorate :
    (Ready busy .a ∧ Ready busy .c ∧ LevelsFormed busy ∧ OpenLive busy .a sessionA ∧ OpenLive busy .c sessionC)
      ∧ (busy.permit.electors.get .a = none ∧ (busy.permit.electors.get .c).isSome = true ∧ busy.permit.aggregate ≠ .stop
        ∧ busy.permit.state ≠ .stopped)
      ∧ (3 ≤ (3#8).toNat ∧ (2#8).toNat = voteCode .go)
      ∧ (Ready unscheduled .c ∧ OpenLive unscheduled .c sessionC ∧ (∀ i, unscheduled.entry i = none)
        ∧ (permitAfter { unscheduled.permit with electors := unscheduled.permit.electors.set .c none } 40 .electorate).state
          ≠ unscheduled.permit.state) :=
  ⟨⟨busy_readyA, busy_readyC, busy_levels, busy_liveA, busy_liveC⟩, by decide +kernel, by decide +kernel,
    ready_of (by decide +kernel), ⟨by decide +kernel, rfl⟩, by decide +kernel, by decide +kernel⟩

theorem witness_StopEndsGatedWork :
    Ready busy .c ∧ LevelsFormed busy ∧ OpenLive busy .c sessionC ∧ (busy.permit.electors.get .c).isSome = true ∧ busy.permit.aggregate ≠ .stop
      ∧ busy.permit.state ≠ .stopped ∧ onGatedLine busy (entryOn 1) = true ∧ onGatedLine busy (entryOn 0) = false
      ∧ (busy.out 1).gated = true ∧ (busy.out 0).gated = false :=
  ⟨busy_readyC, busy_levels, busy_liveC, by decide +kernel⟩

/-- ARMING at the end of its delay, and a part vote the permit unit has not taken. -/
theorem witness_PermitEvents :
    let s := withWork { unscheduled with permit := { unscheduled.permit with state := .arming, timer := some 0, prun := .low } } .delayExpired
    let u := { unscheduled with conditions := { unscheduled.conditions with partVote := .stop } }
    (Due s .delayExpired ∧ s.permit.state = .arming ∧ s.permit.timer = some 0 ∧ RoomFor 1 s)
      ∧ u.tickWork = [] ∧ u.conditions.partVote ≠ u.permit.partVote :=
  ⟨⟨due_of rfl, rfl, rfl, room_of (by decide +kernel)⟩, by decide +kernel⟩

/-- A raise waiting, of a condition that is latched and of one that is not. -/
def raising (c : Condition) : State := { busy with conditions := { busy.conditions with raises := [c] } }

theorem witness_ConditionLatches :
    (nextEvent (raising .refLost) = some .raise ∧ ((raising .refLost).condition .refLost).firstLatched.isSome = true)
      ∧ (nextEvent (raising .entryLate) = some .raise ∧ ((raising .entryLate).condition .entryLate).firstLatched = none)
      ∧ RoomFor 1 (raising .entryLate) := ⟨by decide +kernel, by decide +kernel, room_of (by decide +kernel)⟩

/-- A may clear as the CONFIG holder, C as an elector, and from a third state neither. -/
theorem witness_ConditionClears :
    (Ready busy .a ∧ Ready busy .c ∧ LevelsFormed busy ∧ OpenLive busy .a sessionA ∧ OpenLive busy .c sessionC ∧ RoomFor 1 busy)
      ∧ (busy.holds .a .config = true ∧ (busy.permit.electors.get .c).isSome = true)
      ∧ (Ready stopped .c ∧ (stopped.permit.electors.get .c).isSome = false ∧ stopped.holds .c .config = false)
      ∧ (4 ≤ (4#8).toNat ∧ (3#8).toNat = conditionCode .entryLate)
      ∧ ((busy.condition .refLost).active = false ∧ (busy.condition .refLost).firstLatched.isSome = true
        ∧ (busy.condition .entryLate).firstLatched = none) :=
  ⟨⟨busy_readyA, busy_readyC, busy_levels, busy_liveA, busy_liveC, room_of (by decide +kernel)⟩, by decide +kernel,
    ⟨ready_of (by decide +kernel), by decide +kernel⟩, by decide +kernel, by decide +kernel⟩

/-- The level of TIME_INVALID is active. -/
theorem witness_ConditionClears_active :
    let s := conclude
      { busyBlocks with
        conditions := { busyBlocks.conditions with timeInvalid := { active := true, firstLatched := some 0, action := .note } } }
    Ready s .a ∧ LevelsFormed s ∧ OpenLive s .a sessionA ∧ s.holds .a .config = true ∧ (s.condition .timeInvalid).active = true :=
  ⟨ready_of (by decide +kernel), conclude_formed _, ⟨by decide +kernel, rfl⟩, by decide +kernel, by decide +kernel⟩

/-! Lapse, reset and the invariants -/

/-- The deadline of C, an elector and a holder, at 0; and one of D, which is neither. -/
theorem witness_LapseTakesTheSay :
    let x := { sessionC with deadline := some 0 }
    let s := withWork (busy.setSession .c (some x)) (.lapse .c)
    let u := withWork (busy.setSession .d (some x)) (.lapse .d)
    (Due s (.lapse .c) ∧ s.session .c = some x ∧ x.liveness = .live ∧ x.deadline = some 0 ∧ (s.permit.electors.get .c).isSome = true)
      ∧ (Due u (.lapse .d) ∧ u.session .d = some x ∧ RoomFor 1 u) ∧ u.permit.electors.get .d = none
      ∧ ∀ r, u.holds .d r = false ∧ .d ∉ (u.claimOf r).waiters := by
  refine ⟨⟨due_of rfl, by decide +kernel⟩, ⟨due_of rfl, by decide +kernel, room_of (by decide +kernel)⟩, by decide +kernel, fun r => ?_⟩
  rcases r with _ | _ | n
  · decide +kernel
  · decide +kernel
  · revert n; decide +kernel

/-- The part after RSTn falls in a busy state. -/
def reset : State := after .rstnFall busy

theorem reset_empty : InReset reset where
  journal := by decide +kernel
  ports := fun p => by cases p <;> decide +kernel
  entries := by decide +kernel
  claims := fun r => by
    rcases r with _ | _ | n
    · decide +kernel
    · decide +kernel
    · revert n; decide +kernel
  permit := by decide +kernel
  conditions := ⟨by decide +kernel, by decide +kernel, fun c => by cases c <;> decide +kernel⟩
  outs := by decide +kernel

theorem witness_ResetLine :
    (quiet busy = true ∧ busy.rstn = .high) ∧ quiet reset = true ∧ reset.rstn = .low ∧ InReset reset
      ∧ reset.time.validity = .valid ∧ reset.time.refState = .locked :=
  ⟨by decide +kernel, by decide +kernel, by decide +kernel, reset_empty, by decide +kernel, by decide +kernel⟩

theorem witness_ResetHolds : (reset.rstn = .low → InReset reset) ∧ idleStep reset = reset := ⟨fun _ => reset_empty, by decide +kernel⟩

theorem witness_DrivesAndAttention :
    LevelsFormed busy ∧ busy.rstn = .high ∧ busy.tickWork = [] ∧ (busy.out 0).gated = false ∧ (busy.out 1).gated = true
      ∧ busy.permit.state = .running ∧ stopped.permit.state = .stopped ∧ LevelsFormed held ∧ held.permit.state = .held :=
  ⟨busy_levels, by decide +kernel, by decide +kernel, by decide +kernel, by decide +kernel, by decide +kernel, by decide +kernel,
    conclude_formed _, by decide +kernel⟩

theorem witness_RunningMeansEveryoneVotesGo : PermitSafe busy ∧ busy.permit.state = .running where
  left :=
    { unit := ⟨by decide +kernel, by decide +kernel, by decide +kernel, by decide +kernel, by decide +kernel, by decide +kernel, by decide +kernel⟩
      lapsed := fun p e x he hx hl => by
        have h : ∀ p ∈ allPorts, (busy.permit.electors.get p).isSome = true → (busy.session p).all (fun x => x.liveness != .lapsed) = true := by
          decide +kernel
        have := h p (by cases p <;> decide) (by simp [he])
        simp [hx, hl] at this }
  right := by decide +kernel

theorem witness_EveryStepKeepsReaders : ReadersConsistent busy where
  journal := ⟨by decide +kernel, by decide +kernel, by decide +kernel⟩
  readers := fun p x hx => by
    have h : ∀ p ∈ allPorts, (busy.session p).all (fun x => decide (oldestSeq busy ≤ x.reader.cursor ∧ x.reader.cursor ≤ x.reader.readMark
        ∧ x.reader.readMark ≤ endSeq busy)) = true := by decide +kernel
    have := h p (by cases p <;> decide)
    rw [hx] at this
    simpa using this

theorem witness_EveryStepKeepsTables : TablesConsistent busy where
  claims := witness_Widths.1
  time := by decide +kernel
  refHz := by decide +kernel
  trim := by decide +kernel
  filter := by decide +kernel
  budget := by decide +kernel
  quota := fun p => by cases p <;> decide +kernel
  tolerance := by decide +kernel
  delay := by decide +kernel

theorem witness_EveryStepKeepsSchedule : ScheduleConsistent busy where
  quota := fun p => by cases p <;> decide +kernel
  holder := fun i e k he hk => by
    have h : ∀ i k, (busy.entry i).all (fun e => e.line != some k || (busy.claimOf (.out k)).holder == some e.owner) = true := by decide +kernel
    have := h i k
    rw [he] at this
    simpa [hk] using this
  gated := fun h => absurd h (by decide +kernel)

/-! ### Witnesses of the clauses on transactions in progress, late entries, lists and settings that change -/

/-- A transaction opened on port A with a first byte. -/
def opened (first : Byte) : State := after (.transactionStart .a first) busy

/-- A transaction of each kind in progress: a row of its kind can end there, and a row of another cannot. -/
theorem witness_transactions :
    (∀ x ∈ [(0xA5#8, Transaction.commandWrite), (0x3C#8, .fetch), (0xC3#8, .portClear)],
        quiet (opened x.1) = true ∧ (opened x.1).rstn = .high ∧ ((opened x.1).port .a).transaction = x.2 ∧ x.2 ≠ .idle)
      ∧ CanEnd (opened 0x3C#8) .a .fetch ∧ CanEnd (opened 0xC3#8) .a .portClear ∧ ¬ CanEnd (opened 0x3C#8) .a .commandWrite
      ∧ ¬ CanEnd (opened 0xA5#8) .a .fetch ∧ ¬ CanEnd (opened 0xA5#8) .a .portClear ∧ frameFields? (.leave .a 7#8) = some (.a, 7#8, 0x51#8, []) :=
  ⟨by decide +kernel, canEnd_of (by decide +kernel), canEnd_of (by decide +kernel), fun h => h.2.elim (by decide +kernel) (by decide +kernel),
    fun h => h.2.elim (by decide +kernel) (by decide +kernel), fun h => h.2.elim (by decide +kernel) (by decide +kernel), rfl⟩

/-- A transaction opened on port A with a first byte, and then a reset of the part while chip select stays LOW. -/
def discardedAt (first : Byte) : State := after .rstnRise (after .rstnFall (opened first))

/-- A discarded transaction of each kind, with RSTn LOW and with RSTn HIGH again. -/
theorem witness_discarded :
    ∀ x ∈ [(0xA5#8, Transaction.commandWrite), (0x3C#8, .fetch), (0xC3#8, .portClear)],
      (quiet (discardedAt x.1) = true ∧ (discardedAt x.1).rstn = .high ∧ ((discardedAt x.1).port .a).discarded = x.2)
        ∧ quiet (after .rstnFall (opened x.1)) = true ∧ (after .rstnFall (opened x.1)).rstn = .low
        ∧ ((after .rstnFall (opened x.1)).port .a).discarded = x.2 := by decide +kernel

/-- R176: the end of a command write that a reset discarded opens no session; the next whole OPEN does. -/
theorem test_discarded_write :
    let open_ := Instr.openSession .a 1#8 0#8 0#16 0#16 0#8 0#8 0#16
    let ended := after open_ (discardedAt 0xA5#8)
    ended.session .a = none ∧ (ended.port .a).queue = [] ∧ (ended.port .a).discarded = .idle ∧ ((after open_ ended).session .a).isSome = true := by
  decide +kernel

/-- R193: a bad frame begun while RSTn is LOW and ended after it has returned HIGH sets no CRC_DROPPED; the next one does. -/
theorem test_begun_in_reset :
    let bad := Instr.commandWrite .a [0xA5#8, 0#8]
    let ended := after bad (after .rstnRise (after (.transactionStart .a 0xA5#8) reset))
    (ended.port .a).crcDropped = false ∧ ((after bad ended).port .a).crcDropped = true := by decide +kernel

theorem opened_ready : Ready (opened 0xA5#8) .a ∧ (opened 0xC3#8).session .a = some sessionA :=
  ⟨⟨by decide +kernel, by decide +kernel, canEnd_of (by decide +kernel), by decide +kernel⟩, by decide +kernel⟩

/-- One clear byte is no port clear and no frame, and can end a port clear in progress. -/
theorem witness_FramesDropped_clear :
    (0xC3#8 : Byte) ≠ fetchByte ∧ [0xC3#8] ≠ clearFrame ∧ CanEnd (opened 0xC3#8) .a .portClear
      ∧ ∀ tag command payload, payload.length ≤ 300 → [(0xC3#8 : Byte)] ≠ commandFrame tag command payload := by
  refine ⟨by decide, by decide, canEnd_of (by decide +kernel), fun tag command payload _ h => ?_⟩
  have := congrArg List.length h
  simp [commandFrame_length] at this

/-- Code 08h names no command; a note of 0 and of 17 bytes, an ENROLL of 2 and an ADD_ENTRY of 25 have a length their command does not allow. -/
theorem witness_SessionChecks_lengths :
    (0x08#8 ∉ commandLengths.map Prod.fst)
      ∧ ∀ x ∈ [(0x20#8, 1, 16, 0), (0x20#8, 1, 16, 17), (0x50#8, 0, 1, 2), (0x30#8, 26, 26, 25)],
          (x.1, x.2.1, x.2.2.1) ∈ commandLengths ∧ (x.2.2.2 < x.2.1 ∨ x.2.2.1 < x.2.2.2) := by decide +kernel

theorem witness_Widths_notes : ∀ r ∈ busy.journal.store, ∀ bs, r.body = .note bs → bs.length ≤ 16 := by
  have h : ∀ r ∈ busy.journal.store, r.body.kind ≠ .note := by decide +kernel
  intro r hr bs hb
  exact absurd (by rw [hb]; rfl) (h r hr)

/-- A has a LIVE session and B a LAPSED one; a mode, a start, a window and a filter just past their ranges; and a journal in WITHHOLDING. -/
theorem witness_OpenBeginsSession_refused :
    (busy.session .a = some sessionA ∧ busy.session .b = some sessionB ∧ busy.session .d = none)
      ∧ (2 ≤ (2#8).toNat ∧ ((1 ≤ (9#16).toNat ∧ (9#16).toNat ≤ 9) ∧ 60000 < (60001#16).toNat) ∧ 0x4000#16 &&& 0xC001#16 ≠ 0#16
        ∧ 0x20#8 &&& 0xE0#8 ≠ 0#8 ∧ (1#8).toNat < 2)
      ∧ (Ready (fullJournal true .withholding) .d ∧ (fullJournal true .withholding).session .d = none
        ∧ (fullJournal true .withholding).journal.state = .withholding ∧ (fullJournal true .withholding).journal.withheld < 4294967295) :=
  ⟨by decide +kernel, by decide +kernel, ready_of (by decide +kernel), by decide +kernel, by decide +kernel, by decide +kernel⟩

/-- Identifiers just past a group's instances, and of no group. -/
theorem witness_AddressedQueriesAnswer_none :
    ∀ param ∈ [0x0A08#16, 0x0101#16, 0x0210#16, 0x0C04#16, 0x0D00#16, 0x0000#16],
      ∀ row ∈ ([(1, 1), (2, 16), (3, 16), (4, 16), (5, 16), (6, 4), (7, 1), (8, 8), (9, 8), (10, 8), (11, 1), (12, 4)] : List (Nat × Nat)),
        param.toNat / 256 = row.1 → row.2 ≤ param.toNat % 256 := by simp

/-- A line at a tick at which its settings differ from those in force. -/
def changing (stored inForce : LineConfig) : State :=
  conclude
    ((busyBlocks.setTime { busyBlocks.time with acc := 1 }).setEventLine 3
      { EventLine.initial with cfg := stored, inForce := inForce, tracked := some .low, qual := .qualifying .high 4, window := 9999 })

/-- A filter length, an edge select and a budget that changed; a line that stays disabled, and one about to be enabled and disabled. -/
theorem witness_SampleQualifies_changing :
    let c : LineConfig := { enabled := true, edge := .both, filter := 9, budget := 3 }
    ∀ x ∈ [({ c with filter := 0 }, c), ({ c with edge := .rise }, c), ({ c with budget := 0 }, c),
        ({ c with enabled := false }, { c with enabled := false }), (c, { c with enabled := false }), ({ c with enabled := false }, c)],
      nextEvent (changing x.1 x.2) = some .tick ∧ ((changing x.1 x.2).line 3).cfg = x.1
        ∧ ((changing x.1 x.2).line 3).inForce = x.2 ∧ x.1 ≠ x.2 ∨ x.1.enabled = false := by decide +kernel

/-- The loss is due and nothing counts: no slew; one that ends within the credit; and one that does not. -/
def losing (slew : Option Slew) (s : State) : State :=
  conclude
    { s with
      schedule := Schedule.initial
      time := { busyBlocks.time with lossCount := 100, slew := slew }
      ports := s.ports.map fun x => { x with session := x.session.map fun y => { y with deadline := none } } }

theorem still_of {s : State}
    (h : (s.time.step.isNone && allPorts.all (fun p => !(s.time.strobes.get p).armed && (s.session p).all fun x => x.deadline.isNone)
      && (List.finRange 16).all (fun n => !(s.line n).inForce.enabled && !(s.line n).cfg.enabled)
      && (List.finRange 64).all (fun i => (s.entry i).all fun e => e.due.isNone && e.running.isNone)
      && (List.finRange 8).all (fun k => (s.out k).pulse.isNone) && s.permit.timer.isNone) = true) : Still s := by
  simp only [Bool.and_eq_true, List.all_eq_true, Option.isNone_iff_eq_none, Bool.not_eq_true', List.mem_finRange, true_implies,
    Option.all_eq_true] at h
  obtain ⟨⟨⟨⟨⟨h1, h2⟩, h3⟩, h4⟩, h5⟩, h6⟩ := h
  exact ⟨h1, fun p => (h2 p (by cases p <;> decide)).1, h3, h4, h5, h6, fun p => (h2 p (by cases p <;> decide)).2⟩

def slewOf (amount : Int) (progress : Rat) : Slew := { amount := amount, rate := 500, progress := progress, issuer := .a }

theorem witness_ReferenceEvents_credit :
    (∀ x ∈ [none, some (slewOf 1 (9999 / 10000)), some (slewOf (-1000) 0)],
        lossIsDue (losing x busyBlocks) = true ∧ nextEvent (losing x busyBlocks) = none ∧ (losing x busyBlocks).rstn = .high
          ∧ (losing x busyBlocks).time.lossCount = 100 ∧ (losing x busyBlocks).time.partTime = 40)
      ∧ ((1 : Rat) - 9999 / 10000 ≤ 100 * (500 / 20000000) ∧ ¬ (1000 : Rat) ≤ 100 * (500 / 20000000))
      ∧ lossIsDue (losing none (fullJournal true .accepting)) = true ∧ nextEvent (losing none (fullJournal true .accepting)) = none
      ∧ 512 ≤ (losing none (fullJournal true .accepting)).journal.store.length
      ∧ oldestPinned (losing none (fullJournal true .accepting)) = true := by decide +kernel

theorem witness_ReferenceEvents_still (slew : Option Slew) (h : slew ∈ [none, some (slewOf 1 (9999 / 10000)), some (slewOf (-1000) 0)]) :
    Still (losing slew busyBlocks) ∧ LevelsFormed (losing slew busyBlocks) ∧ RoomFor 2 (losing slew busyBlocks) :=
  ⟨still_of (by revert slew; decide +kernel), conclude_formed _, room_of (by revert slew; decide +kernel)⟩

theorem witness_ReferenceEvents_full :
    Still (losing none (fullJournal true .accepting)) ∧ LevelsFormed (losing none (fullJournal true .accepting)) :=
  ⟨still_of (by decide +kernel), conclude_formed _⟩

/-! Lists of entries -/

/-- A list of slots checked slot by slot. -/
theorem listed_of {s : State} {test : Entry → Prop} {before : Entry → Entry → Prop} {L : List (Fin 64)} (tb : Entry → Bool)
    (bb : Entry → Entry → Bool) (ht : ∀ e, tb e = true ↔ test e) (hb : ∀ e f, bb e f = true → before e f)
    (h : ∀ i, L.contains i = (s.entry i).any tb) (hp : L.Pairwise fun i j => (s.entry i).all (fun e => (s.entry j).all (bb e)) = true) :
    Listed s test before L := by
  refine ⟨fun i => ?_, hp.imp fun h e f he hf => hb e f (by simpa [he, hf] using h)⟩
  have := h i
  cases hi : s.entry i with
  | none => simpa [hi] using this
  | some e => simp [hi, ← ht] at this ⊢; cases ht' : tb e <;> simp [ht'] at this ⊢ <;> exact this

def dueFirst (e f : Entry) : Bool :=
  match e.due, f.due with
  | some d, some d' => decide (d < d' ∨ (d = d' ∧ e.admission < f.admission))
  | _, _ => false

theorem dueFirst_before {e f : Entry} (h : dueFirst e f = true) : dueBefore e f := by
  unfold dueFirst at h
  split at h
  · next d d' h1 h2 => exact ⟨d, d', h1, h2, by simpa using h⟩
  · cases h

/-- Slots 0 and 1 hold ABSOLUTE entries due at 100, the second admitted later; a step to 100 passes over both, one to 99 over neither. -/
def passing (offset : Int) : State := stepping offset true (State.putEntry busy 1 (some { entryOn 1 with admission := 1 }))

theorem witness_CatchUp_step (offset : Int) (L : List (Fin 64)) (h : (offset = 60 ∧ L = [0, 1]) ∨ (offset = 59 ∧ L = [])) :
    nextEvent (passing offset) = some .step ∧ RoomFor (3 + 2 * L.length) (passing offset)
      ∧ Listed (passing offset) (fun e => e.anchor = .absolute ∧ (e.state = .pending ∨ e.state = .pulsing)
          ∧ ∃ d, e.due = some d ∧ 40 < d ∧ (d : Int) ≤ 40 + offset) dueBefore L := by
  have reach (e : Entry) : (e.due.any fun d : Nat => decide (40 < d ∧ (d : Int) ≤ 40 + offset)) = true
      ↔ ∃ d, e.due = some d ∧ 40 < d ∧ (d : Int) ≤ 40 + offset := by
    simp [Option.any_eq_true]
  have list := fun h hp => listed_of (s := passing offset) (L := L)
    (fun e => decide (e.anchor = .absolute ∧ (e.state = .pending ∨ e.state = .pulsing))
      && e.due.any fun d : Nat => decide (40 < d ∧ (d : Int) ≤ 40 + offset))
    dueFirst (fun e => by rw [Bool.and_eq_true, reach, decide_eq_true_eq, and_assoc]) (fun _ _ => dueFirst_before) h hp
  rcases h with ⟨rfl, rfl⟩ | ⟨rfl, rfl⟩ <;> exact ⟨by decide +kernel, room_of (by decide +kernel), list (by decide +kernel) (by decide +kernel)⟩

/-- The waiting entry of slot 2 is late as it takes the edge: 40 - 30 + 5 lies below 40. -/
theorem witness_CatchUp_edge :
    let s := edgeBlocks .rise 0 0
    let take := fun e : Entry => { e with anchor := .relative, due := e.trigger.map fun g => 10 + g.offset, state := .pending }
    Due s (.edgeQualified 0) ∧ RoomFor 3 s
      ∧ Listed s (fun e => e.awaits 0 .rise = true ∧ (take e).lateAt s.time.partTime = true) (fun e f => dueBefore (take e) (take f)) [2] :=
  ⟨due_of rfl, room_of (by decide +kernel),
    listed_of (fun e => e.awaits 0 .rise
        && ({ e with anchor := .relative, due := e.trigger.map fun g => 10 + g.offset, state := .pending } : Entry).lateAt
            (edgeBlocks .rise 0 0).time.partTime)
      (fun _ _ => false) (fun e => Bool.and_eq_true ..▸ Iff.rfl) (fun _ _ h => by cases h) (by decide +kernel) (by decide)⟩

/-- An admission that is late, FIRE_LATE and journaled, at its due time. -/
theorem witness_CatchUp_admission :
    (planned { descriptor with timeValue := 40#64 } 40).map (fun e => (e.due, e.late, e.line)) = some (some 40, .fireLate, some 0)
      ∧ busy.holds .a (.out 0) = true ∧ (busy.out 0).gated = false ∧ owned busy .a < busy.schedule.quotas.get .a ∧ busy.entry 3 = none
      ∧ (∀ j : Fin 64, j < 3 → (busy.entry j).isSome = true) := by decide +kernel

theorem witness_CatchUp_room : RoomFor 2 busy := room_of (by decide +kernel)

/-- HELD by a vote of C, with an entry deferred with its due time past, and one with its due time above part time. -/
def resuming : State :=
  conclude
    (State.putEntry (State.putEntry held 0 (some { entryOn 1 with due := some 40, state := .deferred }))
      1 (some { entryOn 1 with due := some 41, state := .deferred, admission := 1 }))

theorem witness_Electorate_resume :
    (Ready resuming .c ∧ LevelsFormed resuming ∧ OpenLive resuming .c sessionC ∧ RoomFor 3 resuming ∧ resuming.permit.state = .held
        ∧ (resuming.permit.electors.get .c).isSome = true ∧ (2#8).toNat = voteCode .go)
      ∧ (permitAfter { resuming.permit with electors := resuming.permit.electors.set .c (some { vote := .go, forced := false }) } 40
          (.vote .c .go)).state = .running
      ∧ (∀ i e, resuming.entry i = some e → e.state = .deferred → e.due.isSome = true ∧ e.running = none)
      ∧ Listed resuming (fun e => e.state = .deferred ∧ e.lateAt resuming.time.partTime = true) dueBefore [0] := by
  refine ⟨⟨ready_of (by decide +kernel), conclude_formed _, ⟨by decide +kernel, rfl⟩, room_of (by decide +kernel), by decide +kernel⟩,
    by decide +kernel, fun i e he _ => ?_, ?_⟩
  · have h : ∀ i, (resuming.entry i).all (fun e => e.state != .deferred || (e.due.isSome && e.running.isNone)) = true := by decide +kernel
    have := h i
    rw [he] at this
    simp_all
  · exact listed_of (fun e => e.state == .deferred && e.lateAt resuming.time.partTime) (fun _ _ => false) (fun e => by simp)
      (fun _ _ h => by cases h) (by decide +kernel) (by decide)

/-- A pulse overtaken by its next occurrence, in RUNNING and in HELD on the gated line. -/
theorem witness_overtaken :
    let e := { entryOn 1 with
      action := .pulse, due := some 40, state := .pulsing, pulseLevel := .high, width := 9, period := some 10
      running := some { left := 3, trailing := .low } }
    let s := entryState busy e (.entryDue 0)
    let u := entryState held e (.entryDue 0)
    (Due s (.entryDue 0) ∧ s.entry 0 = some e ∧ e.action = .pulse ∧ deferredNow s e = false ∧ RoomFor 2 s)
      ∧ Due u (.entryDue 0) ∧ u.entry 0 = some e ∧ u.permit.state = .held ∧ e.line = some 1 ∧ (u.out 1).gated = true :=
  ⟨⟨due_of rfl, by decide +kernel, rfl, by decide +kernel, room_of (by decide +kernel)⟩, due_of rfl, by decide +kernel, by decide +kernel, rfl,
    by decide +kernel⟩

/-- A identifier of no group is CONFIGUREd by the holder and by another master. -/
theorem witness_ConfigureChecks_group :
    (0#8 : Byte) = 0#8 ∧ 12 < (13#8).toNat ∧ busy.holds .a .config = true ∧ busy.holds .c .config = false := by decide +kernel

/-- OUT0 is ungated with an entry on it. -/
theorem witness_ConfigureStores_gated :
    (stopped.out 0).gated = false ∧ RoomFor 2 stopped ∧ (1#32).toNat = 1 ∧ Listed stopped (fun e => e.line = some 0) admittedBefore [0] :=
  ⟨by decide +kernel, room_of (by decide +kernel), rfl,
    listed_of (fun e => decide (e.line = some 0)) (fun _ _ => false) (by simp) (fun _ _ h => by cases h) (by decide +kernel) (by decide)⟩

/-- ENTRY_LATE is latched with action STOP and is all that keeps the permit STOPPED; its action becomes NOTE. -/
theorem witness_ConfigureStores_action :
    let conditions :=
      { busyBlocks.conditions with entryLate := { active := false, firstLatched := some 9, action := .stop }, partVote := .stop }
    let s := conclude
      { busyBlocks with
        conditions := conditions
        permit := { busyBlocks.permit with partVote := .stop, aggregate := .stop, state := .stopped, prun := .low } }
    (Ready s .a ∧ LevelsFormed s ∧ OpenLive s .a sessionA ∧ RoomFor 2 s ∧ s.holds .a .config = true ∧ s.permit.state = .stopped)
      ∧ (s.condition .entryLate).action ≠ .note
      ∧ (permitAfter { s.permit with partVote := formPartVote (s.conditions.set .entryLate { s.condition .entryLate with action := .note }) }
          40 .partVote).state ≠ .stopped :=
  ⟨⟨ready_of (by decide +kernel), conclude_formed _, ⟨by decide +kernel, rfl⟩, room_of (by decide +kernel), by decide +kernel, by decide +kernel⟩,
    by decide +kernel, by decide +kernel⟩

theorem listed_gated (s : State) (h : s = busy ∨ s = busy.setSession .c (some { sessionC with deadline := some 0 })) :
    Listed s (fun e => onGatedLine s e = true) admittedBefore [1] := by
  rcases h with rfl | rfl <;>
  exact listed_of (onGatedLine _) (fun _ _ => false) (fun _ => Iff.rfl) (fun _ _ h => by cases h) (by decide +kernel) (by decide)

theorem witness_StopEndsGatedWork_list : RoomFor (1 + [1].length) busy ∧ Listed busy (fun e => onGatedLine busy e = true) admittedBefore [1] :=
  ⟨room_of (by decide +kernel), listed_gated _ (.inl rfl)⟩

/-- The lapse of C stops the permit with one entry on the gated line; that of A hands TIME and CONFIG over; one finds the journal WITHHOLDING. -/
theorem witness_Lapse_list :
    let s := withWork (busy.setSession .c (some { sessionC with deadline := some 0 })) (.lapse .c)
    let u := withWork ((busy.setSession .a (some { sessionA with deadline := some 0 })).setClaim .time { holder := some .a, waiters := [.d, .c] })
      (.lapse .a)
    let v := withWork ((fullJournal true .withholding).setSession .d (some { sessionC with deadline := some 0 })) (.lapse .d)
    (Due s (.lapse .c) ∧ RoomFor 7 s ∧ Listed s (fun e => onGatedLine s e = true) admittedBefore [1])
      ∧ (Due u (.lapse .a) ∧ u.holds .a .time = true ∧ u.holds .a .config = true ∧ RoomFor 7 u
        ∧ Listed u (fun e => onGatedLine u e = true) admittedBefore [1])
      ∧ Due v (.lapse .d) ∧ v.permit.electors.get .d = none ∧ v.journal.state = .withholding ∧ v.rstn = .high
        ∧ v.journal.withheld < 4294967295 := by
  refine ⟨⟨due_of rfl, room_of (by decide +kernel), ?_⟩, ⟨due_of rfl, by decide +kernel, by decide +kernel, room_of (by decide +kernel), ?_⟩,
    due_of rfl, by decide +kernel, by decide +kernel, by decide +kernel, by decide +kernel⟩
  all_goals
    exact listed_of (onGatedLine _) (fun _ _ => false) (fun _ => Iff.rfl) (fun _ _ h => by cases h) (by decide +kernel) (by decide)

/-- A step from HELD to HELD. -/
theorem witness_DrivesAndAttention_held :
    let s := { held with pending := [.identify .a 1#8] }
    (held.out 1).gated = true ∧ held.permit.state = .held ∧ ∃ t, step s = .next t ∧ t.permit.state = .held :=
  ⟨by decide +kernel, by decide +kernel, after (.identify .a 1#8) held, rfl, by decide +kernel⟩

theorem witness_DrivesAndAttention_safe : PermitSafe held where
  unit := ⟨by decide +kernel, by decide +kernel, by decide +kernel, by decide +kernel, by decide +kernel, by decide +kernel, by decide +kernel⟩
  lapsed := fun p e x he hx hl => by
    have h : ∀ p ∈ allPorts, (held.permit.electors.get p).isSome = true → (held.session p).all (fun x => x.liveness != .lapsed) = true := by
      decide +kernel
    have := h p (by cases p <;> decide) (by simp [he])
    simp [hx, hl] at this

/-! ### Two more single steps -/

/-- R4 and R163: with the oldest record pinned at a full journal, the raise of REF_LOST stands before that of JOURNAL_WITHHELD. -/
theorem test_loss_at_full_journal :
    (after (.holdoverEntered 0#16) (losing none (fullJournal true .accepting))).conditions.raises = [.refLost, .journalWithheld]
      ∧ (after (.holdoverEntered 0#16) (losing none (fullJournal true .accepting))).time.partTime = 45 := by decide +kernel

/-- R176: over the bytes of a command write the port shifts out the ready count and then 00h. -/
theorem test_write_shifts :
    ((after (.leave .d 1#8) busy).port .d).shifted = [0#8, 0#8, 0#8, 0#8, 0#8, 0#8, 0#8]
      ∧ ((after (.portClear .a) fullPort).port .a).shifted = [4#8, 0#8, 0#8, 0#8] := by decide +kernel

/-! ### Witnesses of the records of a close, a release, a stop by the part vote and a withheld raise -/

theorem takes_stop {s : State} {pm : Permit} {L : List (Fin 64)} (h1 : pm.state ≠ s.permit.state) (h2 : pm.state = .stopped)
    (h : Listed s (fun e => onGatedLine s e = true) admittedBefore L) : PermitTakes s pm L := by
  unfold PermitTakes; rw [if_neg h1, if_pos h2]; exact h

theorem takes_none {s : State} {pm : Permit} (h1 : pm.state ≠ .stopped) (h2 : s.permit.state ≠ .held) : PermitTakes s pm [] := by
  simp [PermitTakes, h1, h2]

theorem listed_one {s : State} {test : Entry → Prop} {before : Entry → Entry → Prop} {i : Fin 64} (tb : Entry → Bool) (ht : ∀ e, tb e = true ↔ test e)
    (h : ∀ j, [i].contains j = (s.entry j).any tb) : Listed s test before [i] :=
  listed_of tb (fun _ _ => false) ht (fun _ _ h => by cases h) h (by simp)

/-- The last elector C closes with an entry of its own, a line A waits for and an entry of A on the gated line; B closes in WITHHOLDING. -/
theorem witness_CloseLeavesNothing_records :
    let pm := permitAfter { busy.permit with electors := busy.permit.electors.set .c none } 40 .electorate
    let full := fullJournal true .withholding
    (Listed busy (fun e => e.owner = .c) admittedBefore [2] ∧ PermitTakes (closeReleased busy .c [2]) pm [1] ∧ RoomFor (22 + 1 + 2 * 1) busy
        ∧ (busy.claimOf (.out 2)).holder = some .c ∧ (busy.claimOf (.out 2)).waiters = [.a])
      ∧ Ready full .b ∧ full.session .b = some sessionB ∧ full.journal.state = .withholding ∧ full.permit.electors.get .b = none
        ∧ (∀ r ∈ allResources, full.holds .b r = false) ∧ ∀ i, (full.entry i).any (fun e => e.owner == .b) = false := by
  refine ⟨⟨listed_one (fun e => decide (e.owner = .c)) (by simp) (by decide +kernel), takes_stop (by decide +kernel) (by decide +kernel) ?_,
    room_of (by decide +kernel), by decide +kernel, by decide +kernel⟩, ready_of (by decide +kernel), by decide +kernel, by decide +kernel,
    by decide +kernel, by decide +kernel, by decide +kernel⟩
  exact listed_one (onGatedLine _) (fun _ => Iff.rfl) (by decide +kernel)

theorem witness_ReleaseHandsOver_list :
    Listed busy (fun e => ∃ k, Resource.out 0 = .out k ∧ e.owner = .a ∧ e.line = some k) admittedBefore [0] ∧ RoomFor (2 + [0].length) busy :=
  ⟨listed_one (fun e => decide (e.owner = .a ∧ e.line = some 0)) (by simp) (by decide +kernel), room_of (by decide +kernel)⟩

/-- The part vote becomes STOP in RUNNING with an entry on the gated line. -/
theorem witness_PermitEvents_stop :
    let s := { busy with conditions := { busy.conditions with partVote := .stop } }
    unfinished? s = none ∧ s.conditions.partVote ≠ s.permit.partVote ∧ RoomFor (1 + 2 * [1].length) s
      ∧ PermitTakes s (permitAfter { s.permit with partVote := .stop } 40 .partVote) [1] :=
  ⟨by decide +kernel, by decide +kernel, room_of (by decide +kernel), takes_stop (by decide +kernel) (by decide +kernel)
    (listed_one (onGatedLine _) (fun _ => Iff.rfl) (by decide +kernel))⟩

/-- C leaves in RUNNING, with an entry on the gated line; A enrols with GO in STOPPED, with entries in the schedule. -/
theorem witness_Electorate_entries :
    (Ready busy .c ∧ OpenLive busy .c sessionC ∧ RoomFor (1 + 2 * [1].length) busy
        ∧ PermitTakes busy (permitAfter { busy.permit with electors := busy.permit.electors.set .c none } 40 .electorate) [1])
      ∧ (Ready stopped .a ∧ OpenLive stopped .a sessionA ∧ stopped.permit.electors.get .a = none ∧ (2#8).toNat = voteCode .go
        ∧ RoomFor (1 + 2 * ([] : List (Fin 64)).length) stopped
        ∧ let pm := permitAfter
            { stopped.permit with electors := stopped.permit.electors.set .a (some { vote := .go, forced := false }) } 40 .electorate
          pm.state = .arming ∧ PermitTakes stopped pm []) := by
  refine ⟨⟨busy_readyC, busy_liveC, room_of (by decide +kernel), takes_stop (by decide +kernel) (by decide +kernel)
      (listed_one (onGatedLine _) (fun _ => Iff.rfl) (by decide +kernel))⟩,
    stopped_ready.1, stopped_ready.2.2.1, by decide +kernel, by decide, room_of (by decide +kernel), by decide +kernel, ?_⟩
  exact takes_none (by decide +kernel) (by decide +kernel)

/-- STOPPED by the part vote, which REF_LOST forms with action STOP, and C votes GO; a start delay in ms. -/
def stoppedByPart (delay : Nat) : State :=
  conclude
    { busyBlocks with
      conditions :=
        { busyBlocks.conditions with
          partVote := .stop, refLost := { active := false, firstLatched := some 0, action := .stop } }
      permit :=
        { busyBlocks.permit with partVote := .stop, aggregate := .stop, state := .stopped, startDelay := delay, prun := .low } }

/-- Clearing REF_LOST takes the permit to ARMING, and with a start delay of 0 to RUNNING. -/
theorem witness_ConditionClears_moves :
    ∀ x ∈ [(500, PermitState.arming), (0, .running)],
      let s := stoppedByPart x.1
      let pm := permitAfter { s.permit with partVote := .go } 40 .partVote
      Ready s .a ∧ LevelsFormed s ∧ OpenLive s .a sessionA ∧ s.holds .a .config = true ∧ (1#8).toNat = conditionCode .refLost
        ∧ (s.condition .refLost).active = false ∧ (s.condition .refLost).firstLatched.isSome = true
        ∧ formPartVote (s.conditions.set .refLost { s.condition .refLost with firstLatched := none }) = .go
        ∧ pm.state = x.2 ∧ PermitTakes s pm [] ∧ RoomFor (2 + 2 * ([] : List (Fin 64)).length) s := by
  intro x h
  simp only [List.mem_cons, List.not_mem_nil, or_false] at h
  rcases h with rfl | rfl <;>
    exact ⟨ready_of (by decide +kernel), conclude_formed _, ⟨by decide +kernel, rfl⟩, by decide +kernel, by decide, by decide +kernel,
      by decide +kernel, by decide +kernel, by decide +kernel, takes_none (by decide +kernel) (by decide +kernel), room_of (by decide +kernel)⟩

/-- R98, R146, R165: the clear that takes STOPPED to ARMING stores its record and then the PERMIT record, with cause PART_VOTE. -/
theorem test_clear_moves_permit :
    let t := after (.clearCondition .a 1#8 1#8) (stoppedByPart 500)
    (t.journal.store.drop (stoppedByPart 500).journal.store.length).map (·.body)
        = [.conditionCleared .refLost, .permit .stopped .arming .partVote]
      ∧ (t.session .c).map (·.notices) = some 0x04#8 := by decide +kernel

/-- The raise of JOURNAL_WITHHELD at the entry into WITHHOLDING, with an edge of the same tick still listed. -/
theorem witness_ConditionLatches_withheld :
    let full := fullJournal true .withholding
    let s := { withWork full (.edgeQualified 3) with conditions := { full.conditions with raises := [.journalWithheld] } }
    unfinished? s = none ∧ s.conditions.partVote = s.permit.partVote ∧ (s.condition .journalWithheld).firstLatched = none
      ∧ s.rstn = .high ∧ s.journal.state = .withholding ∧ s.journal.withheld < 4294967295 := by decide +kernel

/-- R109 and R163: a firing reaches the pin of its gated line though an edge of another line is still listed, and two firings of one tick
on a line reach it once, after the second. -/
theorem test_drive_formed_after_firings :
    let one := { busy.putEntry 0 (some { entryOn 1 with due := some 40 }) with tickWork := [.entryDue 0, .edgeQualified 3] }
    let two := { one.putEntry 1 (some { entryOn 1 with due := some 40, action := .clear, admission := 1 }) with
      tickWork := [.entryDue 0, .entryDue 1, .edgeQualified 3] }
    (one.out 1).driven = .low ∧ ((after (.entryDue 0) one).out 1).driven = .high ∧ (after (.entryDue 0) one).tickWork = [.edgeQualified 3]
      ∧ ((after (.entryDue 0) two).out 1).commanded = .high ∧ ((after (.entryDue 0) two).out 1).driven = .low
      ∧ ((after (.entryDue 1) (after (.entryDue 0) two)).out 1).driven = .low := by decide +kernel

/-- R85, R109, R115: an immediate pulse that ends at a tick at which an entry fires on its line leaves the pin to the firing. -/
theorem test_drive_formed_after_pulse_end :
    let s := { (busy.setOut 0 { busy.out 0 with commanded := .high, driven := .high, pulse := some { level := .high, left := 0, trailing := .low } }).putEntry
        0 (some { entryOn 0 with due := some 40 }) with tickWork := [.immediatePulseEnd 0, .entryDue 0] }
    ((after (.immediatePulseEnd 0) s).out 0).commanded = .low ∧ ((after (.immediatePulseEnd 0) s).out 0).driven = .high
      ∧ ((after (.entryDue 0) s).out 0).driven = .high := by decide +kernel

end Sys2Proof.Tests
end

section
/-! SUPPORT. The answer to a command and an offer of a record commute, and from this what a command does whose act replaces a claim record;
then CLAIM and WITHDRAW by their tables (O41). -/

namespace Sys2Proof.Machine

/-! ### The answer and what a command's act does -/

/-- The answer placed in the state in which the act began gives the answered frame; its levels are not yet formed. -/
theorem respond_taken (s : State) (p : Port) (n : Nat) (tag : Byte) (r : Reply) :
    respond p tag r (taken s p n) = answeredFrame s p (n + 7) tag r.status r.payload := by
  simp only [respond, taken, State.modSession, endWrite, State.setSession, setPort_setPort, port_setPort_same, session_setPort, if_true]
  rfl

@[simp] theorem respond_setClaim (p : Port) (tag : Byte) (r : Reply) (s : State) (q : Resource) (c : ClaimRecord) :
    respond p tag r (s.setClaim q c) = (respond p tag r s).setClaim q c := rfl

/-- A response touches no session. -/
@[simp] theorem session_respond (p q : Port) (tag : Byte) (r : Reply) (s : State) : (respond p tag r s).session q = s.session q := by
  unfold State.session
  rw [respond_port]
  split
  · next h => rw [h]
  · rfl

@[simp] theorem oldestPinned_respond (p : Port) (tag : Byte) (r : Reply) (s : State) : oldestPinned (respond p tag r s) = oldestPinned s := by
  have hp : ∀ x q, pinsRecord (respond p tag r s) x q = pinsRecord s x q := fun x q => by
    unfold pinsRecord; rw [session_respond]
  unfold oldestPinned pinned
  rw [respond_journal]
  split
  · rfl
  · exact congrArg allPorts.any (funext (hp _))

/-- The push past a retired record changes sessions, the response a queue. -/
theorem respond_retireOldest (p : Port) (tag : Byte) (r : Reply) (s : State) :
    respond p tag r (retireOldest s) = retireOldest (respond p tag r s) := by
  unfold retireOldest
  rw [respond_journal]
  split
  · rfl
  · cases p <;> rfl

theorem respond_handRaise (p : Port) (tag : Byte) (r : Reply) (k : Condition) (s : State) :
    respond p tag r (handRaise k s) = handRaise k (respond p tag r s) := by
  unfold handRaise
  rw [apply_ite (respond p tag r)]
  rfl

/-- What the journal does with an offer does not depend on a waiting response, nor the response on the offer. -/
theorem respond_offer (p : Port) (tag : Byte) (r : Reply) (o : Origin) (b : Body) (s : State) :
    respond p tag r (offer o b s) = offer o b (respond p tag r s) := by
  unfold offer offerAs
  simp only [respond_rstn, respond_journal, oldestPinned_respond]
  split
  case isTrue => rfl
  case isFalse =>
    split
    case h_1 => rfl
    case h_2 =>
      split_ifs
      · rfl
      · exact respond_handRaise p tag r .journalWithheld _
      · rw [← respond_retireOldest]; rfl

/-- An offer that finds room is stored, as the statements write it. -/
theorem offer_eq_storing {s : State} (h : RoomFor 1 s) (o : Origin) (b : Body) :
    offer o b s = { s with journal := s.journal.storing s.time.partTime (quality s) [(o, b)] } := offer_of_room h o b

@[simp] theorem tickOpen_setClaim (s : State) (q : Resource) (c : ClaimRecord) : tickOpen (s.setClaim q c) = tickOpen s := rfl

/-- ATN levels and drives are formed without the claims. -/
@[simp] theorem conclude_setClaim (s : State) (q : Resource) (c : ClaimRecord) : conclude (s.setClaim q c) = (conclude s).setClaim q c := by
  unfold conclude
  rw [tickOpen_setClaim, State.setClaim_rstn]
  split <;> rfl

@[simp] theorem claimOf_taken (s : State) (p : Port) (n : Nat) (q : Resource) : (taken s p n).claimOf q = s.claimOf q := rfl

section
variable {s : State} {p : Port} {x : Session} {n : Nat} {act : Act} {q : Resource} {c : ClaimRecord} {r : Reply}

/-- A command from a LIVE session whose act replaces one claim record and does nothing else. -/
theorem onCommand_setClaim (hr : Ready s p) (hx : OpenLive s p x) (hl : LevelsFormed s) (tag : Byte) (f : TakenFrom)
    (ha : act (taken s p n) = ((taken s p n).setClaim q c, r)) :
    onCommand p tag n f act s = (answeredFrame s p (n + 7) tag r.status r.payload).setClaim q c := by
  rw [onCommand_live hr hx, ha, respond_setClaim, conclude_setClaim, conclude_respond_taken hl]

/-- A command from a LIVE session whose act replaces one claim record and offers one record, whatever the journal does with it. -/
theorem onCommand_setClaim_offer (hr : Ready s p) (hx : OpenLive s p x) (tag : Byte) (f : TakenFrom) {o : Origin} {b : Body}
    (ha : act (taken s p n) = (offer o b ((taken s p n).setClaim q c), r)) :
    onCommand p tag n f act s = conclude (offer o b ((answeredFrame s p (n + 7) tag r.status r.payload).setClaim q c)) := by
  rw [onCommand_live hr hx, ha, respond_offer, respond_setClaim, respond_taken]

end

/-! ### The acts of CLAIM and WITHDRAW, row by row -/

theorem flagOf?_eq_none {w : Byte} (h : 2 ≤ w.toNat) : flagOf? w = none := by
  have h0 : w ≠ 0#8 := by rintro rfl; simp at h
  have h1 : w ≠ 1#8 := by rintro rfl; simp at h
  simp [flagOf?, h0, h1]

theorem exists_flagOf? {w : Byte} (h : w.toNat < 2) : ∃ f, flagOf? w = some f := by
  obtain rfl | rfl : w = 0#8 ∨ w = 1#8 := by bv_omega
  · exact ⟨false, rfl⟩
  · exact ⟨true, rfl⟩

section
variable {s : State} {p h : Port} {b wait : Byte} {r : Resource} {w : Bool}

theorem takeClaim_badArg (hb : resourceOf? b = none ∨ flagOf? wait = none) : takeClaim p b wait s = (s, refuse .badArg) := by
  unfold takeClaim
  split
  · next h1 h2 => simp [h1, h2] at hb
  · rfl

theorem takeClaim_free (hb : resourceOf? b = some r) (hw : flagOf? wait = some w) (hh : (s.claimOf r).holder = none) :
    takeClaim p b wait s
      = (offer (.master p) (.claimGranted r .command) (s.setClaim r { s.claimOf r with holder := some p }), okay (code (portCode p))) := by
  simp only [takeClaim, hb, hw, hh]

theorem takeClaim_own (hb : resourceOf? b = some r) (hw : flagOf? wait = some w) (hh : (s.claimOf r).holder = some p) :
    takeClaim p b wait s = (s, okay (code (portCode p))) := by
  simp only [takeClaim, hb, hw, hh, if_true]

theorem takeClaim_held (hb : resourceOf? b = some r) (hw : flagOf? wait = some w) (hh : (s.claimOf r).holder = some h) (hne : h ≠ p) :
    takeClaim p b wait s = claimHeld p r h w s := by
  simp only [takeClaim, hb, hw, hh, hne, if_false]

theorem claimHeld_noWait : claimHeld p r h false s = (s, { status := .heldBy, payload := code (portCode h) }) := rfl

theorem claimHeld_waiting (hm : p ∈ (s.claimOf r).waiters) :
    claimHeld p r h true s = (s, queuedReply h ((s.claimOf r).waiters.idxOf p + 1)) := by
  simp only [claimHeld, hm, if_true, position]

theorem claimHeld_joins (hm : p ∉ (s.claimOf r).waiters) :
    claimHeld p r h true s
      = (s.setClaim r { s.claimOf r with waiters := (s.claimOf r).waiters ++ [p] }, queuedReply h ((s.claimOf r).waiters.length + 1)) := by
  simp only [claimHeld, hm, if_true, if_false]

theorem takeWithdraw_badArg (hb : ∀ r, resourceOf? b = some r → p ∉ (s.claimOf r).waiters) :
    takeWithdraw p b s = (s, refuse .badArg) := by
  unfold takeWithdraw
  split
  · rfl
  · next r hr => simp only [hb r hr, if_false]

theorem takeWithdraw_waiting (hb : resourceOf? b = some r) (hm : p ∈ (s.claimOf r).waiters) :
    takeWithdraw p b s
      = (s.setClaim r { s.claimOf r with waiters := (s.claimOf r).waiters.filter (· ≠ p) }, okay []) := by
  simp only [takeWithdraw, hb, hm, if_true]

end

/-! ### The rows -/

theorem exec_claim (p : Port) (tag b wait : Byte) (s : State) :
    exec (.claim p tag b wait) s = .next (onCommand p tag 2 .liveSession (takeClaim p b wait) s) := rfl

theorem exec_withdraw (p : Port) (tag b : Byte) (s : State) :
    exec (.withdraw p tag b) s = .next (onCommand p tag 1 .liveSession (takeWithdraw p b) s) := rfl

section
variable {s : State} {p h : Port} {x : Session} {b wait : Byte} {r : Resource}

/-- CLAIM whose act changes nothing is its answer alone. -/
theorem claim_answers (hr : Ready s p) (hx : OpenLive s p x) (hl : LevelsFormed s) (tag : Byte) {reply : Reply}
    (ha : takeClaim p b wait (taken s p 2) = (taken s p 2, reply)) : Answers s (.claim p tag b wait) reply.status reply.payload :=
  congrArg Host.Outcome.next (onCommand_answeredOnly hr hx hl tag .liveSession _ reply ha)

/-- WITHDRAW from a master that does not wait for a resource of that code is refused. -/
theorem withdraw_refuses (hr : Ready s p) (hx : OpenLive s p x) (hl : LevelsFormed s) (tag : Byte)
    (hb : ∀ r, resourceOf? b = some r → p ∉ (s.claimOf r).waiters) : Refuses s (.withdraw p tag b) .badArg :=
  congrArg Host.Outcome.next
    (onCommand_answeredOnly hr hx hl tag .liveSession _ (refuse .badArg) (takeWithdraw_badArg (s := taken s p 1) hb))

theorem withdraw_leaves (hr : Ready s p) (hx : OpenLive s p x) (hl : LevelsFormed s) (tag : Byte) (hb : resourceOf? b = some r)
    (hm : p ∈ (s.claimOf r).waiters) :
    exec (.withdraw p tag b) s
      = .next ((answeredOnly s (.withdraw p tag b) .ok []).setClaim r
          { s.claimOf r with waiters := (s.claimOf r).waiters.filter (· ≠ p) }) :=
  congrArg Host.Outcome.next
    (onCommand_setClaim hr hx hl tag .liveSession (takeWithdraw_waiting (s := taken s p 1) hb hm))

/-- CLAIM of a free resource, whatever the journal does with the record (R122, R123). -/
theorem claim_grants (hr : Ready s p) (hx : OpenLive s p x) (tag : Byte) (hb : resourceOf? b = some r) (hw : wait.toNat < 2)
    (hh : (s.claimOf r).holder = none) :
    exec (.claim p tag b wait) s
      = .next (conclude (offer (.master p) (.claimGranted r .command)
          ((answeredOnly s (.claim p tag b wait) .ok (code (portCode p))).setClaim r { s.claimOf r with holder := some p }))) := by
  obtain ⟨w, hf⟩ := exists_flagOf? hw
  have ha := takeClaim_free (s := taken s p 2) (p := p) hb hf hh
  rw [exec_claim, onCommand_setClaim_offer hr hx tag .liveSession ha]
  rfl

/-- CLAIM of a free resource where the journal has room (R122, R123). -/
theorem claim_grants_of_room (hr : Ready s p) (hx : OpenLive s p x) (tag : Byte) (hb : resourceOf? b = some r) (hw : wait.toNat < 2)
    (hh : (s.claimOf r).holder = none) (hroom : RoomFor 1 s) :
    exec (.claim p tag b wait) s
      = .next (conclude (({ answeredOnly s (.claim p tag b wait) .ok (code (portCode p)) with
          journal := s.journal.storing s.time.partTime (quality s) [(.master p, .claimGranted r .command)] }).setClaim r
        { s.claimOf r with holder := some p })) := by
  rw [claim_grants hr hx tag hb hw hh, offer_eq_storing]
  · rfl
  · exact hroom.congr rfl rfl

theorem claim_own (hr : Ready s p) (hx : OpenLive s p x) (hl : LevelsFormed s) (tag : Byte) (hb : resourceOf? b = some r)
    (hw : wait.toNat < 2) (hh : (s.claimOf r).holder = some p) : Answers s (.claim p tag b wait) .ok (code (portCode p)) := by
  obtain ⟨w, hf⟩ := exists_flagOf? hw
  exact claim_answers hr hx hl tag (takeClaim_own (s := taken s p 2) hb hf hh)

theorem claim_heldBy (hr : Ready s p) (hx : OpenLive s p x) (hl : LevelsFormed s) (tag : Byte) (hb : resourceOf? b = some r)
    (hh : (s.claimOf r).holder = some h) (hne : h ≠ p) : Answers s (.claim p tag b 0#8) .heldBy (code (portCode h)) :=
  claim_answers hr hx hl tag ((takeClaim_held (s := taken s p 2) hb rfl hh hne).trans claimHeld_noWait)

theorem claim_keeps_place (hr : Ready s p) (hx : OpenLive s p x) (hl : LevelsFormed s) (tag : Byte) (hb : resourceOf? b = some r)
    (hh : (s.claimOf r).holder = some h) (hne : h ≠ p) (hm : p ∈ (s.claimOf r).waiters) :
    Answers s (.claim p tag b 1#8) .queued (code (portCode h) ++ code ((s.claimOf r).waiters.idxOf p + 1)) :=
  claim_answers hr hx hl tag ((takeClaim_held (s := taken s p 2) hb rfl hh hne).trans (claimHeld_waiting hm))

theorem claim_joins (hr : Ready s p) (hx : OpenLive s p x) (hl : LevelsFormed s) (tag : Byte) (hb : resourceOf? b = some r)
    (hh : (s.claimOf r).holder = some h) (hne : h ≠ p) (hm : p ∉ (s.claimOf r).waiters) :
    exec (.claim p tag b 1#8) s
      = .next ((answeredOnly s (.claim p tag b 1#8) .queued (code (portCode h) ++ code ((s.claimOf r).waiters.length + 1))).setClaim r
          { s.claimOf r with waiters := (s.claimOf r).waiters ++ [p] }) :=
  congrArg Host.Outcome.next
    (onCommand_setClaim hr hx hl tag .liveSession ((takeClaim_held (s := taken s p 2) hb rfl hh hne).trans (claimHeld_joins hm)))

end

/-- Settles O41, row by row of the table of R122 and by R127. -/
theorem claimAndWithdrawByTable : Obligations.ClaimAndWithdrawByTable := by
  intro s p tag b wait x hr hl hx
  refine ⟨fun hbad => ?_, fun hb => ?_, fun r hb => ?_⟩
  · exact claim_answers hr hx hl tag (takeClaim_badArg (hbad.imp_right flagOf?_eq_none))
  · exact withdraw_refuses hr hx hl tag fun r hr' => by simp [hb] at hr'
  · refine ⟨withdraw_leaves hr hx hl tag hb, fun hm => ?_, fun hh hw => claim_grants_of_room hr hx tag hb hw hh,
      fun hh hw => claim_grants hr hx tag hb hw hh, fun hh hw => claim_own hr hx hl tag hb hw hh, fun h hh hne => ?_⟩
    · refine withdraw_refuses hr hx hl tag fun r' hb' => ?_
      obtain rfl : r = r' := Option.some.inj (hb.symm.trans hb')
      exact hm
    · exact ⟨claim_heldBy hr hx hl tag hb hh hne, claim_keeps_place hr hx hl tag hb hh hne, claim_joins hr hx hl tag hb hh hne⟩

end Sys2Proof.Machine
end

section
/-! SUPPORT. A command that its session does not allow, and one whose act changes nothing, from any session that does; then IDENTIFY (O12). -/

namespace Sys2Proof.Machine

/-! ### The common checks from a LAPSED session -/

theorem restarted_of_lapsed {x : Session} (h : x.liveness = .lapsed) : x.restarted = x := by
  simp [Session.restarted, h]

/-- A command that is taken only from a LIVE session, or with none, is refused LAPSED before its own checks (R181). -/
theorem commonChecks_lapsed {s : State} {p : Port} {n : Nat} {x : Session} (hs : s.session p = some x) (hx : x.liveness = .lapsed)
    {f : TakenFrom} (hf : f.lapsed = false) (act : Act) :
    commonChecks p (.known f act) (taken s p n) = (taken s p n, refuse .lapsed) := by
  have ht : (taken s p n).session p = some x := by rw [session_taken, if_pos rfl, hs, Option.map_some, restarted_of_lapsed hx]
  simp [commonChecks, ht, hx, hf]

/-- A command that changes nothing, whether its act answers so or the common checks refuse it. -/
theorem onCommand_of_checks {s : State} {p : Port} {n : Nat} {f : TakenFrom} {act : Act} {r : Reply} (hr : Ready s p) (hl : LevelsFormed s)
    (tag : Byte) (hc : commonChecks p (.known f act) (taken s p n) = (taken s p n, r)) :
    onCommand p tag n f act s = answeredFrame s p (n + 7) tag r.status r.payload := by
  rw [onCommand_ready hr, hc, conclude_respond_taken hl]

/-! ### IDENTIFY -/

/-- The restarted deadline does not open or close the session. -/
theorem isSome_session_taken (s : State) (p : Port) (n : Nat) : ((taken s p n).session p).isSome = (s.session p).isSome := by
  rw [session_taken, if_pos rfl, Option.isSome_map]

/-- The port and whether it has a session are all that the identity reads. -/
theorem identityBytes_congr {s t : State} {p : Port} (h : (t.session p).isSome = (s.session p).isSome) :
    identityBytes p t = identityBytes p s := by
  unfold identityBytes; rw [h]

/-- The identity with the capacities of R183 and the widths of R201 as numbers. -/
theorem identityBytes_eq (p : Port) (s : State) :
    identityBytes p s
      = ascii8 "Oxendis" ++ ascii8 "OXT-412" ++ [1#8] ++ code (portCode p) ++ [flagByte (s.session p).isSome]
          ++ [4#8, 4#8] ++ be 2 300 ++ [16#8, 8#8] ++ be 2 512 ++ [8#8, 64#8, 10#8, 4#8] := by
  simp only [identityBytes, List.append_assoc]
  rfl

section
variable {s : State} {p : Port}

/-- With no session, or from a LIVE one, IDENTIFY passes the common checks. -/
theorem commonChecks_identify {n : Nat} (h : s.session p = none ∨ ∃ x, OpenLive s p x) :
    commonChecks p (.known .anyPort (takeIdentify p)) (taken s p n) = takeIdentify p (taken s p n) := by
  obtain hnone | ⟨x, hx⟩ := h
  · exact commonChecks_anyPort hnone _
  · exact commonChecks_live hx _ _

theorem identify_answers (hr : Ready s p) (hl : LevelsFormed s) (tag : Byte) (h : s.session p = none ∨ ∃ x, OpenLive s p x) :
    Answers s (.identify p tag) .ok (identityBytes p s) := by
  have ha : takeIdentify p (taken s p 0) = (taken s p 0, okay (identityBytes p s)) := by
    rw [takeIdentify, identityBytes_congr (isSome_session_taken s p 0)]
  exact congrArg Host.Outcome.next (onCommand_of_checks hr hl tag ((commonChecks_identify h).trans ha))

theorem identify_lapsed (hr : Ready s p) (hl : LevelsFormed s) (tag : Byte) {x : Session} (hs : s.session p = some x)
    (hx : x.liveness = .lapsed) : Refuses s (.identify p tag) .lapsed :=
  congrArg Host.Outcome.next (onCommand_of_checks hr hl tag (commonChecks_lapsed hs hx rfl (takeIdentify p)))

end

/-- Settles O12, by the session on the port: none or a LIVE one, and a LAPSED one (R183). -/
theorem identifyAnswers : Obligations.IdentifyAnswers := by
  intro s p tag hr hl
  refine ⟨fun h => ?_, fun x hs hx => identify_lapsed hr hl tag hs hx⟩
  rw [← identityBytes_eq]
  exact identify_answers hr hl tag h

end Sys2Proof.Machine
end

section
/-! SUPPORT. Moves: what a step is made of, said once. An `EntryMove` is one of the updates that the schedule's operations are made of, an
`OwnMove` one that the part's own events are made of, an `ActMove` one that commands are made of. Every operation is a chain of them, so an
invariant that each move keeps is kept by every step. -/

set_option Elab.async false

namespace Sys2Proof.Machine

/-- Any number of moves, one after the other. -/
abbrev Moves (R : State → State → Prop) : State → State → Prop := Relation.ReflTransGen R

/-- What every move keeps, any number of moves keep. -/
theorem Moves.keeps {R : State → State → Prop} {P : State → Prop} (h : ∀ s t, R s t → P s → P t) {s t : State} (m : Moves R s t)
    (hs : P s) : P t := by
  induction m with
  | refl => exact hs
  | tail _ last ih => exact h _ _ last ih

theorem Moves.maybe {R : State → State → Prop} {s u v : State} {c : Prop} [Decidable c] (h : Moves R s u) (k : Moves R u v) :
    Moves R s (if c then v else u) := by
  split
  · exact h.trans k
  · exact h

theorem Moves.either {R : State → State → Prop} {s u v : State} {c : Prop} [Decidable c] (h : c → Moves R s u) (k : ¬ c → Moves R s v) :
    Moves R s (if c then u else v) := by
  split
  · next hc => exact h hc
  · next hc => exact k hc

/-- Moves after others, the last ones named first. -/
theorem Moves.after {R : State → State → Prop} {s u v : State} (k : Moves R u v) (h : Moves R s u) : Moves R s v := h.trans k

theorem Moves.foldl {R : State → State → Prop} {α : Type} {f : State → α → State} (h : ∀ s a, Moves R s (f s a)) :
    ∀ (l : List α) (s : State), Moves R s (l.foldl f s)
  | [], _ => .refl
  | a :: l, s => (h s a).trans (Moves.foldl h l (f s a))

theorem Moves.mono {R S : State → State → Prop} (h : ∀ s t, R s t → S s t) {s t : State} (m : Moves R s t) : Moves S s t :=
  Relation.ReflTransGen.mono h _ _ m

/-! ### The schedule's moves -/

/-- What the schedule's operations are made of: offers, raises, attention, levels handed to lines, and entries that are changed without
another owner or line, or gone. -/
inductive EntryMove : State → State → Prop
  | offer (t : Nat) (q : Quality) (o : Origin) (b : Body) (s : State) : EntryMove s (offerAs t q o b s)
  | raise (c : Condition) (s : State) : EntryMove s (handRaise c s)
  | notice (n : Byte) (p : Port) (s : State) : EntryMove s (raiseNotice n p s)
  | level (k : Fin 8) (l : Level) (s : State) : EntryMove s (handLevel k l s)
  | edit (i : Fin 64) (f : Entry → Entry) (s : State) (h : ∀ e, (f e).owner = e.owner ∧ (f e).line = e.line) : EntryMove s (modEntry i f s)
  | free (i : Fin 64) (s : State) : EntryMove s (s.putEntry i none)
  | useFree (s : State) : EntryMove s (useFree s)

abbrev EntryMoves : State → State → Prop := Moves EntryMove

theorem moves_offer (o : Origin) (b : Body) (s : State) : EntryMoves s (offer o b s) := .single (.offer _ _ _ _ _)

theorem moves_edit (i : Fin 64) (f : Entry → Entry) (s : State) (h : ∀ e, (f e).owner = e.owner ∧ (f e).line = e.line) :
    EntryMoves s (modEntry i f s) := .single (.edit i f s h)

theorem Entry.advance_owner_line (k : Nat) (e : Entry) : (e.advance k).owner = e.owner ∧ (e.advance k).line = e.line := by
  unfold Entry.advance
  split <;> exact ⟨rfl, rfl⟩

theorem moves_handFiring (e : Entry) (s : State) : EntryMoves s (handFiring e s) := by
  unfold handFiring
  split
  · exact .refl
  · exact .refl
  · exact .single (.level _ _ _)

theorem moves_fire (i : Fin 64) (late : Option Nat) (s : State) : EntryMoves s (fire i late s) := by
  unfold fire
  split
  · exact .refl
  · next e _ =>
    have fired := (moves_handFiring e s).trans (moves_edit i (fun e => { e with running := startedPulse e }) _ fun _ => ⟨rfl, rfl⟩)
    have recorded := Moves.maybe fired (c := e.journalFlag = true)
      (moves_offer (.master e.owner) (.entryFired ((modEntry i (fun e => { e with running := startedPulse e }) (handFiring e s)).handle i)
        e.action e.line late) _)
    exact Moves.maybe (Moves.maybe recorded (.single (.raise .entryLate _))) (.single (.notice noticeEntry e.owner _))

theorem moves_skip (i : Fin 64) (s : State) : EntryMoves s (skip i s) := by
  unfold skip
  split
  · exact .refl
  · exact Moves.maybe .refl (moves_offer _ _ _)

theorem moves_complete (i : Fin 64) (s : State) : EntryMoves s (complete i s) := by
  unfold complete
  split
  · exact .refl
  · exact (moves_offer _ _ s).tail (.free i _)

theorem moves_closeOccurrence (i : Fin 64) (s : State) : EntryMoves s (closeOccurrence i s) := by
  unfold closeOccurrence
  split
  · exact .refl
  · split
    · exact moves_edit i _ s fun _ => ⟨rfl, rfl⟩
    · exact moves_edit i _ s fun _ => ⟨rfl, rfl⟩
    · exact .either (fun _ => moves_edit i _ s fun _ => ⟨rfl, rfl⟩) (fun _ => moves_complete i s)

theorem moves_endPulse (i : Fin 64) (s : State) : EntryMoves s (endPulse i s) := by
  unfold endPulse
  split
  · exact .refl
  · split
    · exact .refl
    · refine .trans ?_ (moves_edit i (fun e => { e with running := none }) _ fun _ => ⟨rfl, rfl⟩)
      split
      · exact .single (.level _ _ _)
      · exact .refl

/-- An occurrence that is over: the entry moves on and takes its next state. -/
theorem moves_advance (i : Fin 64) (k : Nat) (s : State) : EntryMoves s (closeOccurrence i (modEntry i (Entry.advance k) s)) :=
  (moves_edit i _ s (Entry.advance_owner_line k)).trans (moves_closeOccurrence i _)

theorem moves_fireAtTick (i : Fin 64) (s : State) : EntryMoves s (fireAtTick i s) :=
  ((moves_endPulse i s).trans (moves_fire i none _)).trans (moves_advance i 1 _)

theorem moves_catchUp (T : Nat) (i : Fin 64) (s : State) : EntryMoves s (catchUp T i s) := by
  unfold catchUp
  refine .trans (moves_endPulse i s) ?_
  dsimp only
  split
  · exact .refl
  · split
    · exact .refl
    · refine .trans ?_ (moves_advance i _ _)
      split
      · exact moves_fire i _ _
      · exact moves_skip i _

theorem moves_defer (i : Fin 64) (s : State) : EntryMoves s (defer i s) :=
  (moves_endPulse i s).trans (moves_edit i _ _ fun _ => ⟨rfl, rfl⟩)

theorem moves_takeLate (T : Nat) (s : State) (i : Fin 64) : EntryMoves s (takeLate T s i) := by
  unfold takeLate
  split
  · exact .refl
  · exact .either (fun _ => moves_defer i s) (fun _ => moves_catchUp T i s)

theorem moves_entryComesDue (i : Fin 64) (s : State) : EntryMoves s (entryComesDue i s) := by
  unfold entryComesDue
  split
  · exact .refl
  · exact .either (fun _ => .either (fun _ => moves_defer i s) (fun _ => moves_fireAtTick i s)) (fun _ => .refl)

theorem moves_pulseRunsOut (i : Fin 64) (s : State) : EntryMoves s (pulseRunsOut i s) := by
  unfold pulseRunsOut
  split
  · exact .refl
  · split
    · exact Moves.maybe .refl ((moves_endPulse i s).trans (moves_closeOccurrence i _))
    · exact .refl

theorem moves_cancel (c : CancelCause) (s : State) (i : Fin 64) : EntryMoves s (cancel c s i) := by
  unfold cancel
  split
  · exact .refl
  · exact (Moves.maybe (moves_offer _ _ s) (moves_endPulse i _)).tail (.free i _)

theorem moves_cancelWhere (c : CancelCause) (test : Entry → Bool) (s : State) : EntryMoves s (cancelWhere c test s) :=
  .foldl (moves_cancel c) _ _

theorem moves_resumeEntry (R : Nat) (s : State) (i : Fin 64) : EntryMoves s (resumeEntry R s i) := by
  unfold resumeEntry
  split
  · exact .refl
  · exact .either (fun _ => moves_catchUp R i s) (fun _ => moves_edit i _ s fun _ => ⟨rfl, rfl⟩)

theorem moves_resumeDeferred (s : State) : EntryMoves s (resumeDeferred s) := .foldl (moves_resumeEntry _) _ _

theorem moves_takeTrigger (t : Nat) (s : State) (i : Fin 64) : EntryMoves s (takeTrigger t s i) := by
  unfold takeTrigger
  split
  · exact .refl
  · refine .trans ?_ (moves_closeOccurrence i _)
    exact moves_edit i _ s fun _ => ⟨rfl, rfl⟩

theorem moves_handEdge (n : Fin 16) (e : Edge) (t : Nat) (s : State) : EntryMoves s (handEdge n e t s) :=
  (Moves.foldl (moves_takeTrigger t) _ s).trans (Moves.foldl (fun s i => moves_takeLate _ s i) _ _)

theorem moves_shiftEntry (d : Int) (s : State) (i : Fin 64) : EntryMoves s (shiftEntry d s i) := by
  unfold shiftEntry
  split
  · exact .refl
  · split
    · refine Moves.maybe (.trans (Moves.maybe .refl (.single (.useFree s))) (moves_edit i _ _ fun _ => ⟨rfl, rfl⟩)) (moves_closeOccurrence i _)
    · exact .refl

theorem moves_scheduleStep (t0 t1 : Nat) (s : State) : EntryMoves s (scheduleStep t0 t1 s) :=
  (Moves.foldl (moves_shiftEntry _) _ s).trans (Moves.foldl (moves_takeLate t1) _ _)

theorem moves_admitEdge (n : Fin 16) (l : Level) (s : State) : EntryMoves s (admitEdge n l s) :=
  .trans (.single (.offer _ _ _ _ s)) (moves_handEdge _ _ _ _)

theorem moves_permitToSchedule (o n : PermitState) (s : State) : EntryMoves s (permitToSchedule o n s) := by
  unfold permitToSchedule
  split
  · exact moves_cancelWhere _ _ s
  · exact moves_resumeDeferred s
  · exact .refl

theorem moves_afterAdmission (i : Fin 64) (e : Entry) (s : State) : EntryMoves s (afterAdmission i e s) := by
  unfold afterAdmission
  split_ifs
  · exact .refl
  · exact moves_closeOccurrence i s
  · exact moves_takeLate _ s i
  · exact .refl

end Sys2Proof.Machine
end

section
/-! SUPPORT. What a cancellation leaves in each slot (R100); then the moves of the part's own events and of commands. -/

set_option Elab.async false

namespace Sys2Proof.Machine

/-! ### Entries after a cancellation -/

/-- An entry is read from the slots alone. -/
theorem entry_congr {s t : State} (h : t.schedule = s.schedule) (i : Fin 64) : t.entry i = s.entry i := by unfold State.entry; rw [h]

theorem handle_congr {s t : State} (h : t.schedule = s.schedule) (i : Fin 64) : t.handle i = s.handle i := by unfold State.handle; rw [h]

@[simp] theorem entry_offerAs (t : Nat) (q : Quality) (o : Origin) (b : Body) (s : State) (i : Fin 64) :
    (offerAs t q o b s).entry i = s.entry i := entry_congr ((kept_offerAs t q o b s).unchanged .schedule (by decide)) i

@[simp] theorem entry_offer (o : Origin) (b : Body) (s : State) (i : Fin 64) : (offer o b s).entry i = s.entry i := entry_offerAs _ _ _ _ _ _

@[simp] theorem entry_handLevel (k : Fin 8) (l : Level) (s : State) (i : Fin 64) : (handLevel k l s).entry i = s.entry i := rfl

theorem entry_modEntry (i j : Fin 64) (f : Entry → Entry) (s : State) :
    (modEntry i f s).entry j = if j = i then (s.entry i).map f else s.entry j := entry_putEntry _ _ _ _

/-- The end of a pulse touches its own entry only. -/
theorem entry_endPulse (i j : Fin 64) (s : State) (h : j ≠ i) : (endPulse i s).entry j = s.entry j := by
  unfold endPulse
  split
  · rfl
  · split
    · rfl
    · rw [entry_modEntry, if_neg h]
      split <;> rfl

/-- A cancellation frees its slot and touches no other. -/
theorem entry_cancel (c : CancelCause) (s : State) (i j : Fin 64) : (cancel c s i).entry j = if j = i then none else s.entry j := by
  unfold cancel
  split
  · next h => split <;> simp_all
  · rw [entry_putEntry]
    by_cases h : j = i
    · rw [if_pos h, if_pos h]
    · rw [if_neg h, if_neg h]
      split
      · rw [entry_endPulse _ _ _ h, entry_offer]
      · rw [entry_offer]

theorem entry_cancel_foldl (c : CancelCause) (j : Fin 64) :
    ∀ (L : List (Fin 64)) (s : State), (L.foldl (cancel c) s).entry j = if j ∈ L then none else s.entry j
  | [], s => by simp
  | i :: L, s => by
      rw [List.foldl_cons, entry_cancel_foldl c j L, entry_cancel]
      by_cases h1 : j ∈ L <;> by_cases h2 : j = i <;> simp [h1, h2]

theorem mem_slotsWhere {s : State} {test : Entry → Bool} {i : Fin 64} :
    i ∈ slotsWhere s test ↔ ∃ e, s.entry i = some e ∧ test e = true := by
  unfold slotsWhere allSlots
  rw [List.mem_filter]
  cases s.entry i <;> simp

theorem mem_byAdmission {s : State} {L : List (Fin 64)} {i : Fin 64} : i ∈ byAdmission s L ↔ i ∈ L := List.mem_insertionSort _

theorem mem_byDue {s : State} {L : List (Fin 64)} {i : Fin 64} : i ∈ byDue s L ↔ i ∈ L := List.mem_insertionSort _

/-- Every entry that meets the test is gone, and every other one is as it was. -/
theorem entry_cancelWhere (c : CancelCause) (test : Entry → Bool) (s : State) (j : Fin 64) :
    (cancelWhere c test s).entry j = (s.entry j).filter fun e => !test e := by
  unfold cancelWhere
  rw [entry_cancel_foldl]
  simp only [mem_byAdmission, mem_slotsWhere]
  cases h : s.entry j with
  | none => simp
  | some e => cases ht : test e <;> simp [Option.filter, ht]

/-- What a cancellation leaves met the test not. -/
theorem of_entry_cancelWhere {c : CancelCause} {test : Entry → Bool} {s : State} {j : Fin 64} {e : Entry}
    (h : (cancelWhere c test s).entry j = some e) : s.entry j = some e ∧ test e = false := by
  rw [entry_cancelWhere, Option.filter_eq_some_iff] at h
  exact ⟨h.1, by simpa using h.2⟩

/-! ### Calm moves -/

/-- A reader's positions are in order, between the oldest seq held and one past the newest (R71). -/
def ReaderWithin (s : State) (r : Reader) : Prop := oldestSeq s ≤ r.cursor ∧ r.cursor ≤ r.readMark ∧ r.readMark ≤ endSeq s

/-- No entry acts on the line. -/
def LineFree (s : State) (k : Fin 8) : Prop := ∀ i e, s.entry i = some e → e.line ≠ some k

/-- The ranges of the stored configuration of an event input (R24). -/
def LineConfig.InRange (c : LineConfig) : Prop := c.filter ≤ 65535 ∧ c.budget ≤ 255

/-- An entry that may be admitted: within the quota, on a line that its owner holds and whose gate is open (R79). -/
structure Admissible (s : State) (i : Fin 64) (e : Entry) : Prop where
  slot  : s.entry i = none
  quota : owned s e.owner < s.schedule.quotas.get e.owner
  line  : ∀ k, e.line = some k → s.holds e.owner (.out k) = true
  gate  : ∀ k, e.line = some k → (s.out k).gated = true → s.permit.state ≠ .stopped ∧ s.permit.state ≠ .arming

/-- Moves that change neither the permit state nor an elector, and the part vote to STOP only. -/
inductive CalmMove : State → State → Prop
  | entry {s t : State} (h : EntryMove s t) : CalmMove s t
  | reexamine (s : State) : CalmMove s (reexamine s)
  | attend (p : Port) (f : Session → Session) (s : State)
      (h : ∀ x, (f x).liveness = x.liveness ∧ (f x).reader.cursor = x.reader.cursor ∧ (f x).reader.readMark = x.reader.readMark) :
      CalmMove s (s.modSession p f)
  | noticeAll (n : Byte) (e : Option Port) (s : State) : CalmMove s (raiseForAll n e s)
  | seat (p : Port) (x : Session) (s : State)
      (hl : x.liveness = .live ∨ ∃ y, s.session p = some y ∧ y.liveness = x.liveness)
      (hr : ReadersConsistent s → ReaderWithin s x.reader) : CalmMove s (s.setSession p (some x))
  | unseat (p : Port) (s : State) : CalmMove s (s.setSession p none)
  | link (p : Port) (x : PortState) (s : State) (h : x.session = s.session p) : CalmMove s (s.setPort p x)
  | clock (x : Timebase) (s : State) (ht : s.time.partTime ≤ 2 ^ 64 - 1 → x.partTime ≤ 2 ^ 64 - 1)
      (hf : x.refHz = s.time.refHz ∨ 1000000 ≤ x.refHz ∧ x.refHz ≤ 50000000) (hx : x.trim = s.time.trim ∨ x.trim.natAbs ≤ 500000) :
      CalmMove s (s.setTime x)
  | lines (v : Vector EventLine 16) (s : State) (h : ∀ n : Fin 16, (s.line n).cfg.InRange → (v[n]).cfg.InRange) :
      CalmMove s { s with lines := v }
  | work (l : List TickEvent) (g : TickStage) (s : State) : CalmMove s { s with tickWork := l, tickStage := g }
  | pins (x : BitVec 16) (s : State) : CalmMove s { s with evPins := x }
  | queue (l : List Instr) (s : State) : CalmMove s { s with pending := l }
  | rise (s : State) : CalmMove s { s with rstn := .high }
  | count (s : State) : CalmMove s (countTick s)
  | conditions (c : Conditions) (s : State) (h : c.partVote = s.conditions.partVote ∨ c.partVote = .stop) :
      CalmMove s { s with conditions := c }
  | waits (p : Port) (s : State) : CalmMove s (leaveWaitLists p s)
  | claim (r : Resource) (c : ClaimRecord) (s : State) (hc : ClaimConsistent (s.claimOf r) → ClaimConsistent c)
      (hk : ∀ k, r = .out k → c.holder = (s.claimOf r).holder ∨ (ScheduleConsistent s → LineFree s k)) : CalmMove s (s.setClaim r c)
  | settings (q : PerPort Nat) (n : Nat) (s : State)
      (hq : ∀ p, q.get p = s.schedule.quotas.get p ∨ (1 ≤ q.get p ∧ q.get p ≤ 64 ∧ owned s p ≤ q.get p))
      (hn : n = s.schedule.tolerance ∨ n ≤ 65535) : CalmMove s { s with schedule := { s.schedule with quotas := q, tolerance := n } }
  | place (i : Fin 64) (e : Entry) (s : State) (h : Admissible s i e) : CalmMove s (placeEntry i e s)
  | out (k : Fin 8) (o : OutLine) (s : State)
      (hg : o.gated = true → (s.out k).gated = true ∨ (ScheduleConsistent s → LineFree s k))
      (hd : s.permit.state = .held → (s.out k).gated = true → o.gated = true ∧ o.driven = (s.out k).driven) : CalmMove s (s.setOut k o)
  | delay (n : Nat) (s : State) (h : n ≤ 60000) : CalmMove s (s.setPermit { s.permit with startDelay := n })
  | conclude (s : State) : CalmMove s (conclude s)

abbrev CalmMoves : State → State → Prop := Moves CalmMove

theorem calm_of_entry {s t : State} (h : EntryMoves s t) : CalmMoves s t := Moves.mono (fun _ _ => .entry) h

theorem calm_offer (o : Origin) (b : Body) (s : State) : CalmMoves s (offer o b s) := calm_of_entry (moves_offer o b s)

/-- A new timebase with the same part time, frequency and trim. -/
theorem calm_setTime {x : Timebase} {s : State} (ht : x.partTime = s.time.partTime) (hf : x.refHz = s.time.refHz)
    (hx : x.trim = s.time.trim) : CalmMoves s (s.setTime x) :=
  .single (.clock x s (fun h => ht ▸ h) (.inl hf) (.inl hx))

theorem calm_modLine (n : Fin 16) (f : EventLine → EventLine) (s : State) (h : (s.line n).cfg.InRange → (f (s.line n)).cfg.InRange) :
    CalmMoves s (modLine n f s) := by
  refine .single (.lines _ s fun m hm => ?_)
  have e : (s.lines.set n (f (s.line n)))[m] = if m = n then f (s.line n) else s.line m := line_setEventLine s n m (f (s.line n))
  rw [e]
  split
  · next he => exact h (he ▸ hm)
  · exact hm

/-! ### The timebase and the events of a tick -/

theorem calm_feed (F : Nat) (s : State) : CalmMoves s (feed F s) := calm_setTime rfl rfl rfl

theorem calm_endSlew (s : State) : CalmMoves s (endSlew s) := by
  unfold endSlew
  split
  · exact .refl
  · exact .either (fun _ => Moves.after (calm_offer _ _ _) (calm_setTime rfl rfl rfl)) (fun _ => .refl)

theorem calm_abandonSlew (s : State) : CalmMoves s (abandonSlew s) := by
  unfold abandonSlew
  split
  · exact .refl
  · exact Moves.after (calm_offer _ _ _) (calm_setTime rfl rfl rfl)

theorem calm_takeCapture (p : Port) (s : State) : CalmMoves s (takeCapture p s) := by
  unfold takeCapture
  exact .either (fun _ => Moves.after (.single (.entry (.notice _ _ _))) (calm_setTime rfl rfl rfl)) (fun _ => .refl)

theorem calm_reportExcess (n : Fin 16) (s : State) : CalmMoves s (reportExcess n s) := by
  unfold reportExcess
  exact .either (fun _ => .refl) (fun _ => calm_offer _ _ s)

theorem calm_qualifyEdge (n : Fin 16) (s : State) : CalmMoves s (qualifyEdge n s) := by
  unfold qualifyEdge
  have tracks := calm_modLine n (fun l => { l with tracked := some l.raw, qual := .idle }) s id
  have admits := fun u => calm_of_entry (moves_admitEdge n (s.line n).raw u)
  exact Moves.either
    (fun _ => .either (fun _ => tracks.trans (admits _)) fun _ =>
      .either (fun _ => Moves.after (admits _) (Moves.after (calm_modLine n _ _ id) tracks)) fun _ => Moves.after (calm_modLine n _ _ id) tracks)
    (fun _ => tracks)

theorem calm_endWindow (n : Fin 16) (s : State) : CalmMoves s (endWindow n s) :=
  (calm_reportExcess n s).trans (calm_modLine n _ _ id)

theorem calm_endImmediatePulse (k : Fin 8) (s : State) : CalmMoves s (endImmediatePulse k s) := by
  unfold endImmediatePulse
  split
  · exact .either (fun _ => .single (.entry (.level _ _ _))) (fun _ => .refl)
  · exact .refl

theorem calm_levelFalls (c : Condition) (s : State) : CalmMoves s (levelFalls c s) :=
  .single (.conditions _ s (.inl (Conditions.set_partVote _ _ _)))

theorem calm_setCondition (c : Condition) (r : ConditionRecord) (s : State) : CalmMoves s (s.setCondition c r) :=
  .single (.conditions _ s (.inl (Conditions.set_partVote _ _ _)))

/-- With a latched condition whose action is STOP, the part vote formed is STOP (R168). -/
theorem formPartVote_stop {c : Conditions} {k : Condition} (ha : (c.get k).action = .stop) (hl : (c.get k).firstLatched.isSome = true) :
    formPartVote c = .stop := by
  unfold formPartVote
  rw [if_pos]
  exact List.any_eq_true.mpr ⟨k, by cases k <;> simp [allConditions], by simp [ha, hl]⟩

theorem offer_condition (o : Origin) (b : Body) (s : State) (c : Condition) : (offer o b s).condition c = s.condition c := by
  have hr : ∀ (k : Condition) (u : State), (handRaise k u).condition c = u.condition c := fun k u => by
    unfold handRaise; split
    · rfl
    · cases c <;> rfl
  rcases offerAs_cases s.time.partTime (quality s) o b s with ⟨_, e⟩ | ⟨_, _, e⟩ | ⟨_, _, _, e⟩ | ⟨_, _, _, _, e⟩ | ⟨_, _, _, _, e⟩ <;>
    rw [offer, e]
  · rfl
  · rfl
  · exact hr _ _
  · unfold storeRecord retireOldest; split <;> rfl

theorem calm_raiseCondition (c : Condition) (s : State) : CalmMoves s (raiseCondition c s) := by
  unfold raiseCondition
  refine Moves.either (fun _ => calm_setCondition c _ s) fun _ => ?_
  have latched := ((calm_setCondition c { s.condition c with
      active := (s.condition c).active || isLevelCondition c, firstLatched := some s.time.partTime } s).trans
    (calm_offer .part (.conditionRaised c) _)).tail (.noticeAll noticeCondition none _)
  refine Moves.either (fun ha => latched.tail (.conditions _ _ (.inr ?_))) (fun _ => latched)
  have hc : ∀ u : State, (raiseForAll noticeCondition none (offer .part (.conditionRaised c) u)).conditions.get c = u.condition c :=
    fun u => offer_condition _ _ u c
  refine formPartVote_stop (k := c) ?_ ?_
  · rw [hc]; simp only [State.condition, State.setCondition, Conditions.get_set, if_true]; exact ha
  · rw [hc]; simp only [State.condition, State.setCondition, Conditions.get_set, if_true]; rfl

theorem calm_takeFirstRaise (s : State) : CalmMoves s (takeFirstRaise s) := by
  unfold takeFirstRaise
  split
  · exact .refl
  · exact Moves.after (calm_raiseCondition _ _) (.single (.conditions _ s (.inl rfl)))

/-- The target of a step that is applied lies in range (R12). -/
theorem calm_acceptStep (x : PendingStep) (target : Nat) (s : State) (h : target ≤ 2 ^ 64 - 1) : CalmMoves s (acceptStep x target s) := by
  unfold acceptStep
  refine .trans ?_ (calm_setTime rfl rfl rfl)
  refine Moves.maybe ?_ ((calm_offer _ _ _).trans (calm_levelFalls _ _))
  refine .trans ?_ (calm_offer _ _ _)
  refine .trans ?_ (calm_of_entry (moves_scheduleStep _ _ _))
  exact Moves.after (calm_abandonSlew _) (.single (.clock _ s (fun _ => h) (.inl rfl) (.inl rfl)))

theorem calm_applyStep (s : State) : CalmMoves s (applyStep s) := by
  unfold applyStep
  split
  · exact calm_setTime rfl rfl rfl
  · next x _ =>
    have refuses : CalmMoves s (refuseStep x s) := Moves.after (calm_offer _ _ _) (calm_setTime rfl rfl rfl)
    refine Moves.either (fun _ => refuses) fun h => calm_acceptStep x _ s ?_
    have hm : Config.maxPartTime = 2 ^ 64 - 1 := rfl
    omega

theorem EventLine.tick_cfg (n : Fin 16) (v : Level) (l : EventLine) : (l.tick n v).1.cfg = l.cfg := by
  have hs : ∀ l : EventLine, l.sample.1.cfg = l.cfg := fun l => by
    unfold EventLine.sample
    repeat' split
    all_goals rfl
  unfold EventLine.tick
  dsimp only
  split
  · split
    · split
      · split <;> rfl
      · rw [hs]; split <;> rfl
    · rfl
  · split <;> rfl

theorem nextPartTime_le {t : Nat} (h : t ≤ 2 ^ 64 - 1) : nextPartTime t ≤ 2 ^ 64 - 1 := by
  unfold nextPartTime
  have hm : Config.maxPartTime = 2 ^ 64 - 1 := rfl
  split <;> omega

theorem calm_sampleLines (s : State) : CalmMoves s (sampleLines s) := by
  refine .single (.lines _ s fun n h => ?_)
  have e : (Vector.ofFn fun n => ((s.line n).tick n (pinLevel s.evPins n)).1)[n] = ((s.line n).tick n (pinLevel s.evPins n)).1 := by
    simp
  rw [e, EventLine.tick_cfg]
  exact h

theorem calm_issueTick (s : State) : CalmMoves s (issueTick s) := by
  unfold issueTick
  refine .tail ?_ (.work _ _ _)
  refine .trans ?_ (calm_sampleLines _)
  refine .tail ?_ (.count _)
  exact .single (.clock _ s nextPartTime_le (.inl rfl) (.inl rfl))

end Sys2Proof.Machine
end

section
/-! SUPPORT. A command row does what the frame that carries it does (R195, R196, R199, R200; O4). -/

set_option Elab.async false

namespace Sys2Proof.Machine

/-- A field read back where it was written. -/
theorem field_append {w n : Nat} (before after : List Byte) (v : BitVec w) (h : 2 ^ w ≤ 256 ^ n) :
    field w before.length n (before ++ be n v.toNat ++ after) = v := by
  have hs : slice before.length n (before ++ be n v.toNat ++ after) = be n v.toNat := by
    unfold slice
    rw [List.append_assoc, List.drop_left, List.take_left' (be_length n _)]
  rw [field, hs, field_be v h]

theorem frameCommand_open (p : Port) (m o st : Byte) (k l w : BitVec 16) :
    frameCommand p 0x02#8 (m :: (be 2 k.toNat ++ be 2 l.toNat ++ [o, st] ++ be 2 w.toNat))
      = .known .anyPort (takeOpen p m { kinds := k, lines := l, origins := o } st w) := by
  have hk : field 16 1 2 (m :: (be 2 k.toNat ++ be 2 l.toNat ++ [o, st] ++ be 2 w.toNat)) = k :=
    field_append [m] (be 2 l.toNat ++ [o, st] ++ be 2 w.toNat) k (by norm_num)
  have hl : field 16 3 2 (m :: (be 2 k.toNat ++ be 2 l.toNat ++ [o, st] ++ be 2 w.toNat)) = l :=
    field_append (m :: be 2 k.toNat) ([o, st] ++ be 2 w.toNat) l (by norm_num)
  have hw : field 16 7 2 (m :: (be 2 k.toNat ++ be 2 l.toNat ++ [o, st] ++ be 2 w.toNat)) = w :=
    field_append (m :: (be 2 k.toNat ++ be 2 l.toNat ++ [o, st])) [] w (by norm_num)
  change FrameCommand.known .anyPort (takeOpen p m { kinds := field 16 1 2 _, lines := field 16 3 2 _, origins := o } st (field 16 7 2 _)) = _
  rw [hk, hl, hw]

theorem frameCommand_stepTime (p : Port) (o : BitVec 64) (m : Byte) :
    frameCommand p 0x11#8 (be 8 o.toNat ++ [m]) = .known .liveSession (takeStepTime p o m) := by
  change FrameCommand.known .liveSession (takeStepTime p (field 64 0 8 _) m) = _
  rw [show field 64 0 8 (be 8 o.toNat ++ [m]) = o from field_append [] [m] o (by norm_num)]

theorem frameCommand_slewTime (p : Port) (a : BitVec 32) (r : BitVec 16) :
    frameCommand p 0x12#8 (be 4 a.toNat ++ be 2 r.toNat) = .known .liveSession (takeSlewTime p a r) := by
  have ha : field 32 0 4 (be 4 a.toNat ++ be 2 r.toNat) = a := field_append [] (be 2 r.toNat) a (by norm_num)
  have hr : field 16 4 2 (be 4 a.toNat ++ be 2 r.toNat) = r := field_append (be 4 a.toNat) [] r (by norm_num)
  change FrameCommand.known .liveSession (takeSlewTime p (field 32 0 4 _) (field 16 4 2 _)) = _
  rw [ha, hr]

theorem frameCommand_setTrim (p : Port) (x : BitVec 32) : frameCommand p 0x13#8 (be 4 x.toNat) = .known .liveSession (takeSetTrim p x) := by
  change FrameCommand.known .liveSession (takeSetTrim p (field 32 0 4 _)) = _
  rw [show field 32 0 4 (be 4 x.toNat) = x from field_append [] [] x (by norm_num)]

theorem frameCommand_ackJournal (p : Port) (u : BitVec 64) :
    frameCommand p 0x23#8 (be 8 u.toNat) = .known .anySession (takeAckJournal p u) := by
  change FrameCommand.known .anySession (takeAckJournal p (field 64 0 8 _)) = _
  rw [show field 64 0 8 (be 8 u.toNat) = u from field_append [] [] u (by norm_num)]

theorem frameCommand_seekJournal (p : Port) (w : Byte) (q : BitVec 64) :
    frameCommand p 0x24#8 (w :: be 8 q.toNat) = .known .liveSession (takeSeekJournal p w q) := by
  change FrameCommand.known .liveSession (takeSeekJournal p w (field 64 1 8 _)) = _
  rw [show field 64 1 8 (w :: be 8 q.toNat) = q from field_append [w] [] q (by norm_num)]

theorem frameCommand_setFilter (p : Port) (k l : BitVec 16) (o : Byte) :
    frameCommand p 0x25#8 (be 2 k.toNat ++ be 2 l.toNat ++ [o])
      = .known .liveSession (takeSetFilter p { kinds := k, lines := l, origins := o }) := by
  have hk : field 16 0 2 (be 2 k.toNat ++ be 2 l.toNat ++ [o]) = k := field_append [] (be 2 l.toNat ++ [o]) k (by norm_num)
  have hl : field 16 2 2 (be 2 k.toNat ++ be 2 l.toNat ++ [o]) = l := field_append (be 2 k.toNat) [o] l (by norm_num)
  change FrameCommand.known .liveSession (takeSetFilter p { kinds := field 16 0 2 _, lines := field 16 2 2 _, origins := o }) = _
  rw [hk, hl]

theorem readDescriptor_descriptorBytes (d : Descriptor) : readDescriptor (descriptorBytes d) = d := by
  have hw : field 24 3 3 (descriptorBytes d) = d.width := field_append [d.action, d.line, d.pulseLevel]
    ([d.timing] ++ be 8 d.timeValue.toNat ++ [d.trigLine, d.trigEdge, d.rearm] ++ be 4 d.period.toNat ++ be 2 d.count.toNat
      ++ [d.latePolicy, d.flags]) d.width (by norm_num)
  have ht : field 64 7 8 (descriptorBytes d) = d.timeValue := field_append
    ([d.action, d.line, d.pulseLevel] ++ be 3 d.width.toNat ++ [d.timing])
    ([d.trigLine, d.trigEdge, d.rearm] ++ be 4 d.period.toNat ++ be 2 d.count.toNat ++ [d.latePolicy, d.flags]) d.timeValue (by norm_num)
  have hp : field 32 18 4 (descriptorBytes d) = d.period := field_append
    ([d.action, d.line, d.pulseLevel] ++ be 3 d.width.toNat ++ [d.timing] ++ be 8 d.timeValue.toNat ++ [d.trigLine, d.trigEdge, d.rearm])
    (be 2 d.count.toNat ++ [d.latePolicy, d.flags]) d.period (by norm_num)
  have hc : field 16 22 2 (descriptorBytes d) = d.count := field_append
    ([d.action, d.line, d.pulseLevel] ++ be 3 d.width.toNat ++ [d.timing] ++ be 8 d.timeValue.toNat ++ [d.trigLine, d.trigEdge, d.rearm]
      ++ be 4 d.period.toNat) [d.latePolicy, d.flags] d.count (by norm_num)
  unfold readDescriptor
  rw [hw, ht, hp, hc]
  rfl

theorem frameCommand_addEntry (p : Port) (d : Descriptor) :
    frameCommand p 0x30#8 (descriptorBytes d) = .known .liveSession (takeAddEntry p d) := by
  change FrameCommand.known .liveSession (takeAddEntry p (readDescriptor _)) = _
  rw [readDescriptor_descriptorBytes]

theorem frameCommand_setLine (p : Port) (l a v : Byte) (w : BitVec 24) :
    frameCommand p 0x38#8 ([l, a, v] ++ be 3 w.toNat) = .known .liveSession (takeSetLine p l a v w) := by
  change FrameCommand.known .liveSession (takeSetLine p l a v (field 24 3 3 _)) = _
  rw [show field 24 3 3 ([l, a, v] ++ be 3 w.toNat) = w from field_append [l, a, v] [] w (by norm_num)]

theorem frameCommand_configure (p : Port) (g n : Byte) (v : BitVec 32) :
    frameCommand p 0x44#8 ([g, n] ++ be 4 v.toNat) = .known .liveSession (configureAct p g n v) := by
  change FrameCommand.known .liveSession (configureAct p g n (field 32 2 4 _)) = _
  rw [show field 32 2 4 ([g, n] ++ be 4 v.toNat) = v from field_append [g, n] [] v (by norm_num)]

theorem frameCommand_readConfig (p : Port) (x : BitVec 16) : frameCommand p 0x45#8 (be 2 x.toNat) = .known .liveSession (takeReadConfig x) := by
  change FrameCommand.known .liveSession (takeReadConfig (field 16 0 2 _)) = _
  rw [show field 16 0 2 (be 2 x.toNat) = x from field_append [] [] x (by norm_num)]

theorem exec_configure {row : Port → Byte → Byte → BitVec 32 → Instr} {g : Byte} {p : Port} {tag n : Byte} {v : BitVec 32}
    {s : State} (h : exec (row p tag n v) s = .next (onCommand p tag 6 .liveSession (configureAct p g n v) s)) :
    exec (row p tag n v) s = .next (onFrame p tag ([g, n] ++ be 4 v.toNat).length (frameCommand p 0x44#8 ([g, n] ++ be 4 v.toNat)) s) := by
  rw [h, frameCommand_configure]
  rfl

/-- Every command row is the end of the frame that carries it. -/
theorem exec_eq_onFrame {i : Instr} {p : Port} {tag command : Byte} {payload : List Byte}
    (h : frameFields? i = some (p, tag, command, payload)) (s : State) :
    exec i s = .next (onFrame p tag payload.length (frameCommand p command payload) s) := by
  cases i
  case openSession => cases h; rw [frameCommand_open]; rfl
  case stepTime => cases h; rw [frameCommand_stepTime]; rfl
  case slewTime => cases h; rw [frameCommand_slewTime]; rfl
  case setTrim => cases h; rw [frameCommand_setTrim]; rfl
  case ackJournal => cases h; rw [frameCommand_ackJournal]; rfl
  case seekJournal => cases h; rw [frameCommand_seekJournal]; rfl
  case setFilter => cases h; rw [frameCommand_setFilter]; rfl
  case addEntry => cases h; rw [frameCommand_addEntry]; rfl
  case setLine => cases h; rw [frameCommand_setLine]; rfl
  case readConfig => cases h; rw [frameCommand_readConfig]; rfl
  case enroll v => cases h; cases v <;> rfl
  case configureRefHz => cases h; exact exec_configure rfl
  case configureEnabled => cases h; exact exec_configure rfl
  case configureEdgeSelect => cases h; exact exec_configure rfl
  case configureFilterLength => cases h; exact exec_configure rfl
  case configureChatterBudget => cases h; exact exec_configure rfl
  case configureQuota => cases h; exact exec_configure rfl
  case configureLateTolerance => cases h; exact exec_configure rfl
  case configureRestLevel => cases h; exact exec_configure rfl
  case configureSafeLevel => cases h; exact exec_configure rfl
  case configureGatedFlag => cases h; exact exec_configure rfl
  case configureStartDelay => cases h; exact exec_configure rfl
  case configureConditionAction => cases h; exact exec_configure rfl
  all_goals cases h
  all_goals rfl

/-- Writing a sound frame is the end of a command write that carries its command. -/
theorem exec_commandWrite_frame (p : Port) (tag command : Byte) (payload : List Byte) (s : State) (h : payload.length ≤ 300) :
    exec (.commandWrite p (commandFrame tag command payload)) s
      = .next (onFrame p tag payload.length (frameCommand p command payload) s) := by
  obtain ⟨hne, hsync⟩ := commandFrame_opens tag command payload
  change execCommandWrite p (syncByte :: _) s = _
  unfold execCommandWrite
  simp only [hsync, if_false]
  rw [show (syncByte :: (frameBody tag command payload ++ crcBytes (frameBody tag command payload))) = commandFrame tag command payload from rfl,
    if_neg hne, readFrame_commandFrame tag command payload h]

/-- A well-formed row's payload fits a frame. -/
theorem payload_length_of_wellFormed {i : Instr} (hw : i.wellFormed = true) {p : Port} {tag command : Byte} {payload : List Byte}
    (h : frameFields? i = some (p, tag, command, payload)) : payload.length ≤ 300 := by
  cases i
  case postNote note =>
    cases h
    simp only [Instr.wellFormed, Bool.and_eq_true, decide_eq_true_eq] at hw
    omega
  case enroll v => cases h; cases v <;> simp
  all_goals cases h
  all_goals simp [be_length, descriptorBytes]

/-- Settles O4: the row and its frame are the end of the same command write. -/
theorem frameCarriesRow : Obligations.FrameCarriesRow := by
  intro i p tag command payload s hw h
  rw [exec_eq_onFrame h, exec_commandWrite_frame p tag command payload s (payload_length_of_wellFormed hw h)]

end Sys2Proof.Machine
end

section
/-! SUPPORT. Every command's act, every event of the part and every row as a chain of moves. -/

set_option Elab.async false

namespace Sys2Proof.Machine

/-! ### Claims -/

theorem calm_waits (p : Port) (s : State) : CalmMoves s (leaveWaitLists p s) := .single (.waits p s)

/-- Once p's entries on a line are cancelled, a line that p holds has no entry. -/
theorem lineFree_of_cancelled {p : Port} {k : Fin 8} {s t : State} (ho : s.holds p (.out k) = true) (hc : s.claims = t.claims)
    (he : ∀ i e, s.entry i = some e → ¬ (e.owner = p ∧ e.line = some k)) (h : ScheduleConsistent t) (ht : ∀ i, t.entry i = s.entry i) :
    LineFree s k := by
  intro i e hi hl
  have hh : (t.claimOf (.out k)).holder = some e.owner := h.holder i e k ((ht i).trans hi) hl
  have hs : (s.claimOf (.out k)).holder = some e.owner := by unfold State.claimOf at hh ⊢; rw [hc]; exact hh
  simp only [State.holds, hs, beq_iff_eq, Option.some.injEq] at ho
  exact he i e hi ⟨ho, hl⟩

theorem holds_congr {s t : State} (h : t.claims = s.claims) (p : Port) (r : Resource) : t.holds p r = s.holds p r := by
  unfold State.holds State.claimOf; rw [h]

theorem claims_of_kept {bs : List Block} {s t : State} (h : Kept bs s t) (hb : Block.claims ∉ bs := by decide) : t.claims = s.claims :=
  h.unchanged .claims hb

/-- The hand-over of a record: the holder goes, the first waiter follows. -/
theorem calm_passOn (r : Resource) (s : State) (h : ∀ k, r = .out k → ScheduleConsistent s → LineFree s k) : CalmMoves s (passOn r s) := by
  unfold passOn
  split
  · exact .single (.claim r _ s (fun _ => ⟨fun _ => rfl, by simp, List.nodup_nil⟩) fun k hk => .inr (h k hk))
  · next w rest hw =>
    refine Moves.after (.single (.entry (.notice _ _ _))) (Moves.after (calm_offer _ _ _) (.single (.claim r _ s (fun c => ?_) fun k hk => .inr (h k hk))))
    have hn := c.once
    rw [hw, List.nodup_cons] at hn
    exact ⟨fun h => by simp at h, fun p hp => by cases hp; exact hn.1, hn.2⟩

theorem calm_clearLine (p : Port) (k : Fin 8) (s : State) : CalmMoves s (clearLine p k s) := by
  unfold clearLine
  refine .tail (.tail (calm_of_entry (moves_cancelWhere _ _ s)) (.entry (.level _ _ _))) (.out _ _ _ (fun h => .inl h) fun hh hg => ⟨hg, ?_⟩)
  simp only [OutLine.formed, OutLine.drive, hg, hh, if_true]

/-- Entries and claims after a line has been cleared. -/
theorem clearLine_entry {p : Port} {k : Fin 8} {s : State} {i : Fin 64} {e : Entry} (h : (clearLine p k s).entry i = some e) :
    ¬ (e.owner = p ∧ e.line = some k) := by
  obtain ⟨_, ht⟩ := of_entry_cancelWhere (c := .released) (test := fun e => e.owner == p && e.line == some k) (s := s) h
  simpa using ht

theorem calm_handOver (p : Port) (c : ClaimCause) (r : Resource) (s : State) (h : s.holds p r = true) : CalmMoves s (handOver p c r s) := by
  unfold handOver
  cases r with
  | time => exact Moves.after (calm_passOn _ _ (by simp)) (calm_offer _ _ s)
  | config => exact Moves.after (calm_passOn _ _ (by simp)) (calm_offer _ _ s)
  | out k =>
    refine Moves.after (calm_passOn _ _ ?_) (Moves.after (calm_clearLine _ _ _) (calm_offer _ _ s))
    rintro k' hk hs
    obtain rfl : k = k' := by injection hk
    have hc := claims_of_kept ((kept_offer (.master p) (.claimReleased (.out k) c) s).mono (cs := entryBlocks) (sub_of_all rfl) |>.trans
      (kept_clearLine p k _))
    exact lineFree_of_cancelled ((holds_congr hc p _).trans h) rfl (fun i e hi => clearLine_entry hi) hs fun _ => rfl

theorem calm_handOverIfHeld (p : Port) (c : ClaimCause) (s : State) (r : Resource) : CalmMoves s (handOverIfHeld p c s r) := by
  unfold handOverIfHeld
  exact .either (fun h => calm_handOver p c r s h) (fun _ => .refl)

/-! ### Changes of the electorate and of the part vote -/

/-- A command's change of the electorate or of the part vote. A master that votes or enrols has no LAPSED session. -/
inductive Shift : State → State → Prop
  | elector (p : Port) (e : Option Elector) (c : PermitCause) (x : Option Port) (s : State)
      (h : ∀ v, e = some v → ∀ y, s.session p = some y → y.liveness = .live) : Shift s (setElector p e c x s)
  | vote (s : State) : Shift s (takePartVote (formPartVoteAgain s))

/-- What a command's act can do: calm moves, and among them at most one change of the electorate or of the part vote. -/
def Acted (s t : State) : Prop := ∃ u v, CalmMoves s u ∧ (v = u ∨ Shift u v) ∧ CalmMoves v t

theorem Acted.calm {s t : State} (h : CalmMoves s t) : Acted s t := ⟨t, t, h, .inl rfl, .refl⟩

theorem Acted.shift {s t : State} (h : Shift s t) : Acted s t := ⟨s, t, .refl, .inr h, .refl⟩

theorem Acted.after {s t u : State} (k : CalmMoves t u) (h : Acted s t) : Acted s u := by
  obtain ⟨v, w, h1, h2, h3⟩ := h
  exact ⟨v, w, h1, h2, h3.trans k⟩

theorem Acted.before {s t u : State} (h : CalmMoves s t) (k : Acted t u) : Acted s u := by
  obtain ⟨v, w, h1, h2, h3⟩ := k
  exact ⟨v, w, h.trans h1, h2, h3⟩

theorem acted_dropElector (p : Port) (s : State) : Acted s (dropElector p s) := by
  unfold dropElector
  split
  · exact .calm .refl
  · exact .shift (.elector p none .electorate (some p) s (by simp))

theorem acted_closeSessionOn (p : Port) (c : CloseCause) (s : State) : Acted s (closeSessionOn p c s) := by
  unfold closeSessionOn
  refine .after (calm_offer _ _ _) (.after (.single (.reexamine _)) (.after (.single (.unseat p _)) ?_))
  refine .before ?_ (acted_dropElector p _)
  exact Moves.after (Moves.foldl (calm_handOverIfHeld p .close) _ _) (Moves.after (calm_waits p _) (calm_of_entry (moves_cancelWhere _ _ s)))

/-! ### Sessions and the journal -/

/-- What a command's act needs to know of the session it is taken from. -/
def ActsFrom (f : TakenFrom) (p : Port) (act : Act) : Prop :=
  ∀ s, (f.lapsed = false → ∀ y, s.session p = some y → y.liveness = .live) → Acted s (act s).1

/-- An act made of calm moves, from any session. -/
theorem actsFrom_calm {f : TakenFrom} {p : Port} {act : Act} (h : ∀ s, CalmMoves s (act s).1) : ActsFrom f p act := fun s _ => .calm (h s)

theorem calm_withSession {p : Port} {g : Session → Act} {s : State} (h : ∀ x, s.session p = some x → CalmMoves s (g x s).1) :
    CalmMoves s (withSession p g s).1 := by
  unfold withSession
  split
  · next x hx => exact h x hx
  · exact .refl

theorem calm_reexamine (s : State) : CalmMoves s (reexamine s) := .single (.reexamine s)

/-- A session put in place of itself with its liveness and with a reader whose positions lie in order. -/
theorem calm_reseat {p : Port} {s : State} {x : Session} (y : Session) (hx : s.session p = some x) (hl : y.liveness = x.liveness)
    (hr : ReadersConsistent s → ReaderWithin s x.reader → ReaderWithin s y.reader) : CalmMoves s (s.setSession p (some y)) :=
  .single (.seat p y s (.inr ⟨x, hx, hl.symm⟩) fun h => hr h (h.readers p x hx))

/-! ### The seqs of the store -/

theorem JournalConsistent.seq {j : Journal} (h : JournalConsistent j) {i : Nat} (hi : i < j.store.length) :
    (j.store[i]).seq = j.counter - (j.store.length - i) := by have := h.seqs i hi; omega

/-- In a consistent journal the store's seqs begin at the counter less the number of records. -/
theorem oldestSeq_eq {s : State} (h : JournalConsistent s.journal) : oldestSeq s = s.journal.counter - s.journal.store.length := by
  unfold oldestSeq
  split
  · next h0 => simp [h0]
  · next r rest h0 =>
    have hi : 0 < s.journal.store.length := by rw [h0]; simp
    have := h.seq hi
    simpa [h0] using this

/-- One past the newest seq held is the counter. -/
theorem endSeq_eq {s : State} (h : JournalConsistent s.journal) : endSeq s = s.journal.counter := by
  unfold endSeq
  cases h0 : s.journal.store.getLast? with
  | none => rfl
  | some r =>
    rw [List.getLast?_eq_getElem?] at h0
    obtain ⟨hi, hr⟩ := List.getElem?_eq_some_iff.mp h0
    have hs := h.seqs (s.journal.store.length - 1) hi
    rw [hr] at hs
    dsimp only
    omega

theorem oldestSeq_le_endSeq {s : State} (h : JournalConsistent s.journal) : oldestSeq s ≤ endSeq s := by
  rw [oldestSeq_eq h, endSeq_eq h]; omega

/-- A record held lies within the seqs held. -/
theorem seq_within {s : State} (h : JournalConsistent s.journal) {r : Record} (hr : r ∈ s.journal.store) :
    oldestSeq s ≤ r.seq ∧ r.seq < endSeq s := by
  rw [oldestSeq_eq h, endSeq_eq h]
  obtain ⟨i, hi, rfl⟩ := List.mem_iff_getElem.mp hr
  have := h.seqs i hi
  omega

theorem readerStart_within {s : State} (h : JournalConsistent s.journal) {b : Byte} {c : Nat} (hc : readerStart? b s = some c) :
    oldestSeq s ≤ c ∧ c ≤ endSeq s := by
  have := oldestSeq_le_endSeq h
  unfold readerStart? at hc
  split_ifs at hc <;> cases hc <;> omega

/-- The last record a scan examines is one of those it began with. -/
theorem scan_last_mem (f : Filter) : ∀ (n : Nat) (l : List Record) (q : Nat), (scan f n l).2 = some q → ∃ r ∈ l, r.seq = q
  | 0, l, q, h => by simp [scan] at h
  | n + 1, [], q, h => by simp [scan] at h
  | n + 1, r :: rest, q, h => by
      have key : ∀ m, ((scan f m rest).2.getD r.seq) = q → ∃ x ∈ r :: rest, x.seq = q := fun m hm => by
        cases hs : (scan f m rest).2 with
        | none => exact ⟨r, by simp, by simpa [hs] using hm⟩
        | some y =>
          obtain ⟨x, hx, he⟩ := scan_last_mem f m rest y hs
          exact ⟨x, by simp [hx], by simpa [hs, he] using hm⟩
      unfold scan at h
      split at h
      · exact key n (by simpa using h)
      · exact key (n + 1) (by simpa using h)

theorem afterRead_within {s : State} {x : Session} (h : JournalConsistent s.journal) (hx : ReaderWithin s x.reader) (n : Nat) (c : Bool) :
    ReaderWithin s (x.reader.afterRead (scan x.reader.filter n (scanStart s x)).2 c) := by
  obtain ⟨h1, h2, h3⟩ := hx
  have mark : ∀ m, x.reader.cursor ≤ m → m ≤ endSeq s → ReaderWithin s { x.reader with readMark := m, cursor := if c then m else x.reader.cursor } :=
    fun m lo hi => by
      cases c
      · exact ⟨h1, lo, hi⟩
      · exact ⟨h1.trans lo, le_rfl, hi⟩
  unfold Reader.afterRead
  cases hs : (scan x.reader.filter n (scanStart s x)).2 with
  | none => exact mark _ le_rfl (h2.trans h3)
  | some q =>
    obtain ⟨r, hr, rfl⟩ := scan_last_mem _ _ _ _ hs
    obtain ⟨hm, hc⟩ := List.mem_filter.mp hr
    have := seq_within h hm
    have hc' : x.reader.cursor ≤ r.seq := by simpa using hc
    exact mark (r.seq + 1) (by omega) (by omega)

theorem calm_readJournal (p : Port) (n c : Byte) (s : State) : CalmMoves s (takeReadJournal p n c s).1 := by
  refine calm_withSession fun x hx => ?_
  split
  · exact .refl
  · next c _ =>
    split
    · exact .refl
    · exact Moves.maybe (calm_reseat _ hx rfl fun h hw => afterRead_within h.journal hw _ _) (calm_reexamine _)

theorem calm_ackJournal (p : Port) (u : BitVec 64) (s : State) : CalmMoves s (takeAckJournal p u s).1 := by
  refine calm_withSession fun x hx => ?_
  split_ifs with h1 h2
  · exact .refl
  · refine Moves.after (calm_reexamine _) (calm_reseat _ hx rfl fun h hw => ?_)
    obtain ⟨w1, w2, w3⟩ := hw
    exact ⟨by dsimp only; omega, by dsimp only; omega, w3⟩
  · exact calm_reexamine s

theorem seekTarget_within {s : State} (h : JournalConsistent s.journal) {w : Byte} {q c : Nat} (hc : seekTarget? w q s = some c) :
    oldestSeq s ≤ c ∧ c ≤ endSeq s := by
  unfold seekTarget? at hc
  split_ifs at hc with h1 h2 h3
  · cases hc; exact h2
  · exact readerStart_within h hc

theorem calm_seekJournal (p : Port) (w : Byte) (q : BitVec 64) (s : State) : CalmMoves s (takeSeekJournal p w q s).1 := by
  refine calm_withSession fun x hx => ?_
  split
  · next c hc =>
    refine Moves.after (calm_reexamine _) (calm_reseat _ hx rfl fun h _ => ?_)
    obtain ⟨h1, h2⟩ := seekTarget_within h.journal hc
    exact ⟨h1, le_rfl, h2⟩
  · exact .refl

theorem calm_setFilter (p : Port) (f : Filter) (s : State) : CalmMoves s (takeSetFilter p f s).1 := by
  refine calm_withSession fun x hx => ?_
  split
  · exact Moves.after (calm_reexamine _) (calm_reseat _ hx rfl fun _ ⟨h1, h2, h3⟩ => ⟨h1, le_rfl, h2.trans h3⟩)
  · exact .refl

theorem calm_setReaderMode (p : Port) (m : Byte) (s : State) : CalmMoves s (takeSetReaderMode p m s).1 := by
  refine calm_withSession fun x hx => ?_
  split
  · exact Moves.after (calm_reexamine _) (calm_reseat _ hx rfl fun _ h => h)
  · exact .refl

theorem calm_open (p : Port) (m : Byte) (f : Filter) (st : Byte) (w : BitVec 16) (s : State) : CalmMoves s (takeOpen p m f st w s).1 := by
  unfold takeOpen
  split
  · exact .refl
  · split
    · next m c _ hc =>
      split
      · refine Moves.after (calm_offer _ _ _) (.single (.seat p _ s (.inl rfl) fun h => ?_))
        obtain ⟨h1, h2⟩ := readerStart_within h.journal hc
        exact ⟨h1, le_rfl, h2⟩
      · exact .refl
    · exact .refl

theorem calm_renew (p : Port) (s : State) : CalmMoves s (takeRenew p s).1 := by
  refine calm_withSession fun x hx => ?_
  split
  · exact Moves.after (calm_offer _ _ _) (.single (.seat p _ s (.inl rfl) fun h => h.readers p x hx))
  · exact .refl

theorem calm_status (p : Port) (s : State) : CalmMoves s (takeStatus p s).1 :=
  calm_withSession fun _ hx => calm_reseat _ hx rfl fun _ h => h

theorem calm_setAttentionMask (p : Port) (m : Byte) (s : State) : CalmMoves s (takeSetAttentionMask p m s).1 := by
  refine calm_withSession fun x hx => ?_
  split
  · exact calm_reseat _ hx rfl fun _ h => h
  · exact .refl

theorem calm_postNote (p : Port) (n : List Byte) (s : State) : CalmMoves s (takePostNote p n s).1 := by
  unfold takePostNote
  split <;> exact calm_offer _ _ s

/-! ### Time -/

theorem calm_stepTime (p : Port) (o : BitVec 64) (m : Byte) (s : State) : CalmMoves s (takeStepTime p o m s).1 := by
  have reports : CalmMoves s (reportReplaced s) := by
    unfold reportReplaced
    split
    · exact .refl
    · exact calm_offer _ _ s
  unfold takeStepTime
  split
  · split
    · split
      · exact Moves.after (calm_setTime rfl rfl rfl) reports
      · exact .refl
    · exact .refl
  · exact .refl

theorem calm_slewTime (p : Port) (a : BitVec 32) (r : BitVec 16) (s : State) : CalmMoves s (takeSlewTime p a r s).1 := by
  unfold takeSlewTime
  split
  · split
    · exact Moves.after (calm_offer _ _ _) (Moves.after (calm_setTime rfl rfl rfl) (calm_abandonSlew s))
    · exact .refl
  · exact .refl

theorem calm_setTrim (p : Port) (x : BitVec 32) (s : State) : CalmMoves s (takeSetTrim p x s).1 := by
  unfold takeSetTrim
  split
  · split
    · next h => exact Moves.after (calm_offer _ _ _) (.single (.clock _ s id (.inl rfl) (.inr (by simpa [trimInRange] using h))))
    · exact .refl
  · exact .refl

theorem calm_readStrobe (p : Port) (s : State) : CalmMoves s (takeReadStrobe p s).1 := by
  unfold takeReadStrobe
  dsimp only
  split
  · exact calm_setTime rfl rfl rfl
  · exact .refl

/-! ### The schedule and the lines -/

/-- The line of a descriptor in range is the one its checks are made on (R78, R79). -/
theorem descriptorClaimLine_of_spec {d : Descriptor} {x : EntrySpec} (h : descriptorSpec? d = some x) {k : Fin 8} (hk : x.line = some k) :
    descriptorClaimLine? d = some k := by
  unfold descriptorSpec? at h
  simp only [Option.bind_eq_bind, Option.bind_eq_some_iff] at h
  obtain ⟨a, ha, l, hl, _, _, _, _, _, _, _, _, hx⟩ := h
  split at hx
  · cases hx
    dsimp only at hk
    subst hk
    unfold descriptorClaimLine?
    rw [ha]
    unfold specLine? at hl
    cases a
    case mark => dsimp only at hl; split_ifs at hl; simp at hl
    all_goals
      obtain ⟨j, hj, hjk⟩ := Option.map_eq_some_iff.mp hl
      cases hjk
      exact hj
  · cases hx

theorem lowestFree_free {s : State} {i : Fin 64} (h : lowestFree s = some i) : s.entry i = none := by
  have := List.mem_of_mem_head? h
  simpa using (List.mem_filter.mp this).2

theorem calm_addEntry (p : Port) (d : Descriptor) (s : State) : CalmMoves s (takeAddEntry p d s).1 := by
  unfold takeAddEntry
  split
  · exact .refl
  · next h1 =>
    split
    · exact .refl
    · next h2 =>
      split
      · exact .refl
      · next x hx =>
        split
        · exact .refl
        · next h3 =>
          split
          · exact .refl
          · next i hi =>
            refine Moves.after (calm_of_entry (moves_afterAdmission i _ _)) (.single (.place i _ s ?_))
            refine ⟨lowestFree_free hi, Nat.lt_of_not_le h3, fun k hk => ?_, fun k hk hg => ?_⟩
            · simpa [lacksLine, descriptorClaimLine_of_spec hx hk, newEntry] using h1
            · simpa [gateShut, descriptorClaimLine_of_spec hx hk, hg] using h2

theorem calm_cancelEntry (p : Port) (i g : Byte) (s : State) : CalmMoves s (takeCancelEntry p i g s).1 := by
  unfold takeCancelEntry
  split
  · exact .refl
  · exact .refl
  · split
    · exact calm_of_entry (moves_cancel _ s _)
    · exact .refl

theorem calm_setLine (p : Port) (l a v : Byte) (w : BitVec 24) (s : State) : CalmMoves s (takeSetLine p l a v w s).1 := by
  unfold takeSetLine
  split
  · exact .refl
  · next k _ =>
    split
    · exact .refl
    · split
      · exact .refl
      · next hr =>
        split
        · exact .refl
        · next a _ =>
          have hg : ∀ o : OutLine, (a.apply o).gated = o.gated := fun o => by cases a <;> rfl
          refine .single (.out k _ s (fun h => .inl ((hg _).symm.trans h)) fun hh hgk => ?_)
          simp [hgk, hh] at hr

theorem calm_claim (p : Port) (r w : Byte) (s : State) : CalmMoves s (takeClaim p r w s).1 := by
  unfold takeClaim
  split
  · next r w _ _ =>
    split
    · next hh =>
      refine Moves.after (calm_offer _ _ _) (.single (.claim r _ s (fun c => ?_) fun k hk => .inr fun hs i e hi hl => ?_))
      · have hw := c.free hh
        exact ⟨fun h => by simp at h, fun _ _ => by simp [hw], by simp [hw]⟩
      · subst hk
        have := hs.holder i e k hi hl
        rw [hh] at this; cases this
    · next h hh =>
      split
      · exact .refl
      · next hne =>
        unfold claimHeld
        dsimp only
        split
        · split
          · exact .refl
          · next hm =>
            refine .single (.claim r _ s (fun c => ?_) fun k hk => .inl rfl)
            refine ⟨fun h0 => ?_, fun q hq => ?_, ?_⟩
            · dsimp only at h0; rw [hh] at h0; cases h0
            · obtain rfl : h = q := Option.some.inj (hh.symm.trans hq)
              have := c.holder h hh
              simp [this, hne]
            · exact List.nodup_append.mpr ⟨c.once, by simp, fun q hq q' hq' => by
                rintro rfl
                exact hm (List.mem_singleton.mp hq' ▸ hq)⟩
        · exact .refl
  · exact .refl

theorem calm_release (p : Port) (r : Byte) (s : State) : CalmMoves s (takeRelease p r s).1 := by
  unfold takeRelease
  split
  · exact .refl
  · split
    · next r _ h => exact calm_handOver p _ r s h
    · exact .refl

/-- Masters taken off a wait list leave the record consistent. -/
theorem ClaimConsistent.filter {c : ClaimRecord} (h : ClaimConsistent c) (f : Port → Bool) :
    ClaimConsistent { c with waiters := c.waiters.filter f } :=
  ⟨fun h0 => by simp [h.free h0], fun p hp hm => h.holder p hp (List.mem_filter.mp hm).1, h.once.filter f⟩

theorem calm_withdraw (p : Port) (r : Byte) (s : State) : CalmMoves s (takeWithdraw p r s).1 := by
  unfold takeWithdraw
  split
  · exact .refl
  · next r _ =>
    dsimp only
    split
    · exact .single (.claim r _ s (fun c => c.filter _) fun _ _ => .inl rfl)
    · exact .refl

/-! ### Configuration -/

/-- A CONFIGURE acts as what the write stores does, with a value in range that no state forbids. -/
theorem acted_configure {ι α : Type} {x : Parameter ι α}
    (h : ∀ i v n s u, x.value? n = some v → x.barred i v s = false → Kept offerBlocks s u → Acted u (x.store i v u)) (p : Port) (inst : Byte)
    (value : BitVec 32) (s : State) : Acted s (x.configure p inst value s).1 := by
  unfold Parameter.configure
  split
  · exact .calm .refl
  · split
    · exact .calm .refl
    · split
      · exact .calm .refl
      · next v hv =>
        split
        · exact .calm .refl
        · next hb => exact .before (calm_offer _ _ s) (h _ v _ s _ hv (by simpa using hb) (kept_offer _ _ _))

theorem numberIn_some {low high x v : Nat} (h : numberIn? low high x = some v) : low ≤ v ∧ v ≤ high := by
  unfold numberIn? at h
  split at h
  · next hr => cases h; exact hr
  · cases h

theorem owned_congr {s t : State} (h : t.schedule = s.schedule) (p : Port) : owned t p = owned s p := by
  unfold owned slotsWhere State.entry; rw [h]

theorem stopped_of_not_barred {ι α : Type} {i : ι} {v : α} {s u : State} (h : stoppedOnly i v s = false) (hu : Kept offerBlocks s u) :
    u.permit.state = .stopped := by
  have hp : u.permit = s.permit := hu.unchanged .permit (by decide)
  rw [hp]
  simpa [stoppedOnly] using h

theorem acted_configureQuota (p : Port) (n : Byte) (v : BitVec 32) (s : State) : Acted s (takeConfigureQuota p n v s).1 := by
  refine acted_configure (fun m v n s u hv hb hu => .calm (.single (.settings _ u.schedule.tolerance u (fun q => ?_) (.inl rfl)))) p n v s
  rw [PerPort.get_set]
  split
  · next hq =>
    subst hq
    obtain ⟨h1, h2⟩ := numberIn_some hv
    have ho : owned u q ≤ v := by
      rw [owned_congr (hu.unchanged .schedule (by decide))]
      simpa [paramQuota] using hb
    exact .inr ⟨h1, h2, ho⟩
  · exact .inl rfl

theorem calm_storeSafeLevel (k : Fin 8) (v : Level) (s : State) : CalmMoves s (storeSafeLevel k v s) := by
  have sets : CalmMoves s (s.setOut k { s.out k with safe := v }) := .single (.out k _ s .inl fun _ h => ⟨h, rfl⟩)
  unfold storeSafeLevel
  exact .either (fun _ => .refl) fun _ => .either (fun _ => Moves.after (.single (.entry (.level _ _ _))) sets) fun _ => sets

theorem calm_storeGatedFlag (k : Fin 8) (v : Bool) (s : State) (h : s.permit.state = .stopped) : CalmMoves s (storeGatedFlag k v s) := by
  unfold storeGatedFlag
  refine .either (fun _ => .refl) fun _ => .either (fun _ => ?_) fun _ => ?_
  · refine Moves.after (.single (.entry (.level _ _ _))) ?_
    refine Moves.after (.single (.out k _ _ (fun _ => .inr fun _ i e hi hl => ?_) fun hh => ?_)) (calm_of_entry (moves_cancelWhere _ _ s))
    · have := (of_entry_cancelWhere hi).2
      simp [hl] at this
    · have hp : (cancelWhere .permitStop (fun e => e.line == some k) s).permit = s.permit :=
        (kept_cancelWhere _ _ s).unchanged .permit (by decide)
      rw [hp, h] at hh; cases hh
  · exact .single (.out k _ s (fun h => by cases h) fun hh => by rw [h] at hh; cases hh)

theorem acted_storeConditionAction (c : Condition) (v : ConditionAction) (s : State) : Acted s (storeConditionAction c v s) := by
  unfold storeConditionAction
  split
  · exact .calm .refl
  · exact .before (calm_setCondition c _ s) (.shift (.vote _))

theorem actsFrom_configureAct (p : Port) (g n : Byte) (v : BitVec 32) : ActsFrom .liveSession p (configureAct p g n v) := by
  have line : ∀ (f : LineConfig → LineConfig) (m : Fin 16) (u : State), ((u.line m).cfg.InRange → (f (u.line m).cfg).InRange) →
      Acted u (storeLineConfig m f u) := fun f m u h => .calm (calm_modLine m _ u h)
  have level : ∀ (k : Fin 8) (v : Level) (u : State), Acted u (u.setOut k { u.out k with rest := v }) := fun k v u =>
    .calm (.single (.out k _ u .inl fun _ h => ⟨h, rfl⟩))
  unfold configureAct
  split
  · exact fun s _ => acted_configure (fun _ v n s u hv _ _ => .calm (.single (.clock { u.time with refHz := v } u id (.inr (numberIn_some hv)) (.inl rfl)))) p n v s
  · exact fun s _ => acted_configure (fun m v n s u _ _ _ => line (fun c => { c with enabled := v }) m u id) p n v s
  · exact fun s _ => acted_configure (fun m v n s u _ _ _ => line (fun c => { c with edge := v }) m u id) p n v s
  · exact fun s _ => acted_configure (fun m v n s u hv _ _ => line (fun c => { c with filter := v }) m u fun h => ⟨(numberIn_some hv).2, h.2⟩) p n v s
  · exact fun s _ => acted_configure (fun m v n s u hv _ _ => line (fun c => { c with budget := v }) m u fun h => ⟨h.1, (numberIn_some hv).2⟩) p n v s
  · exact fun s _ => acted_configureQuota p n v s
  · exact fun s _ => acted_configure (fun _ v n s u hv _ _ => .calm (.single (.settings u.schedule.quotas v u (fun _ => .inl rfl)
      (.inr (numberIn_some hv).2)))) p n v s
  · exact fun s _ => acted_configure (fun k v n s u _ _ _ => level k v u) p n v s
  · exact fun s _ => acted_configure (fun k v n s u _ _ _ => .calm (calm_storeSafeLevel k v u)) p n v s
  · exact fun s _ => acted_configure (fun k v n s u _ hb hu => .calm (calm_storeGatedFlag k v u (stopped_of_not_barred (i := k) (v := v) hb hu))) p n v s
  · exact fun s _ => acted_configure (fun _ v n s u hv _ _ => .calm (.single (.delay v u (numberIn_some hv).2))) p n v s
  · exact fun s _ => acted_configure (fun c v n s u _ _ _ => acted_storeConditionAction c v u) p n v s
  · intro s _
    unfold configureNothing
    split <;> exact .calm .refl

/-! ### The permit and the conditions -/

theorem actsFrom_enroll (p : Port) (v : Option Byte) : ActsFrom .liveSession p (takeEnroll p v) := by
  intro s h
  unfold takeEnroll
  split
  · exact .calm .refl
  · split
    · exact .calm .refl
    · exact .shift (.elector p _ _ _ s fun _ _ => h rfl)

theorem actsFrom_leave (p : Port) : ActsFrom .liveSession p (takeLeave p) := by
  intro s _
  unfold takeLeave
  split
  · exact .shift (.elector p none _ _ s (by simp))
  · exact .calm .refl

theorem actsFrom_vote (p : Port) (v : Byte) : ActsFrom .liveSession p (takeVote p v) := by
  intro s h
  unfold takeVote
  split
  · split
    · exact .calm .refl
    · exact .shift (.elector p _ _ _ s fun _ _ => h rfl)
  · exact .calm .refl

theorem acted_clearCondition (p : Port) (c : Byte) (s : State) : Acted s (takeClearCondition p c s).1 := by
  unfold takeClearCondition
  split
  · exact .calm .refl
  · split
    · exact .calm .refl
    · next c _ =>
      split
      · exact .calm .refl
      · split
        · exact .before (Moves.after (calm_offer _ _ _) (calm_setCondition c _ s)) (.shift (.vote _))
        · exact .calm .refl

theorem actsFrom_close (p : Port) : ActsFrom .anySession p (takeClose p) := by
  intro s _
  unfold takeClose withSession
  split
  · exact acted_closeSessionOn p .command s
  · exact .calm .refl

/-! ### The command of any frame -/

/-- What a frame's command needs to know of the session it is taken from. -/
def CommandActs (p : Port) (c : FrameCommand) : Prop :=
  match c with
  | .known f act => ActsFrom f p act
  | _ => True

theorem commandActs_ofLength {n : Nat} {x : List Byte} {f : TakenFrom} {p : Port} {act : Act} (h : ActsFrom f p act) :
    CommandActs p (ofLength n x f act) := by
  unfold ofLength
  split
  · exact h
  · trivial

/-- An act that changes nothing. -/
theorem actsFrom_query {f : TakenFrom} {p : Port} {act : Act} (h : ∀ s, (act s).1 = s) : ActsFrom f p act :=
  actsFrom_calm fun s => by rw [h]

theorem withSession_query {p : Port} {g : Session → State → Reply} (s : State) : (withSession p (fun x s => (s, g x s)) s).1 = s := by
  unfold withSession; split <;> rfl

theorem takeListEntries_same (p : Port) (scope from_ : Byte) (s : State) : (takeListEntries p scope from_ s).1 = s := by
  unfold takeListEntries
  split
  · rfl
  · split <;> rfl

theorem commandActs_frame (p : Port) (command : Byte) (x : List Byte) : CommandActs p (frameCommand p command x) := by
  unfold frameCommand
  split
  · exact commandActs_ofLength (actsFrom_query fun _ => rfl)
  · exact commandActs_ofLength (actsFrom_calm (calm_open p _ _ _ _))
  · exact commandActs_ofLength (actsFrom_close p)
  · exact commandActs_ofLength (actsFrom_query withSession_query)
  · exact commandActs_ofLength (actsFrom_calm (calm_renew p))
  · exact commandActs_ofLength (actsFrom_calm (calm_status p))
  · exact commandActs_ofLength (actsFrom_calm (calm_setAttentionMask p _))
  · exact commandActs_ofLength (actsFrom_query withSession_query)
  · exact commandActs_ofLength (actsFrom_calm (calm_stepTime p _ _))
  · exact commandActs_ofLength (actsFrom_calm (calm_slewTime p _ _))
  · exact commandActs_ofLength (actsFrom_calm (calm_setTrim p _))
  · exact commandActs_ofLength (actsFrom_calm (calm_readStrobe p))
  · exact commandActs_ofLength (actsFrom_query withSession_query)
  · unfold postNoteCommand
    split
    · exact actsFrom_calm (f := .liveSession) (calm_postNote p x)
    · trivial
  · exact commandActs_ofLength (actsFrom_query withSession_query)
  · exact commandActs_ofLength (actsFrom_calm (calm_readJournal p _ _))
  · exact commandActs_ofLength (actsFrom_calm (calm_ackJournal p _))
  · exact commandActs_ofLength (actsFrom_calm (calm_seekJournal p _ _))
  · exact commandActs_ofLength (actsFrom_calm (calm_setFilter p _))
  · exact commandActs_ofLength (actsFrom_calm (calm_setReaderMode p _))
  · exact commandActs_ofLength (actsFrom_query withSession_query)
  · exact commandActs_ofLength (actsFrom_calm (calm_addEntry p _))
  · exact commandActs_ofLength (actsFrom_calm (calm_cancelEntry p _ _))
  · exact commandActs_ofLength (actsFrom_query fun s => by unfold takeQueryEntry; split <;> rfl)
  · exact commandActs_ofLength (actsFrom_query (takeListEntries_same p _ _))
  · exact commandActs_ofLength (actsFrom_calm (calm_setLine p _ _ _ _))
  · exact commandActs_ofLength (actsFrom_query withSession_query)
  · exact commandActs_ofLength (actsFrom_calm (calm_claim p _ _))
  · exact commandActs_ofLength (actsFrom_calm (calm_release p _))
  · exact commandActs_ofLength (actsFrom_calm (calm_withdraw p _))
  · exact commandActs_ofLength (actsFrom_query withSession_query)
  · exact commandActs_ofLength (actsFrom_configureAct p _ _ _)
  · exact commandActs_ofLength (actsFrom_query fun s => by unfold takeReadConfig; split <;> rfl)
  · unfold enrollCommand
    split
    · exact actsFrom_enroll p _
    · exact actsFrom_enroll p _
    · trivial
  · exact commandActs_ofLength (actsFrom_leave p)
  · exact commandActs_ofLength (actsFrom_vote p _)
  · exact commandActs_ofLength (actsFrom_query withSession_query)
  · exact commandActs_ofLength fun s _ => acted_clearCondition p _ s
  · exact commandActs_ofLength (actsFrom_query withSession_query)
  · trivial

end Sys2Proof.Machine
end

section
/-! SUPPORT. The part's own events and every row as chains of moves; what every step is made of. -/

set_option Elab.async false

namespace Sys2Proof.Machine

/-- What the part's own events are made of: calm moves, the permit unit's part vote and start delay, and a lapse as the permit unit takes
it (R141, R143, R148). -/
inductive OwnMove : State → State → Prop
  | calm {s t : State} (h : CalmMove s t) : OwnMove s t
  | partVote (s : State) : OwnMove s (takePartVote s)
  | arming (s : State) : OwnMove s (armingExpires s)
  | lapse (p : Port) (s : State) : OwnMove s (forceStop p (offer (.master p) .lapsed (s.modSession p Session.lapsed)))

abbrev OwnMoves : State → State → Prop := Moves OwnMove

theorem own_of_calm {s t : State} (h : CalmMoves s t) : OwnMoves s t := Moves.mono (fun _ _ => .calm) h

theorem own_conclude (s : State) : OwnMoves s (conclude s) := .single (.calm (.conclude s))

/-! ### Events of a tick -/

theorem own_lapseSession (p : Port) (s : State) : OwnMoves s (lapseSession p s) := by
  unfold lapseSession
  refine .trans (.single (.lapse p s)) (own_of_calm ?_)
  refine Moves.after (calm_reexamine _) (Moves.after (.single (.attend p _ _ fun _ => ⟨rfl, rfl, rfl⟩)) ?_)
  exact Moves.after (calm_handOverIfHeld p _ _ _) (Moves.after (calm_handOverIfHeld p _ _ _) (calm_waits p _))

theorem own_deadlineExpires (p : Port) (s : State) : OwnMoves s (deadlineExpires p s) := by
  unfold deadlineExpires
  split
  · exact .either (fun _ => own_lapseSession p s) (fun _ => .refl)
  · exact .refl

theorem newFilter_cfg (l : EventLine) : l.newFilter.cfg = l.cfg := by
  unfold EventLine.newFilter EventLine.beginInterval
  split <;> rfl

theorem own_doTickEvent (s : State) (e : TickEvent) : OwnMoves s (doTickEvent s e) := by
  cases e with
  | strobeCapture p => exact own_of_calm (calm_takeCapture p s)
  | lineEnable n => exact own_of_calm (calm_modLine n _ s id)
  | lineDisable n => exact own_of_calm (Moves.after (calm_modLine n _ _ id) (calm_reportExcess n s))
  | filterChange n => exact own_of_calm (calm_modLine n _ s fun h => (newFilter_cfg _).symm ▸ h)
  | edgeSelectChange n => exact own_of_calm (calm_modLine n _ s id)
  | budgetChange n => exact own_of_calm (Moves.after (calm_modLine n _ _ id) (calm_reportExcess n s))
  | edgeQualified n => exact own_of_calm (calm_qualifyEdge n s)
  | chatterWindowEnd n => exact own_of_calm (calm_endWindow n s)
  | entryDue i => exact own_of_calm (calm_of_entry (moves_entryComesDue i s))
  | pulseEnd i => exact own_of_calm (calm_of_entry (moves_pulseRunsOut i s))
  | immediatePulseEnd k => exact own_of_calm (calm_endImmediatePulse k s)
  | delayExpired => exact .single (.arming s)
  | lapse p => exact own_deadlineExpires p s

/-- An event of the tick, taken off the list, carried out and concluded. -/
theorem own_takeOff (s : State) (e : TickEvent) : OwnMoves s (doTickEvent (s.without e) e) :=
  Moves.after (own_doTickEvent _ e) (.single (.calm (.work _ _ s)))

theorem own_carryOut (e : DueEvent) (s : State) : OwnMoves s (carryOut e s) := by
  unfold carryOut
  refine Moves.after (own_conclude _) ?_
  cases e with
  | unfinished e => exact own_takeOff s e
  | partVote => exact .single (.partVote s)
  | raise => exact own_of_calm (calm_takeFirstRaise s)
  | tickEvent e => exact own_takeOff s e
  | step => exact own_of_calm (calm_applyStep s)
  | slewDone => exact own_of_calm (calm_endSlew s)
  | tick => exact own_of_calm (calm_issueTick s)

/-! ### Settling -/

theorem own_drain (limit : Nat) : ∀ (fuel : Nat) (s : State), OwnMoves s (drain limit fuel s)
  | 0, _ => .refl
  | fuel + 1, s => by
      unfold drain
      split
      · exact .refl
      · exact .either (fun _ => (own_carryOut _ s).trans (own_drain limit fuel _)) (fun _ => .refl)

theorem own_drainBelow (limit : Nat) (s : State) : OwnMoves s (drainBelow limit s) := own_drain limit _ s

theorem calm_credit : ∀ (n : Nat) (s : State), CalmMoves s (credit n s)
  | 0, _ => .refl
  | n + 1, s => ((calm_feed _ s).trans (calm_endSlew _)).trans (calm_credit n _)

theorem calm_handRaise (c : Condition) (s : State) : CalmMoves s (handRaise c s) := .single (.entry (.raise c s))

theorem own_enterHoldover (s : State) : OwnMoves s (enterHoldover s) := by
  unfold enterHoldover
  refine .trans (.trans (own_of_calm (calm_credit s.time.lossCount s)) (own_drainBelow 7 _)) (own_of_calm ?_)
  exact Moves.after (calm_offer _ _ _) (Moves.after (calm_handRaise _ _) (calm_setTime rfl rfl rfl))

theorem calm_breakReference (s : State) : CalmMoves s (breakReference s) := calm_setTime rfl rfl rfl

theorem calm_leaveHoldover (s : State) : CalmMoves s (leaveHoldover s) :=
  Moves.after (calm_levelFalls _ _) (Moves.after (calm_offer _ _ _) (calm_setTime rfl rfl rfl))

theorem own_takeReferenceEvent (s : State) : OwnMoves s (takeReferenceEvent s) := by
  unfold takeReferenceEvent
  exact .either (fun _ => Moves.after (own_conclude _) (own_enterHoldover s)) fun _ =>
    .either (fun _ => Moves.after (own_conclude _) (own_of_calm (calm_breakReference s))) fun _ =>
      .either (fun _ => Moves.after (own_conclude _) (own_of_calm (calm_leaveHoldover s))) fun _ => .refl

theorem own_settle (s : State) : OwnMoves s (settle s) :=
  ((own_drainBelow 7 s).trans (own_takeReferenceEvent _)).trans (own_drainBelow 7 _)

theorem own_idleStep (s : State) : OwnMoves s (idleStep s) := by
  unfold idleStep
  split
  · exact own_carryOut _ s
  · exact own_takeReferenceEvent s

theorem own_takeListed (s : State) (e : TickEvent) : OwnMoves s (takeListed s e) := by
  unfold takeListed
  have take : ∀ u : State, OwnMoves u (conclude (doTickEvent (u.without e) e)) := fun u => Moves.after (own_conclude _) (own_takeOff u e)
  refine .trans (b := if (unfinished? s).isSome && e.isSchedules then s else drainBelow 3 s) ?_ ?_
  · exact Moves.either (fun _ => .refl) (fun _ => own_drainBelow 3 s)
  · exact Moves.either (fun _ => take _) (fun _ => .refl)

theorem own_takeTickEvent (e : TickEvent) (s : State) : OwnMoves s (takeTickEvent e s) := by
  unfold takeTickEvent
  exact .either (fun _ => .trans (Moves.foldl own_takeListed _ s) (own_takeListed _ e)) (fun _ => .refl)

/-! ### Rows -/

/-- What a row does once the part's own events that come first are carried out: a command's act, or a reset of the whole part. -/
inductive Effect : State → State → Prop
  | acted {s t : State} (h : Acted s t) : Effect s t
  | fall (s : State) : Effect s (resetBlocks s)
  | power (s : State) : Effect s
      { State.reset with evPins := s.evPins, ports := s.ports.map resetPort, freeUses := s.freeUses, pending := s.pending }

/-- What every row is: own moves, then one effect. -/
def Row (s t : State) : Prop := ∃ u, OwnMoves s u ∧ Effect u t

theorem Row.own {s t : State} (h : OwnMoves s t) : Row s t := ⟨t, h, .acted (.calm .refl)⟩

theorem Row.acted {s t u : State} (h : OwnMoves s t) (k : Acted t u) : Row s u := ⟨t, h, .acted k⟩

theorem calm_conclude (s : State) : CalmMoves s (conclude s) := .single (.conclude s)

theorem calm_link {p : Port} {x : PortState} {s : State} (h : x.session = s.session p) : CalmMoves s (s.setPort p x) := .single (.link p x s h)

theorem acted_commonChecks {p : Port} {c : FrameCommand} (h : CommandActs p c) (s : State) : Acted s (commonChecks p c s).1 := by
  unfold commonChecks
  split
  · exact .calm .refl
  · exact .calm .refl
  · next f act =>
    split
    · next hn =>
      split
      · exact h s fun _ y hy => by rw [hn] at hy; cases hy
      · exact .calm .refl
    · next x hx =>
      split
      · exact .calm .refl
      · next hl =>
        refine h s fun hf y hy => ?_
        obtain rfl : x = y := Option.some.inj (hx.symm.trans hy)
        cases hv : x.liveness
        · rfl
        · exact absurd ⟨hv, hf⟩ hl

theorem restarted_kept (x : Session) : x.restarted.liveness = x.liveness ∧ x.restarted.reader.cursor = x.reader.cursor
    ∧ x.restarted.reader.readMark = x.reader.readMark := by
  unfold Session.restarted
  split <;> exact ⟨rfl, rfl, rfl⟩

theorem acted_takeFrame {p : Port} {tag : Byte} {c : FrameCommand} (h : CommandActs p c) (s : State) : Acted s (takeFrame p tag c s) := by
  unfold takeFrame
  dsimp only
  split
  · exact .calm (calm_link rfl)
  · exact .after (calm_link rfl) (.before (.single (.attend p _ s restarted_kept)) (acted_commonChecks h _))

theorem row_endTransaction {p : Port} {kind : Transaction} {clocked : Nat} {effect : State → State} (h : ∀ s, Acted s (effect s))
    (s : State) : Row s (endTransaction p kind clocked effect s) := by
  refine .acted (own_settle s) ?_
  unfold endTransaction
  dsimp only
  split
  · unfold endWithoutEffect
    dsimp only
    split
    · exact .calm (calm_link rfl)
    · exact .calm .refl
  · split
    · exact .after (calm_conclude _) (h _)
    · exact .calm .refl

theorem calm_endWrite (p : Port) (n : Nat) (s : State) : CalmMoves s (endWrite p n s) := calm_link (s := s) (p := p) rfl

theorem calm_dropFrame (p : Port) (s : State) : CalmMoves s (dropFrame p s) := calm_link (s := s) (p := p) rfl

theorem row_onFrame {p : Port} {tag : Byte} {n : Nat} {c : FrameCommand} (h : CommandActs p c) (s : State) : Row s (onFrame p tag n c s) :=
  row_endTransaction (fun u => .before (calm_endWrite p _ u) (acted_takeFrame h _)) s

theorem calm_fetchOn (p : Port) (n : Nat) (s : State) : CalmMoves s (fetchOn p n s) := by
  unfold fetchOn
  exact .either (fun _ => calm_link rfl) (fun _ => calm_link rfl)

theorem row_onFetch (p : Port) (n : Nat) (s : State) : Row s (onFetch p n s) := row_endTransaction (fun s => .calm (calm_fetchOn p n s)) s

theorem acted_clearPort (p : Port) (s : State) : Acted s (clearPort p s) := by
  have cleared := calm_link (s := s) (p := p)
    (x := { s.port p with
      transaction := .idle, shifted := writeBytes clearFrame.length (s.port p), queue := [], crcDropped := false, overrun := false }) rfl
  unfold clearPort
  dsimp only
  split
  · exact .before cleared (acted_closeSessionOn p .reset _)
  · exact .calm cleared

theorem row_onPortClear (p : Port) (s : State) : Row s (onPortClear p s) := row_endTransaction (acted_clearPort p) s

theorem row_onBadFrame (p : Port) (b : Byte) (n : Nat) (s : State) : Row s (onBadFrame p b n s) :=
  row_endTransaction (fun u => .calm (Moves.after (calm_dropFrame p _) (calm_endWrite p n u))) s

theorem calm_raiseIfActive (c : Condition) (s : State) : CalmMoves s (raiseIfActive c s) := by
  unfold raiseIfActive
  exact .either (fun _ => calm_raiseCondition c s) (fun _ => .refl)

theorem calm_afterReset (s : State) : CalmMoves s (afterReset s) :=
  Moves.after (calm_raiseIfActive _ _) (Moves.after (calm_raiseIfActive _ _) (Moves.after (.single (.conditions _ _ (.inl rfl))) (calm_offer _ _ s)))

/-- The rows of the outside and of the timebase: each is own moves, then its effect. -/
theorem row_commandWrite (p : Port) (bytes : List Byte) (s : State) : ∃ t, execCommandWrite p bytes s = .next t ∧ Row s t := by
  unfold execCommandWrite
  split
  · exact ⟨_, rfl, .own (own_settle s)⟩
  · split
    · exact ⟨_, rfl, row_onFetch p _ s⟩
    · split
      · exact ⟨_, rfl, row_onPortClear p s⟩
      · split
        · exact ⟨_, rfl, row_onFrame (commandActs_frame p _ _) s⟩
        · exact ⟨_, rfl, row_onBadFrame p _ _ s⟩

/-- A result that is a next state reached by a row. -/
def RowResult (s : State) (r : Result) : Prop := ∃ t, r = .next t ∧ Row s t

theorem RowResult.either {s : State} {c : Prop} [Decidable c] {a b : Result} (ha : RowResult s a) (hb : RowResult s b) :
    RowResult s (if c then a else b) := by
  split
  · exact ha
  · exact hb

theorem RowResult.own {s t : State} (h : OwnMoves s t) : RowResult s (.next t) := ⟨t, rfl, .own h⟩

theorem RowResult.acted {s t u : State} (h : OwnMoves s t) (k : Acted t u) : RowResult s (.next u) := ⟨u, rfl, .acted h k⟩

theorem row_refclkCycle (s : State) : RowResult s (execRefclkCycle s) := by
  refine .acted (own_settle s) (.calm (Moves.after (calm_conclude _) ?_))
  exact Moves.maybe (calm_setTime rfl rfl rfl) (calm_feed _ _)

theorem countExit_kept (t : Timebase) : (countExit t).partTime = t.partTime ∧ (countExit t).refHz = t.refHz ∧ (countExit t).trim = t.trim := by
  unfold countExit
  split <;> exact ⟨rfl, rfl, rfl⟩

theorem row_oscillatorCycle (s : State) : RowResult s (execOscillatorCycle s) := by
  refine .acted (own_settle s) (.calm (Moves.after (calm_conclude _) ?_))
  split
  · exact calm_setTime rfl rfl rfl
  · obtain ⟨h1, h2, h3⟩ := countExit_kept (countLoss (feed Config.oscillatorHz (settle s)).time)
    exact Moves.after (calm_setTime h1 h2 h3) (calm_feed _ _)

theorem row_tick (levels : BitVec 16) (s : State) : RowResult s (execTick levels s) := by
  unfold execTick
  refine .either (.own ?_) (.own .refl)
  refine .trans (own_drainBelow 6 s) (own_of_calm (Moves.after (calm_conclude _) ?_))
  exact Moves.after (calm_issueTick _) (.single (.pins levels _))

theorem row_holdoverEntered (levels : BitVec 16) (s : State) : RowResult s (execHoldoverEntered levels s) := by
  unfold execHoldoverEntered
  refine .either (.own ?_) (.own .refl)
  exact Moves.after (own_conclude _) (Moves.after (own_enterHoldover _) (.tail (own_drainBelow 7 s) (.calm (.pins levels _))))

theorem row_partVoteChange (s : State) : RowResult s (execPartVoteChange s) := by
  unfold execPartVoteChange
  exact .either (.own (Moves.after (own_conclude _) (.tail (own_drainBelow 1 s) (.partVote _)))) (.own .refl)

theorem row_conditionRaise (c : Condition) (s : State) : RowResult s (execConditionRaise c s) := by
  unfold execConditionRaise
  refine .either (.own (Moves.foldl (fun u _ => ?_) _ s)) (.own .refl)
  exact Moves.after (own_conclude _) (.trans (own_drainBelow 2 u) (own_of_calm (calm_takeFirstRaise _)))

theorem row_strobeEdge (p : Port) (s : State) : RowResult s (execStrobeEdge p s) := by
  unfold execStrobeEdge
  exact .either (.own (own_settle s)) (.acted (own_settle s) (.calm (Moves.after (calm_conclude _) (calm_setTime rfl rfl rfl))))

theorem row_transactionStart (p : Port) (b : Byte) (s : State) : RowResult s (execTransactionStart p b s) := by
  unfold execTransactionStart
  exact .either (.own (own_settle s)) (.either (.acted (own_settle s) (.calm (calm_link rfl)))
    (.acted (own_settle s) (.calm (Moves.after (calm_conclude _) (calm_link rfl)))))

theorem row_rstnFall (s : State) : RowResult s (execRstnFall s) := by
  unfold execRstnFall
  exact .either (.own (own_settle s)) ⟨_, rfl, _, own_settle s, .fall _⟩

theorem row_rstnRise (s : State) : RowResult s (execRstnRise s) := by
  unfold execRstnRise
  exact .either (.own (own_settle s))
    (.acted (own_settle s) (.calm (Moves.after (calm_conclude _) (Moves.after (calm_afterReset _) (.single (.rise _))))))

/-- Every row completes, and is own moves and then one effect. -/
theorem exec_row (i : Instr) (s : State) : RowResult s (exec i s) := by
  have frame : ∀ {p tag command payload}, frameFields? i = some (p, tag, command, payload) → RowResult s (exec i s) := fun h =>
    ⟨_, exec_eq_onFrame h s, row_onFrame (commandActs_frame _ _ _) s⟩
  have event : ∀ e, RowResult s (.next (takeTickEvent e s)) := fun e => .own (own_takeTickEvent e s)
  have after : ∀ {f : State → State} (n : Nat), (∀ u, CalmMoves u (f u)) → RowResult s (.next (conclude (f (drainBelow n s)))) :=
    fun n h => .own (Moves.after (own_conclude _) (.trans (own_drainBelow n s) (own_of_calm (h _))))
  cases i
  case commandWrite p bytes => exact row_commandWrite p bytes s
  case fetch p n => exact ⟨_, rfl, row_onFetch p n s⟩
  case portClear p => exact ⟨_, rfl, row_onPortClear p s⟩
  case powerOn => exact ⟨_, rfl, s, .refl, .power s⟩
  case rstnFall => exact row_rstnFall s
  case rstnRise => exact row_rstnRise s
  case refclkCycle => exact row_refclkCycle s
  case oscillatorCycle => exact row_oscillatorCycle s
  case tick levels => exact row_tick levels s
  case holdoverEntered levels => exact row_holdoverEntered levels s
  case referenceBreak => exact .either (after 7 calm_breakReference) (.own .refl)
  case holdoverLeft => exact .either (after 7 calm_leaveHoldover) (.own .refl)
  case stepApplication => exact .either (after 4 calm_applyStep) (.own .refl)
  case slewDone => exact .either (after 5 calm_endSlew) (.own .refl)
  case strobeEdge p => exact row_strobeEdge p s
  case strobeCapture p => exact event (.strobeCapture p)
  case lineEnable n => exact event (.lineEnable n)
  case lineDisable n => exact event (.lineDisable n)
  case filterChange n => exact event (.filterChange n)
  case edgeSelectChange n => exact event (.edgeSelectChange n)
  case budgetChange n => exact event (.budgetChange n)
  case edgeQualified n => exact event (.edgeQualified n)
  case chatterWindowEnd n => exact event (.chatterWindowEnd n)
  case entryDue i => exact event (.entryDue i)
  case pulseEnd i => exact event (.pulseEnd i)
  case immediatePulseEnd k => exact event (.immediatePulseEnd k)
  case delayExpired => exact event .delayExpired
  case partVoteChange => exact row_partVoteChange s
  case conditionRaise c => exact row_conditionRaise c s
  case lapse p => exact event (.lapse p)
  case transactionStart p b => exact row_transactionStart p b s
  all_goals exact frame rfl

/-- A step is a row after the front of the queue is taken, or one event of the part's own. -/
theorem step_row {s t : State} (h : step s = .next t) : ∃ l, Row { s with pending := l } t := by
  unfold step at h
  split at h
  · next hp => cases h; exact ⟨[], hp ▸ .own (own_idleStep s)⟩
  · next c rest _ =>
    obtain ⟨u, hu, hr⟩ := exec_row c { s with pending := rest }
    cases hu.symm.trans h
    exact ⟨rest, hr⟩

/-! ### Invariants -/

/-- What an invariant must withstand to be kept by every step. -/
structure StepStable (P : State → Prop) : Prop where
  calm  : ∀ s t, CalmMove s t → P s → P t
  own   : ∀ s, P s → P (takePartVote s) ∧ P (armingExpires s)
    ∧ ∀ p, P (forceStop p (offer (.master p) .lapsed (s.modSession p Session.lapsed)))
  shift : ∀ s t, Shift s t → P s → P t
  fall  : ∀ s, P s → P (resetBlocks s)
  power : ∀ s, P s → P { State.reset with evPins := s.evPins, ports := s.ports.map resetPort, freeUses := s.freeUses, pending := s.pending }

theorem StepStable.ownMoves {P : State → Prop} (h : StepStable P) {s t : State} (m : OwnMoves s t) (hs : P s) : P t := by
  refine Moves.keeps (fun s t m hs => ?_) m hs
  cases m with
  | calm k => exact h.calm s t k hs
  | partVote => exact (h.own s hs).1
  | arming => exact (h.own s hs).2.1
  | lapse p => exact (h.own s hs).2.2 p

theorem StepStable.calmMoves {P : State → Prop} (h : StepStable P) {s t : State} (m : CalmMoves s t) (hs : P s) : P t :=
  Moves.keeps h.calm m hs

/-- What withstands every move and every effect is kept by every step. -/
theorem StepStable.step {P : State → Prop} (h : StepStable P) {s t : State} (hs : P s) (hst : step s = .next t) : P t := by
  obtain ⟨l, u, hu, he⟩ := step_row hst
  have hp := h.ownMoves hu (h.calm _ _ (.queue l s) hs)
  cases he with
  | fall => exact h.fall u hp
  | power => exact h.power u hp
  | acted ha =>
    obtain ⟨v, w, h1, h2, h3⟩ := ha
    have hv := h.calmMoves h1 hp
    refine h.calmMoves h3 ?_
    rcases h2 with rfl | h2
    · exact hv
    · exact h.shift v w h2 hv

end Sys2Proof.Machine
end

section
/-! SUPPORT. The invariants of the permit unit (O55), of the readers (O56), of the tables (O57) and of the schedule (O58). -/

set_option Elab.async false

namespace Sys2Proof.Machine

/-! ### Fields that calm moves keep -/

theorem entryMove_permit {s t : State} (h : EntryMove s t) : t.permit = s.permit := by
  cases h with
  | offer => exact (kept_offerAs _ _ _ _ _).unchanged .permit (by decide)
  | raise => exact (kept_handRaise _ _).unchanged .permit (by decide)
  | notice => rfl
  | level => rfl
  | edit => rfl
  | free => rfl
  | useFree => rfl

/-- What a session of t says of a session of s on the same port: its liveness and its reader's positions are as they were, or pushed. -/
def SessionsFrom (R : Session → Session → Prop) (s t : State) : Prop := ∀ p y, t.session p = some y → ∃ x, s.session p = some x ∧ R x y

theorem SessionsFrom.of_eq {R : Session → Session → Prop} (hR : ∀ x, R x x) {s t : State} (h : t.ports = s.ports) : SessionsFrom R s t :=
  fun p y hy => ⟨y, by unfold State.session State.port at hy ⊢; rwa [← h], hR y⟩

theorem SessionsFrom.of_map {R : Session → Session → Prop} {s t : State} {f : Port → Session → Session} (hf : ∀ p x, R x (f p x))
    (h : ∀ p, t.session p = (s.session p).map (f p)) : SessionsFrom R s t := fun p y hy => by
  rw [h] at hy
  obtain ⟨x, hx, rfl⟩ := Option.map_eq_some_iff.mp hy
  exact ⟨x, hx, hf p x⟩

theorem session_modSession (s : State) (p q : Port) (f : Session → Session) :
    (s.modSession p f).session q = (s.session q).map (if q = p then f else id) := by
  unfold State.modSession
  rw [session_setSession]
  split
  · next h => rw [h]
  · simp

theorem session_raiseForAll (n : Byte) (e : Option Port) (s : State) (q : Port) :
    (raiseForAll n e s).session q = (s.session q).map (if e = some q then id else Session.notice n) := by
  unfold State.session State.port raiseForAll
  rw [PerPort.get_mapIdx]
  split <;> simp

/-- A retirement pushes every session's reader past the oldest record. -/
theorem session_retireOldest (s : State) (q : Port) :
    (retireOldest s).session q = (s.session q).map (s.journal.store.head?.elim id Session.pushPast) := by
  unfold retireOldest
  split
  · next h => simp [h]
  · next h => simp [h, State.session, State.port]

theorem session_of_ports {s t : State} (h : t.ports = s.ports) (q : Port) : t.session q = s.session q := by
  unfold State.session State.port; rw [h]

/-- Two sessions of the same liveness. -/
def SameLiveness (x y : Session) : Prop := y.liveness = x.liveness

theorem SameLiveness.refl (x : Session) : SameLiveness x x := by rfl

theorem retireOldest_liveness (s : State) : SessionsFrom SameLiveness s (retireOldest s) :=
  .of_map (f := fun _ => s.journal.store.head?.elim id Session.pushPast) (fun _ x => by cases s.journal.store.head? <;> rfl)
    fun q => session_retireOldest s q

theorem handRaise_ports (c : Condition) (s : State) : (handRaise c s).ports = s.ports := (kept_handRaise c s).unchanged .ports (by decide)

theorem offerAs_liveness (t : Nat) (q : Quality) (o : Origin) (b : Body) (s : State) : SessionsFrom SameLiveness s (offerAs t q o b s) := by
  have hsame : ∀ {u : State}, u.ports = s.ports → SessionsFrom SameLiveness s u := fun h => .of_eq SameLiveness.refl h
  rcases offerAs_cases t q o b s with ⟨_, e⟩ | ⟨_, _, e⟩ | ⟨_, _, _, e⟩ | ⟨_, _, _, _, e⟩ | ⟨_, _, _, _, e⟩ <;> rw [e]
  · exact hsame rfl
  · exact hsame rfl
  · exact hsame rfl
  · exact hsame (handRaise_ports _ _)
  · exact retireOldest_liveness s

theorem reexamine_liveness (s : State) : SessionsFrom SameLiveness s (reexamine s) := by
  unfold reexamine
  split
  · exact .of_eq SameLiveness.refl rfl
  · split
    · exact .of_eq SameLiveness.refl rfl
    · exact retireOldest_liveness s

theorem entryMove_liveness {s t : State} (h : EntryMove s t) : SessionsFrom SameLiveness s t := by
  cases h with
  | offer => exact offerAs_liveness _ _ _ _ _
  | raise => exact .of_eq SameLiveness.refl (handRaise_ports _ _)
  | notice n p =>
    exact .of_map (R := SameLiveness) (f := fun q => if q = p then Session.notice n else id)
      (fun q x => by unfold SameLiveness; split <;> rfl) fun q => session_modSession s p q _
  | level => exact .of_eq SameLiveness.refl rfl
  | edit => exact .of_eq SameLiveness.refl rfl
  | free => exact .of_eq SameLiveness.refl rfl
  | useFree => exact .of_eq SameLiveness.refl rfl

/-! ### The permit unit -/

/-- The permit units that have the same electorate, votes, state and pins, and a timer alike; the start delay is free. -/
def SameSay (a b : Permit) : Prop :=
  b.electors = a.electors ∧ b.partVote = a.partVote ∧ b.aggregate = a.aggregate ∧ b.state = a.state ∧ b.timer.isSome = a.timer.isSome
    ∧ b.prun = a.prun ∧ b.phold = a.phold

theorem SameSay.of_eq {a b : Permit} (h : b = a) : SameSay a b := by rw [h]; exact ⟨rfl, rfl, rfl, rfl, rfl, rfl, rfl⟩

theorem formAggregate_congr {a b : Permit} (he : b.electors = a.electors) (hp : b.partVote = a.partVote) : formAggregate b = formAggregate a := by
  unfold formAggregate votes; rw [he, hp]

theorem PermitConsistent.congr {a b : Permit} (h : PermitConsistent a) (e : SameSay a b) : PermitConsistent b := by
  obtain ⟨e1, e2, e3, e4, e5, e6, e7⟩ := e
  refine ⟨?_, ?_, ?_, ?_, ?_, ?_, ?_⟩
  · rw [e6, e4]; exact h.prun
  · rw [e7, e4]; exact h.phold
  · rw [e5, e4]; exact h.timer
  · rw [e3, formAggregate_congr e1 e2]; exact h.aggregate
  · rw [e3, e4]; exact h.stopped
  · rw [e3, e4]; exact h.moving
  · rw [e3, e4]; exact h.held

theorem calmMove_sameSay {s t : State} (h : CalmMove s t) : SameSay s.permit t.permit := by
  cases h with
  | entry h => exact .of_eq (entryMove_permit h)
  | reexamine => exact .of_eq ((kept_reexamine s).unchanged .permit (by decide))
  | count => exact ⟨rfl, rfl, rfl, rfl, by simp [countTick], rfl, rfl⟩
  | delay => exact ⟨rfl, rfl, rfl, rfl, rfl, rfl, rfl⟩
  | conclude => exact .of_eq (conclude_permit s)
  | _ => exact .of_eq rfl

/-- How a permit state stands to the aggregate (R145). -/
def Fits (st : PermitState) (v : Vote) : Prop :=
  (st = .stopped → v ≠ .go) ∧ (st = .arming ∨ st = .running → v = .go) ∧ (st = .held → v = .hold)

/-- Where a change of aggregate takes the permit, the state stands to the aggregate as it must (R146, R150). -/
theorem nextPermitState_fits (st : PermitState) (v : Vote) (d : Nat) : Fits (nextPermitState st v d) v := by
  by_cases h : d = 0 <;> cases st <;> cases v <;> simp [nextPermitState, Fits, h]

/-- The permit unit once the aggregate is formed again is consistent, where but for electors and part vote it was so (R144 to R150, R156). -/
theorem PermitConsistent.permitAfter {a : Permit} (h : PermitConsistent a) (e : PerPort (Option Elector)) (v : Vote) (time : Nat)
    (cause : PermitCause) : PermitConsistent (permitAfter { a with electors := e, partVote := v } time cause) := by
  have hform : ∀ b : Permit, b.electors = e → b.partVote = v → formAggregate b = formAggregate { a with electors := e, partVote := v } :=
    fun b => formAggregate_congr (a := { a with electors := e, partVote := v })
  obtain ⟨h1, h2, h3, _, h5, h6, h7⟩ := h
  obtain ⟨f1, f2, f3⟩ := nextPermitState_fits a.state (formAggregate { a with electors := e, partVote := v }) a.startDelay
  unfold Machine.permitAfter
  dsimp only
  split
  · next he => exact ⟨h1, h2, h3, he.symm, h5, h6, h7⟩
  · split
    · next hn =>
      rw [hn] at f1 f2 f3
      exact ⟨h1, h2, h3, (hform _ rfl rfl).symm, f1, f2, f3⟩
    · refine ⟨rfl, rfl, ?_, (hform _ rfl rfl).symm, f1, f2, f3⟩
      cases nextPermitState a.state (formAggregate { a with electors := e, partVote := v }) a.startDelay <;> rfl

theorem takePartVote_permit (s : State) :
    (takePartVote s).permit = if s.conditions.partVote = s.permit.partVote then s.permit
      else permitAfter { s.permit with partVote := s.conditions.partVote } s.time.partTime .partVote := by
  unfold takePartVote
  split
  · rfl
  · exact takeAggregate_permit _ _ _

theorem PermitConsistent.takePartVote {s : State} (h : PermitConsistent s.permit) : PermitConsistent (takePartVote s).permit := by
  rw [takePartVote_permit]
  split
  · exact h
  · exact h.permitAfter s.permit.electors _ _ _

theorem PermitConsistent.setElector {s : State} (h : PermitConsistent s.permit) (p : Port) (e : Option Elector) (c : PermitCause)
    (x : Option Port) : PermitConsistent (setElector p e c x s).permit := by
  rw [setElector_permit]
  exact h.permitAfter _ s.permit.partVote _ _

theorem PermitConsistent.armingExpires {s : State} (h : PermitConsistent s.permit) : PermitConsistent (armingExpires s).permit := by
  unfold Machine.armingExpires
  split
  · next hst _ =>
    rw [changePermit_permit]
    refine ⟨rfl, rfl, rfl, h.aggregate, (by simp), fun _ => h.moving (.inl hst), (by simp)⟩
  · exact h

/-! ### What a change of permit state does to sessions and electors -/

theorem entryMoves_liveness {s t : State} (h : EntryMoves s t) : SessionsFrom SameLiveness s t := by
  induction h with
  | refl => exact .of_eq SameLiveness.refl rfl
  | tail _ last ih =>
    intro p z hz
    obtain ⟨y, hy, h1⟩ := entryMove_liveness last p z hz
    obtain ⟨x, hx, h2⟩ := ih p y hy
    exact ⟨x, hx, h1.trans h2⟩

theorem SessionsFrom.trans_eq {s t u : State} (h : SessionsFrom SameLiveness s t) (k : SessionsFrom SameLiveness t u) :
    SessionsFrom SameLiveness s u := fun p z hz => by
  obtain ⟨y, hy, h1⟩ := k p z hz
  obtain ⟨x, hx, h2⟩ := h p y hy
  exact ⟨x, hx, h1.trans h2⟩

/-- The last change named first. -/
theorem SessionsFrom.after {s t u : State} (k : SessionsFrom SameLiveness t u) (h : t.ports = s.ports) : SessionsFrom SameLiveness s u :=
  SessionsFrom.trans_eq (.of_eq SameLiveness.refl h) k

theorem raiseForAll_liveness (n : Byte) (e : Option Port) (s : State) : SessionsFrom SameLiveness s (raiseForAll n e s) :=
  .of_map (f := fun q => if e = some q then id else Session.notice n) (fun q x => by unfold SameLiveness; split <;> rfl)
    fun q => session_raiseForAll n e s q

theorem changePermit_liveness (n : PermitState) (c : PermitCause) (x : Option Port) (s : State) :
    SessionsFrom SameLiveness s (changePermit n c x s) := by
  unfold changePermit
  refine .trans_eq ?_ (raiseForAll_liveness _ _ _)
  refine .trans_eq (t := permitToSchedule s.permit.state n (offer .part (.permit s.permit.state n c) (enterPermitState n c s))) ?_
    (.of_eq SameLiveness.refl ?_)
  · exact SessionsFrom.after (entryMoves_liveness (Moves.after (moves_permitToSchedule _ _ _) (moves_offer _ _ (enterPermitState n c s)))) rfl
  · exact (kept_permitToLines _ _).unchanged .ports (by decide)

theorem takeAggregate_liveness (c : PermitCause) (x : Option Port) (s : State) : SessionsFrom SameLiveness s (takeAggregate c x s) := by
  unfold takeAggregate
  dsimp only
  split
  · exact .of_eq SameLiveness.refl rfl
  · split
    · exact .of_eq SameLiveness.refl rfl
    · exact .after (changePermit_liveness _ _ _ _) rfl

theorem takePartVote_liveness (s : State) : SessionsFrom SameLiveness s (takePartVote s) := by
  unfold takePartVote
  split
  · exact .of_eq SameLiveness.refl rfl
  · exact .after (takeAggregate_liveness _ _ _) rfl

theorem armingExpires_liveness (s : State) : SessionsFrom SameLiveness s (armingExpires s) := by
  unfold armingExpires
  split
  · exact changePermit_liveness _ _ _ _
  · exact .of_eq SameLiveness.refl rfl

theorem setElector_liveness (p : Port) (e : Option Elector) (c : PermitCause) (x : Option Port) (s : State) :
    SessionsFrom SameLiveness s (setElector p e c x s) := .after (takeAggregate_liveness _ _ _) rfl

theorem permitAfter_electors (pm : Permit) (t : Nat) (c : PermitCause) : (permitAfter pm t c).electors = pm.electors := by
  unfold permitAfter
  dsimp only
  repeat' split
  all_goals rfl

theorem permitAfter_startDelay (pm : Permit) (t : Nat) (c : PermitCause) : (permitAfter pm t c).startDelay = pm.startDelay := by
  unfold permitAfter
  dsimp only
  repeat' split
  all_goals rfl

theorem takePartVote_electors (s : State) : (takePartVote s).permit.electors = s.permit.electors := by
  rw [takePartVote_permit]
  split
  · rfl
  · rw [permitAfter_electors]

theorem armingExpires_electors (s : State) : (armingExpires s).permit.electors = s.permit.electors := by
  unfold armingExpires
  split
  · rw [changePermit_permit]
  · rfl

theorem setElector_electors (p : Port) (e : Option Elector) (c : PermitCause) (x : Option Port) (s : State) :
    (setElector p e c x s).permit.electors = s.permit.electors.set p e := by rw [setElector_permit, permitAfter_electors]

/-! ### PermitSafe -/

/-- An elector of a LAPSED session stands at a forced STOP (R141). -/
def LapsedStop (s : State) : Prop :=
  ∀ p e x, s.permit.electors.get p = some e → s.session p = some x → x.liveness = .lapsed → e.vote = .stop ∧ e.forced = true

theorem LapsedStop.of_same {s t : State} (h : LapsedStop s) (he : t.permit.electors = s.permit.electors)
    (hs : SessionsFrom SameLiveness s t) : LapsedStop t := fun p e y hp hy hl => by
  obtain ⟨x, hx, hxy⟩ := hs p y hy
  exact h p e x (he ▸ hp) hx (hxy.symm.trans hl)

theorem calmMove_lapsedStop {s t : State} (m : CalmMove s t) (h : LapsedStop s) : LapsedStop t := by
  have he := (calmMove_sameSay m).1
  cases m with
  | entry k => exact h.of_same he (entryMove_liveness k)
  | reexamine => exact h.of_same he (reexamine_liveness s)
  | attend p f _ hf =>
    exact h.of_same he (.of_map (f := fun q => if q = p then f else id) (fun q x => by
      split
      · exact (hf x).1
      · rfl) fun q => session_modSession s p q f)
  | noticeAll => exact h.of_same he (raiseForAll_liveness _ _ _)
  | seat p x _ hl _ =>
    intro q e y hq hy hlap
    rw [session_setSession] at hy
    split at hy
    · next hqp =>
      cases hy
      subst hqp
      rcases hl with hl | ⟨z, hz, hzl⟩
      · rw [hl] at hlap; cases hlap
      · exact h q e z hq hz (hzl.trans hlap)
    · exact h q e y hq hy hlap
  | unseat p =>
    intro q e y hq hy hlap
    rw [session_setSession] at hy
    split at hy
    · cases hy
    · exact h q e y hq hy hlap
  | link p x _ hx =>
    intro q e y hq hy hlap
    rw [session_setPort] at hy
    split at hy
    · next hqp => subst hqp; exact h q e y hq (hx ▸ hy) hlap
    · exact h q e y hq hy hlap
  | count =>
    refine h.of_same he (.of_map (f := fun _ => Session.countDown) (fun _ _ => rfl) fun q => ?_)
    simp [State.session, State.port, countTick]
  | conclude => exact h.of_same he fun p y hy => ⟨y, by rwa [conclude_session] at hy, rfl⟩
  | _ => exact h.of_same he (.of_eq SameLiveness.refl rfl)

theorem permitSafe_iff {s : State} : PermitSafe s ↔ PermitConsistent s.permit ∧ LapsedStop s :=
  ⟨fun h => ⟨h.unit, h.lapsed⟩, fun h => ⟨h.1, h.2⟩⟩

theorem permitInitial_consistent : PermitConsistent Permit.initial :=
  ⟨rfl, rfl, rfl, rfl, fun _ => (by decide), (by simp [Permit.initial]), by simp [Permit.initial]⟩

/-- Without electors no elector is to be spoken of. -/
theorem lapsedStop_of_initial {s : State} (h : s.permit = Permit.initial) : LapsedStop s := fun p e x hp => by
  rw [h] at hp
  cases p <;> cases hp

/-- A lapse as the permit unit takes it leaves the unit safe: the lapsed elector is at a forced STOP (R141). -/
theorem permitSafe_lapse {s : State} (h : PermitSafe s) (p : Port) :
    PermitSafe (forceStop p (offer (.master p) .lapsed (s.modSession p Session.lapsed))) := by
  obtain ⟨hc, hl⟩ := permitSafe_iff.mp h
  generalize hu : offer (.master p) .lapsed (s.modSession p Session.lapsed) = u
  have hup : u.permit = s.permit := hu ▸ (kept_offer _ _ _).unchanged .permit (by decide)
  have hlive : SessionsFrom SameLiveness (s.modSession p Session.lapsed) u := hu ▸ offerAs_liveness _ _ _ _ _
  have hothers : ∀ q e x, q ≠ p → u.permit.electors.get q = some e → u.session q = some x → x.liveness = .lapsed → e.vote = .stop ∧ e.forced = true := by
    intro q e x hq he hx hlap
    obtain ⟨y, hy, hyx⟩ := hlive q x hx
    rw [session_modSession, if_neg hq, Option.map_id] at hy
    exact hl q e y (hup ▸ he) hy (hyx.symm.trans hlap)
  refine permitSafe_iff.mpr ?_
  unfold forceStop
  split
  · next hn =>
    refine ⟨hup ▸ hc, fun q e x he hx hlap => ?_⟩
    by_cases hq : q = p
    · subst hq; rw [hn] at he; cases he
    · exact hothers q e x hq he hx hlap
  · refine ⟨PermitConsistent.setElector (hup ▸ hc) _ _ _ _, fun q e x he hx hlap => ?_⟩
    rw [setElector_electors, PerPort.get_set] at he
    split at he
    · cases he; exact ⟨rfl, rfl⟩
    · next hq =>
      obtain ⟨y, hy, hyx⟩ := setElector_liveness _ _ _ _ _ q x hx
      exact hothers q e y hq he hy (hyx.symm.trans hlap)

theorem permitSafe_stable : StepStable PermitSafe where
  calm s t m h := by
    obtain ⟨hc, hl⟩ := permitSafe_iff.mp h
    exact permitSafe_iff.mpr ⟨hc.congr (calmMove_sameSay m), calmMove_lapsedStop m hl⟩
  own s h := by
    obtain ⟨hc, hl⟩ := permitSafe_iff.mp h
    exact ⟨permitSafe_iff.mpr ⟨hc.takePartVote, hl.of_same (takePartVote_electors s) (takePartVote_liveness s)⟩,
      permitSafe_iff.mpr ⟨hc.armingExpires, hl.of_same (armingExpires_electors s) (armingExpires_liveness s)⟩, permitSafe_lapse h⟩
  shift s t m h := by
    obtain ⟨hc, hl⟩ := permitSafe_iff.mp h
    refine permitSafe_iff.mpr ?_
    cases m with
    | elector p e c x _ he =>
      refine ⟨hc.setElector p e c x, fun q v y hq hy hlap => ?_⟩
      obtain ⟨z, hz, hzy⟩ := setElector_liveness p e c x s q y hy
      rw [setElector_electors, PerPort.get_set] at hq
      split at hq
      · next hqp =>
        subst hqp
        have := he v hq z hz
        rw [hzy, this] at hlap; cases hlap
      · exact hl q v z hq hz (hzy.symm.trans hlap)
    | vote =>
      have hl' : LapsedStop (formPartVoteAgain s) := hl.of_same rfl (.of_eq SameLiveness.refl rfl)
      exact ⟨PermitConsistent.takePartVote (s := formPartVoteAgain s) hc, hl'.of_same (takePartVote_electors _) (takePartVote_liveness _)⟩
  fall s _ := permitSafe_iff.mpr ⟨permitInitial_consistent, lapsedStop_of_initial rfl⟩
  power s _ := permitSafe_iff.mpr ⟨permitInitial_consistent, lapsedStop_of_initial rfl⟩

theorem mem_votes {pm : Permit} {p : Port} {e : Elector} (h : pm.electors.get p = some e) : e.vote ∈ votes pm :=
  List.mem_map.mpr ⟨e, List.mem_filterMap.mpr ⟨p, by cases p <;> simp [allPorts], h⟩, rfl⟩

/-- The aggregate GO read backwards: someone votes, all vote GO, and the part does not vote STOP (R144). -/
theorem formAggregate_go {pm : Permit} (h : formAggregate pm = .go) :
    votes pm ≠ [] ∧ (∀ v ∈ votes pm, v = .go) ∧ pm.partVote ≠ .stop := by
  unfold formAggregate at h
  split_ifs at h with h1 h2 h3 h4
  refine ⟨h1, fun v hv => ?_, h3⟩
  cases v
  · exact absurd hv h2
  · exact absurd hv h4
  · rfl

/-- Settles O55: the invariant by the moves of a step, and the sentence of R141 from the aggregate GO. -/
theorem runningMeansEveryoneVotesGo : Obligations.RunningMeansEveryoneVotesGo := by
  refine ⟨fun s t h hst => permitSafe_stable.step h hst, fun s h hrun => ?_⟩
  obtain ⟨hne, hall, hpart⟩ := formAggregate_go (h.unit.aggregate.symm.trans (h.unit.moving (.inr hrun)))
  have hgo : ∀ p e, s.permit.electors.get p = some e → e.vote = .go := fun p e he => hall _ (mem_votes he)
  refine ⟨?_, fun p e he => ⟨hgo p e he, fun x hx => ?_⟩, hpart, ?_, ?_⟩
  · obtain ⟨v, hv⟩ := List.exists_mem_of_ne_nil _ hne
    obtain ⟨e, he, _⟩ := List.mem_map.mp hv
    obtain ⟨p, _, hp⟩ := List.mem_filterMap.mp he
    exact ⟨p, e, hp⟩
  · cases hl : x.liveness
    · rfl
    · have := (h.lapsed p e x he hx hl).1
      rw [hgo p e he] at this; cases this
  · rw [h.unit.prun, hrun]; rfl
  · rw [h.unit.phold, hrun]; rfl

end Sys2Proof.Machine
end

section
/-! SUPPORT. What a change of permit state is made of where the permit unit itself is not spoken of; then the invariants of the tables (O57),
of the readers (O56) and of the schedule (O58). -/

set_option Elab.async false

namespace Sys2Proof.Machine

/-! ### Loose moves -/

/-- What a change of the permit is made of: the schedule's moves, a permit unit with its start delay kept, lines with their gates kept, and
attention for all. -/
inductive LooseMove : State → State → Prop
  | entry {s t : State} (h : EntryMove s t) : LooseMove s t
  | permit (pm : Permit) (s : State) (h : pm.startDelay = s.permit.startDelay) : LooseMove s (s.setPermit pm)
  | outs (f : OutLine → OutLine) (s : State) (h : ∀ o, (f o).gated = o.gated) : LooseMove s { s with outs := s.outs.map f }
  | noticeAll (n : Byte) (e : Option Port) (s : State) : LooseMove s (raiseForAll n e s)

abbrev LooseMoves : State → State → Prop := Moves LooseMove

theorem loose_of_entry {s t : State} (h : EntryMoves s t) : LooseMoves s t := Moves.mono (fun _ _ => .entry) h

theorem loose_setPermit {pm : Permit} {s : State} (h : pm.startDelay = s.permit.startDelay) : LooseMoves s (s.setPermit pm) :=
  .single (.permit pm s h)

theorem OutLine.formed_gated (o : OutLine) (x : PermitState) : (o.formed x).gated = o.gated := rfl

theorem loose_permitToLines (n : PermitState) (s : State) : LooseMoves s (permitToLines n s) := by
  unfold permitToLines
  refine .trans (b := if n = .stopped then gatedLinesSafe s else s) (Moves.maybe .refl (.single (.outs _ s fun o => ?_)))
    (.single (.outs _ _ fun o => ?_))
  · split <;> rfl
  · split <;> rfl

theorem loose_changePermit (n : PermitState) (c : PermitCause) (x : Option Port) (s : State) : LooseMoves s (changePermit n c x s) := by
  unfold changePermit
  have enters : LooseMoves s (enterPermitState n c s) := loose_setPermit rfl
  exact Moves.after (.single (.noticeAll _ _ _)) (Moves.after (loose_setPermit rfl) (Moves.after (loose_permitToLines _ _)
    (Moves.after (loose_of_entry (moves_permitToSchedule _ _ _)) (Moves.after (loose_of_entry (moves_offer _ _ _)) enters))))

theorem loose_takeAggregate (c : PermitCause) (x : Option Port) (s : State) : LooseMoves s (takeAggregate c x s) := by
  have forms : LooseMoves s (s.setPermit { s.permit with aggregate := formAggregate s.permit }) := loose_setPermit rfl
  unfold takeAggregate
  exact Moves.either (fun _ => .refl) fun _ => Moves.either (fun _ => forms) fun _ => Moves.after (loose_changePermit _ _ _ _) forms

theorem loose_takePartVote (s : State) : LooseMoves s (takePartVote s) := by
  have takes : LooseMoves s (s.setPermit { s.permit with partVote := s.conditions.partVote }) := loose_setPermit rfl
  unfold takePartVote
  exact Moves.either (fun _ => .refl) fun _ => Moves.after (loose_takeAggregate _ _ _) takes

theorem loose_setElector (p : Port) (e : Option Elector) (c : PermitCause) (x : Option Port) (s : State) :
    LooseMoves s (setElector p e c x s) := by
  have writes : LooseMoves s (s.setPermit { s.permit with electors := s.permit.electors.set p e }) := loose_setPermit rfl
  exact Moves.after (loose_takeAggregate _ _ _) writes

theorem loose_armingExpires (s : State) : LooseMoves s (armingExpires s) := by
  unfold armingExpires
  split
  · exact loose_changePermit _ _ _ _
  · exact .refl

/-- An invariant that calm moves keep, and every change of electors, part vote and arming timer, and each reset, is kept by every step. -/
theorem StepStable.of_permit {P : State → Prop} (calm : ∀ s t, CalmMove s t → P s → P t)
    (elector : ∀ s p e c x, P s → P (setElector p e c x s)) (vote : ∀ s, P s → P (takePartVote s)) (arming : ∀ s, P s → P (armingExpires s))
    (lapses : ∀ s p, P s → P (s.modSession p Session.lapsed)) (forms : ∀ s, P s → P (formPartVoteAgain s))
    (fall : ∀ s, P s → P (resetBlocks s))
    (power : ∀ s, P s → P { State.reset with evPins := s.evPins, ports := s.ports.map resetPort, freeUses := s.freeUses, pending := s.pending }) :
    StepStable P where
  calm := calm
  own s h := by
    refine ⟨vote s h, arming s h, fun p => ?_⟩
    have hu : P (offer (.master p) .lapsed (s.modSession p Session.lapsed)) :=
      calm _ _ (.entry (.offer _ _ _ _ _)) (lapses s p h)
    unfold forceStop
    split
    · exact hu
    · exact elector _ _ _ _ _ hu
  shift s t m h := by
    cases m with
    | elector p e c x => exact elector s p e c x h
    | vote => exact vote _ (forms s h)
  fall := fall
  power := power

/-! ### The tables -/

theorem claimOf_of_claims {s t : State} (h : t.claims = s.claims) (r : Resource) : t.claimOf r = s.claimOf r := by
  unfold State.claimOf; rw [h]

/-- The tables are read from claims, part time, its settings, the lines' stored configuration, quotas, tolerance and start delay. -/
theorem TablesConsistent.congr {s t : State} (h : TablesConsistent s) (hc : t.claims = s.claims) (ht : t.time = s.time)
    (hl : t.lines = s.lines) (hq : t.schedule.quotas = s.schedule.quotas) (hn : t.schedule.tolerance = s.schedule.tolerance)
    (hd : t.permit.startDelay = s.permit.startDelay) : TablesConsistent t := by
  have hline : ∀ n, t.line n = s.line n := fun n => by unfold State.line; rw [hl]
  exact ⟨fun r => claimOf_of_claims hc r ▸ h.claims r, ht ▸ h.time, ht ▸ h.refHz, ht ▸ h.trim, fun n => hline n ▸ h.filter n,
    fun n => hline n ▸ h.budget n, fun p => hq ▸ h.quota p, hn ▸ h.tolerance, hd ▸ h.delay⟩

theorem tables_of_kept {bs : List Block} {s t : State} (h : TablesConsistent s) (k : Kept bs s t)
    (hb : [Block.claims, .time, .lines, .schedule, .permit].all (fun b => !bs.contains b) = true := by rfl) : TablesConsistent t := by
  have same : ∀ b ∈ [Block.claims, .time, .lines, .schedule, .permit], b.same s t := fun b hm =>
    k.unchanged b (by simpa using List.all_eq_true.mp hb b hm)
  have hs : t.schedule = s.schedule := same .schedule (by decide)
  have hp : t.permit = s.permit := same .permit (by decide)
  exact h.congr (same .claims (by decide)) (same .time (by decide)) (same .lines (by decide)) (by rw [hs]) (by rw [hs]) (by rw [hp])

theorem entryMove_tables {s t : State} (m : EntryMove s t) (h : TablesConsistent s) : TablesConsistent t := by
  cases m with
  | offer => exact tables_of_kept h (kept_offerAs _ _ _ _ s)
  | raise => exact tables_of_kept h (kept_handRaise _ s)
  | _ => exact h.congr rfl rfl rfl rfl rfl rfl

theorem looseMoves_tables {s t : State} (m : LooseMoves s t) (h : TablesConsistent s) : TablesConsistent t := by
  refine Moves.keeps (fun s t m h => ?_) m h
  cases m with
  | entry m => exact entryMove_tables m h
  | permit _ _ hd => exact h.congr rfl rfl rfl rfl rfl hd
  | _ => exact h.congr rfl rfl rfl rfl rfl rfl

/-- New claim records, each consistent. -/
theorem TablesConsistent.setClaims {s t : State} (h : TablesConsistent s) (hc : ∀ r, ClaimConsistent (t.claimOf r)) (ht : t.time = s.time)
    (hl : t.lines = s.lines) (hs : t.schedule = s.schedule) (hp : t.permit = s.permit) : TablesConsistent t := by
  have hline : ∀ n, t.line n = s.line n := fun n => by unfold State.line; rw [hl]
  exact ⟨hc, ht ▸ h.time, ht ▸ h.refHz, ht ▸ h.trim, fun n => hline n ▸ h.filter n, fun n => hline n ▸ h.budget n, fun p => hs ▸ h.quota p,
    hs ▸ h.tolerance, hp ▸ h.delay⟩

theorem claimOf_leaveWaitLists (p : Port) (s : State) (r : Resource) :
    (leaveWaitLists p s).claimOf r = { s.claimOf r with waiters := (s.claimOf r).waiters.filter (· ≠ p) } := by
  simp [State.claimOf, leaveWaitLists]

theorem calmMove_tables {s t : State} (m : CalmMove s t) (h : TablesConsistent s) : TablesConsistent t := by
  cases m with
  | entry m => exact entryMove_tables m h
  | reexamine => exact tables_of_kept h (kept_reexamine s)
  | clock x _ ht hf hx =>
    refine ⟨h.claims, ht h.time, ?_, ?_, h.filter, h.budget, h.quota, h.tolerance, h.delay⟩
    · rcases hf with hf | hf
      · exact hf.symm ▸ h.refHz
      · exact hf
    · rcases hx with hx | hx
      · exact hx.symm ▸ h.trim
      · exact hx
  | lines v _ hv =>
    have hr := fun n => hv n ⟨h.filter n, h.budget n⟩
    exact ⟨h.claims, h.time, h.refHz, h.trim, fun n => (hr n).1, fun n => (hr n).2, h.quota, h.tolerance, h.delay⟩
  | waits p => exact h.setClaims (fun r => claimOf_leaveWaitLists p s r ▸ (h.claims r).filter _) rfl rfl rfl rfl
  | claim r c _ hc =>
    refine h.setClaims (fun q => ?_) rfl rfl rfl rfl
    rw [claimOf_setClaim]
    split
    · exact hc (h.claims r)
    · exact h.claims q
  | settings q n _ hq hn =>
    refine ⟨h.claims, h.time, h.refHz, h.trim, h.filter, h.budget, fun p => ?_, ?_, h.delay⟩
    · rcases hq p with e | e
      · exact e.symm ▸ h.quota p
      · exact ⟨e.1, e.2.1⟩
    · rcases hn with e | e
      · exact e.symm ▸ h.tolerance
      · exact e
  | delay n _ hd => exact ⟨h.claims, h.time, h.refHz, h.trim, h.filter, h.budget, h.quota, h.tolerance, hd⟩
  | conclude => exact tables_of_kept h (kept_conclude s)
  | _ => exact h.congr rfl rfl rfl rfl rfl rfl

theorem line_replicate (n : Fin 16) : (Vector.replicate 16 EventLine.initial)[n] = EventLine.initial := by simp

theorem claimOf_reset {s : State} (h : s.claims = State.reset.claims) (r : Resource) : s.claimOf r = { holder := none, waiters := [] } := by
  unfold State.claimOf
  rw [h]
  simp [State.reset]

theorem claimConsistent_free : ClaimConsistent { holder := none, waiters := [] } := ⟨fun _ => rfl, by simp, List.nodup_nil⟩

/-- The settings that a reset leaves lie in range. -/
theorem tables_of_reset {s : State} (hc : s.claims = State.reset.claims) (ht : s.time.partTime ≤ 2 ^ 64 - 1)
    (hf : 1000000 ≤ s.time.refHz ∧ s.time.refHz ≤ 50000000) (hx : s.time.trim.natAbs ≤ 500000)
    (hl : ∀ n, (s.line n).cfg = LineConfig.initial) (hq : s.schedule.quotas = ⟨16, 16, 16, 16⟩) (hn : s.schedule.tolerance = 100)
    (hp : s.permit = Permit.initial) : TablesConsistent s :=
  ⟨fun r => claimOf_reset hc r ▸ claimConsistent_free, ht, hf, hx, fun n => by rw [hl]; decide, fun n => by rw [hl]; decide,
    fun p => by rw [hq]; cases p <;> decide, by rw [hn]; decide, by rw [hp]; decide⟩

theorem tables_power (s : State) :
    TablesConsistent { State.reset with evPins := s.evPins, ports := s.ports.map resetPort, freeUses := s.freeUses, pending := s.pending } :=
  tables_of_reset rfl (show (0 : Nat) ≤ 2 ^ 64 - 1 by decide)
    (show 1000000 ≤ 10000000 ∧ 10000000 ≤ 50000000 by decide) (show (0 : Int).natAbs ≤ 500000 by decide)
    (fun n => congrArg EventLine.cfg (line_replicate n)) rfl rfl rfl

theorem tables_fall {s : State} (h : TablesConsistent s) : TablesConsistent (resetBlocks s) :=
  tables_of_reset rfl h.time h.refHz h.trim (fun n => by simp [State.line, resetBlocks, resetLine, EventLine.initial]) rfl rfl rfl

theorem tables_stable : StepStable TablesConsistent :=
  .of_permit (fun _ _ m h => calmMove_tables m h) (fun s p e c x h => looseMoves_tables (loose_setElector p e c x s) h)
    (fun s h => looseMoves_tables (loose_takePartVote s) h) (fun s h => looseMoves_tables (loose_armingExpires s) h)
    (fun _ _ h => h.congr rfl rfl rfl rfl rfl rfl) (fun _ h => h.congr rfl rfl rfl rfl rfl rfl) (fun _ h => tables_fall h)
    (fun s _ => tables_power s)

/-- Settles O57, by the moves of a step. -/
theorem everyStepKeepsTables : Obligations.EveryStepKeepsTables := fun _ _ h hst => tables_stable.step h hst

end Sys2Proof.Machine
end

section
/-! SUPPORT. The invariant of the readers (O56): offers, retirements, re-examinations and the commands of a reader keep the seqs consecutive
and every reader within them. -/

set_option Elab.async false

namespace Sys2Proof.Machine

/-- The positions of a reader in order between a low and a high seq. -/
def Between (lo hi : Nat) (r : Reader) : Prop := lo ≤ r.cursor ∧ r.cursor ≤ r.readMark ∧ r.readMark ≤ hi

/-- In a consistent journal the readers lie between the counter less the records held, and the counter. -/
theorem readersConsistent_iff {s : State} :
    ReadersConsistent s ↔ JournalConsistent s.journal
      ∧ ∀ p x, s.session p = some x → Between (s.journal.counter - s.journal.store.length) s.journal.counter x.reader := by
  refine ⟨fun h => ⟨h.journal, fun p x hx => ?_⟩, fun ⟨hj, hr⟩ => ⟨hj, fun p x hx => ?_⟩⟩
  · have := h.readers p x hx
    rwa [oldestSeq_eq h.journal, endSeq_eq h.journal] at this
  · have := hr p x hx
    rw [oldestSeq_eq hj, endSeq_eq hj]
    exact this

/-! ### The journal alone -/

/-- With the newest record stored, the seqs are consecutive as before. -/
theorem JournalConsistent.snoc {j : Journal} {r : Record} (h : JournalConsistent j) (hr : r.seq = j.counter) (hl : j.store.length < 512) :
    JournalConsistent { j with store := j.store ++ [r], counter := j.counter + 1 } := by
  refine ⟨fun i hi => ?_, by simp; omega, h.withheld⟩
  dsimp only at hi ⊢
  rw [List.length_append, List.length_singleton] at hi ⊢
  rw [List.getElem_append]
  split
  · next hi' => have := h.seqs i hi'; omega
  · simp only [List.getElem_singleton]; omega

/-- With the oldest record gone, the rest is consecutive as before. -/
theorem JournalConsistent.tail {j : Journal} (h : JournalConsistent j) : JournalConsistent { j with store := j.store.tail } := by
  refine ⟨fun i hi => ?_, ?_, h.withheld⟩
  · dsimp only at hi ⊢
    rw [List.length_tail] at hi ⊢
    rw [List.getElem_tail]
    have := h.seqs (i + 1) (by omega)
    omega
  · have := h.capacity
    dsimp only
    rw [List.length_tail]; omega

/-- The journal with the GAP record in the freed place. -/
theorem JournalConsistent.regap {j : Journal} {r : Record} (h : JournalConsistent j) (hr : r.seq = j.counter) :
    JournalConsistent { store := j.store.tail ++ [r], counter := j.counter + 1, state := .accepting, withheld := 0 } := by
  have hl : j.store.tail.length < 512 := by rw [List.length_tail]; have := h.capacity; omega
  have := h.tail.snoc (r := r) hr hl
  exact ⟨this.seqs, this.capacity, fun _ => rfl⟩

/-! ### Moves -/

theorem ReadersConsistent.of_positions {s t : State} (h : ReadersConsistent s) (hj : t.journal = s.journal)
    (hs : SessionsFrom (fun x y => y.reader.cursor = x.reader.cursor ∧ y.reader.readMark = x.reader.readMark) s t) : ReadersConsistent t := by
  rw [readersConsistent_iff] at h ⊢
  refine ⟨hj ▸ h.1, fun p y hy => ?_⟩
  obtain ⟨x, hx, h1, h2⟩ := hs p y hy
  obtain ⟨b1, b2, b3⟩ := h.2 p x hx
  rw [hj]
  exact ⟨by omega, by omega, by omega⟩

theorem ReadersConsistent.of_ports {s t : State} (h : ReadersConsistent s) (hj : t.journal = s.journal) (hp : t.ports = s.ports) :
    ReadersConsistent t := h.of_positions hj (.of_eq (fun _ => ⟨rfl, rfl⟩) hp)

/-- A stored record moves the high end up. -/
theorem readers_storeRecord {s : State} (h : ReadersConsistent s) (hl : s.journal.store.length < 512) (t : Nat) (q : Quality) (o : Origin)
    (b : Body) : ReadersConsistent (storeRecord t q o b s) := by
  rw [readersConsistent_iff] at h ⊢
  refine ⟨h.1.snoc rfl hl, fun p x hx => ?_⟩
  obtain ⟨b1, b2, b3⟩ := h.2 p x hx
  refine ⟨?_, b2, ?_⟩ <;> simp only [storeRecord, State.setJournal_journal, List.length_append, List.length_singleton] <;> omega

/-- A retirement moves the low end up and pushes the readers with it (R46). -/
theorem readers_retireOldest {s : State} (h : ReadersConsistent s) : ReadersConsistent (retireOldest s) := by
  rw [readersConsistent_iff] at h ⊢
  obtain ⟨hj, hr⟩ := h
  rw [retireOldest_journal]
  refine ⟨hj.tail, fun p y hy => ?_⟩
  rw [session_retireOldest] at hy
  obtain ⟨x, hx, rfl⟩ := Option.map_eq_some_iff.mp hy
  cases h0 : s.journal.store with
  | nil => have := hr p x hx; rw [h0] at this; exact this
  | cons r rest =>
    obtain ⟨b1, b2, b3⟩ := hr p x hx
    have hseq := hj.seqs 0 (by rw [h0]; simp)
    simp only [h0, List.getElem_cons_zero, List.length_cons] at hseq b1 ⊢
    simp only [List.head?_cons, Option.elim_some, List.tail_cons]
    unfold Between Session.pushPast
    dsimp only
    split
    · next hc => exact ⟨by omega, le_max_right _ _, by omega⟩
    · next hc => exact ⟨by omega, le_max_right _ _, by omega⟩

theorem readers_setJournal {s : State} {j : Journal} (h : ReadersConsistent s) (hs : j.store = s.journal.store)
    (hc : j.counter = s.journal.counter) (hw : j.state = .accepting → j.withheld = 0) : ReadersConsistent (s.setJournal j) := by
  rw [readersConsistent_iff] at h ⊢
  obtain ⟨hj, hr⟩ := h
  refine ⟨⟨fun i hi => ?_, ?_, hw⟩, fun p x hx => ?_⟩
  · simp only [State.setJournal_journal, hs, hc] at hi ⊢; exact hj.seqs i hi
  · simp only [State.setJournal_journal, hs]; exact hj.capacity
  · simp only [State.setJournal_journal, hs, hc]; exact hr p x hx

theorem readers_handRaise {s : State} (h : ReadersConsistent s) (c : Condition) : ReadersConsistent (handRaise c s) :=
  h.of_ports ((kept_handRaise c s).unchanged .journal (by decide)) (handRaise_ports c s)

theorem readers_offerAs {s : State} (h : ReadersConsistent s) (t : Nat) (q : Quality) (o : Origin) (b : Body) :
    ReadersConsistent (offerAs t q o b s) := by
  rcases offerAs_cases t q o b s with ⟨_, e⟩ | ⟨_, hw, e⟩ | ⟨_, _, hl, e⟩ | ⟨_, _, _, _, e⟩ | ⟨_, _, hl, _, e⟩ <;> rw [e]
  · exact h
  · exact readers_setJournal h rfl rfl fun ha => by dsimp only at ha; rw [hw] at ha; cases ha
  · exact readers_storeRecord h hl t q o b
  · have hj : ReadersConsistent (s.setJournal { s.journal with state := .withholding, withheld := 1 }) :=
      readers_setJournal h rfl rfl fun ha => by cases ha
    exact readers_handRaise hj _
  · refine readers_storeRecord (readers_retireOldest h) ?_ t q o b
    have := h.journal.capacity
    rw [retireOldest_journal, List.length_tail]; omega

theorem readers_reexamine {s : State} (h : ReadersConsistent s) : ReadersConsistent (reexamine s) := by
  unfold reexamine
  split
  · exact h
  · split
    · exact h
    · refine readers_setJournal (readers_storeRecord (readers_retireOldest h) ?_ _ _ _ _) rfl rfl fun _ => rfl
      have := h.journal.capacity
      rw [retireOldest_journal, List.length_tail]; omega

theorem entryMove_readers {s t : State} (m : EntryMove s t) (h : ReadersConsistent s) : ReadersConsistent t := by
  cases m with
  | offer => exact readers_offerAs h _ _ _ _
  | raise => exact readers_handRaise h _
  | notice n p =>
    refine h.of_positions rfl (.of_map (f := fun q => if q = p then Session.notice n else id) (fun q x => ?_)
      fun q => session_modSession s p q _)
    split <;> exact ⟨rfl, rfl⟩
  | _ => exact h.of_ports rfl rfl

theorem readers_raiseForAll {s : State} (h : ReadersConsistent s) (n : Byte) (e : Option Port) : ReadersConsistent (raiseForAll n e s) := by
  refine h.of_positions rfl (.of_map (f := fun q => if e = some q then id else Session.notice n) (fun q x => ?_)
    fun q => session_raiseForAll n e s q)
  split <;> exact ⟨rfl, rfl⟩

theorem looseMoves_readers {s t : State} (m : LooseMoves s t) (h : ReadersConsistent s) : ReadersConsistent t := by
  refine Moves.keeps (fun s t m h => ?_) m h
  cases m with
  | entry m => exact entryMove_readers m h
  | noticeAll n e => exact readers_raiseForAll h n e
  | _ => exact h.of_ports rfl rfl

theorem calmMove_readers {s t : State} (m : CalmMove s t) (h : ReadersConsistent s) : ReadersConsistent t := by
  cases m with
  | entry m => exact entryMove_readers m h
  | reexamine => exact readers_reexamine h
  | attend p f _ hf =>
    refine h.of_positions rfl (.of_map (f := fun q => if q = p then f else id) (fun q x => ?_) fun q => session_modSession s p q f)
    split
    · exact (hf x).2
    · exact ⟨rfl, rfl⟩
  | noticeAll n e => exact readers_raiseForAll h n e
  | seat p x _ _ hr =>
    refine ⟨h.journal, fun q y hy => ?_⟩
    rw [session_setSession] at hy
    split at hy
    · cases hy; exact hr h
    · exact h.readers q y hy
  | unseat p =>
    refine ⟨h.journal, fun q y hy => ?_⟩
    rw [session_setSession] at hy
    split at hy
    · cases hy
    · exact h.readers q y hy
  | link p x _ hx =>
    refine ⟨h.journal, fun q y hy => ?_⟩
    rw [session_setPort] at hy
    split at hy
    · next hq => subst hq; exact h.readers q y (hx ▸ hy)
    · exact h.readers q y hy
  | count =>
    refine h.of_positions rfl (.of_map (f := fun _ => Session.countDown) (fun _ _ => ⟨rfl, rfl⟩) fun q => ?_)
    simp [State.session, State.port, countTick]
  | conclude => exact h.of_positions (conclude_journal s) fun p y hy => ⟨y, by rwa [conclude_session] at hy, rfl, rfl⟩
  | _ => exact h.of_ports rfl rfl

/-- Without a session there is no reader. -/
theorem readers_of_none {s : State} (hj : JournalConsistent s.journal) (h : ∀ p, s.session p = none) : ReadersConsistent s :=
  ⟨hj, fun p x hx => by rw [h] at hx; cases hx⟩

theorem session_map_resetPort {s t : State} (h : t.ports = s.ports.map resetPort) (p : Port) : t.session p = none := by
  unfold State.session State.port
  rw [h, PerPort.get_map]
  rfl

/-- The three records of power-on are numbered from 0 (R55, R174). -/
theorem journalConsistent_reset : JournalConsistent State.reset.journal := by
  refine ⟨fun i hi => ?_, by decide, fun _ => rfl⟩
  have h3 : i < 3 := hi
  interval_cases i <;> rfl

theorem readers_stable : StepStable ReadersConsistent :=
  .of_permit (fun _ _ m h => calmMove_readers m h) (fun s p e c x h => looseMoves_readers (loose_setElector p e c x s) h)
    (fun s h => looseMoves_readers (loose_takePartVote s) h) (fun s h => looseMoves_readers (loose_armingExpires s) h)
    (fun s p h => h.of_positions rfl (.of_map (f := fun q => if q = p then Session.lapsed else id)
      (fun q x => by split <;> exact ⟨rfl, rfl⟩) fun q => session_modSession s p q _))
    (fun _ h => h.of_ports rfl rfl)
    (fun s h => readers_of_none ⟨fun i hi => absurd hi (Nat.not_lt_zero i), Nat.zero_le _, fun _ => rfl⟩ (session_map_resetPort (s := s) rfl))
    (fun s _ => readers_of_none journalConsistent_reset (session_map_resetPort (s := s) rfl))

/-- Settles O56, by the moves of a step. -/
theorem everyStepKeepsReaders : Obligations.EveryStepKeepsReaders := fun _ _ h hst => readers_stable.step h hst

end Sys2Proof.Machine
end

section
/-! SUPPORT. The invariant of the schedule (O58): no move but an admission gives a master an entry, and what an entry to STOPPED leaves is on
no gated line. -/

set_option Elab.async false

namespace Sys2Proof.Machine

/-- No entry of t is new: it stands in its slot in s too, with its owner and its line; gates, quotas and claims are as they were. -/
structure NoNewEntry (s t : State) : Prop where
  entries : ∀ i e', t.entry i = some e' → ∃ e, s.entry i = some e ∧ e'.owner = e.owner ∧ e'.line = e.line
  gates   : ∀ k, (t.out k).gated = (s.out k).gated
  quotas  : t.schedule.quotas = s.schedule.quotas
  claims  : t.claims = s.claims

theorem NoNewEntry.of_eq {s t : State} (hs : t.schedule = s.schedule) (ho : t.outs = s.outs) (hc : t.claims = s.claims) : NoNewEntry s t :=
  ⟨fun i e' h => ⟨e', entry_congr hs i ▸ h, rfl, rfl⟩, fun k => by unfold State.out; rw [ho], by rw [hs], hc⟩

theorem NoNewEntry.refl (s : State) : NoNewEntry s s := .of_eq rfl rfl rfl

theorem NoNewEntry.trans {s t u : State} (h : NoNewEntry s t) (k : NoNewEntry t u) : NoNewEntry s u := by
  refine ⟨fun i e'' h2 => ?_, fun j => (k.gates j).trans (h.gates j), k.quotas.trans h.quotas, k.claims.trans h.claims⟩
  obtain ⟨e', h1, o1, l1⟩ := k.entries i e'' h2
  obtain ⟨e, h0, o0, l0⟩ := h.entries i e' h1
  exact ⟨e, h0, o1.trans o0, l1.trans l0⟩

/-- New levels on the lines, their gates as they were. -/
theorem NoNewEntry.of_outs {s t : State} (hs : t.schedule = s.schedule) (ho : ∀ k, (t.out k).gated = (s.out k).gated)
    (hc : t.claims = s.claims) : NoNewEntry s t := ⟨fun i e' h => ⟨e', entry_congr hs i ▸ h, rfl, rfl⟩, ho, by rw [hs], hc⟩

theorem NoNewEntry.of_kept {bs : List Block} {s t : State} (k : Kept bs s t)
    (hb : [Block.schedule, .outs, .claims].all (fun b => !bs.contains b) = true := by rfl) : NoNewEntry s t := by
  have same : ∀ b ∈ [Block.schedule, .outs, .claims], b.same s t := fun b hm =>
    k.unchanged b (by simpa using List.all_eq_true.mp hb b hm)
  exact .of_eq (same .schedule (by decide)) (same .outs (by decide)) (same .claims (by decide))

theorem entryMove_noNewEntry {s t : State} (m : EntryMove s t) : NoNewEntry s t := by
  cases m with
  | offer => exact .of_kept (kept_offerAs _ _ _ _ s)
  | raise => exact .of_kept (kept_handRaise _ s)
  | level k l =>
    refine .of_outs rfl (fun j => ?_) rfl
    unfold handLevel
    rw [out_setOut]
    split
    · next h => rw [h]
    · rfl
  | edit i f _ h =>
    refine ⟨fun j e' he => ?_, fun _ => rfl, rfl, rfl⟩
    rw [entry_modEntry] at he
    split at he
    · next hj =>
      obtain ⟨e, h0, rfl⟩ := Option.map_eq_some_iff.mp he
      exact ⟨e, hj ▸ h0, h e⟩
    · exact ⟨e', he, rfl, rfl⟩
  | free i =>
    refine ⟨fun j e' he => ?_, fun _ => rfl, rfl, rfl⟩
    rw [entry_putEntry] at he
    split at he
    · cases he
    · exact ⟨e', he, rfl, rfl⟩
  | _ => exact .of_eq rfl rfl rfl

theorem entryMoves_noNewEntry {s t : State} (m : EntryMoves s t) : NoNewEntry s t :=
  Moves.keeps (P := NoNewEntry s) (fun _ _ m h => h.trans (entryMove_noNewEntry m)) m (.refl s)

theorem looseMoves_noNewEntry {s t : State} (m : LooseMoves s t) : NoNewEntry s t := by
  refine Moves.keeps (P := NoNewEntry s) (fun u v m h => h.trans ?_) m (.refl s)
  cases m with
  | entry m => exact entryMove_noNewEntry m
  | outs f _ hf => exact .of_outs rfl (fun k => by simp [State.out, hf]) rfl
  | _ => exact .of_eq rfl rfl rfl

/-! ### The parts of the invariant -/

theorem onGatedLine_congr {s t : State} {e e' : Entry} (hg : ∀ k, (t.out k).gated = (s.out k).gated) (hl : e'.line = e.line) :
    onGatedLine t e' = onGatedLine s e := by
  unfold onGatedLine
  rw [hl]
  split
  · exact hg _
  · rfl

theorem onGatedLine_iff {s : State} {e : Entry} : onGatedLine s e = true ↔ ∃ k, e.line = some k ∧ (s.out k).gated = true := by
  unfold onGatedLine
  split
  · next h => simp [h]
  · next h => simp [h]

theorem slotsWhere_nodup (s : State) (test : Entry → Bool) : (slotsWhere s test).Nodup := (List.nodup_finRange 64).filter _

/-- The entries of one master, in number, where each is in a list of slots or was the master's before. -/
theorem owned_le {s t : State} {p : Port} (l : List (Fin 64))
    (h : ∀ i e', t.entry i = some e' → e'.owner = p → i ∈ l ∨ ∃ e, s.entry i = some e ∧ e.owner = p) : owned t p ≤ l.length + owned s p := by
  unfold owned
  rw [← List.length_append]
  refine (List.subperm_of_subset (slotsWhere_nodup _ _) fun i hi => ?_).length_le
  obtain ⟨e', he, ho⟩ := mem_slotsWhere.mp hi
  rcases h i e' he (by simpa using ho) with hl | ⟨e, h0, o0⟩
  · exact List.mem_append_left _ hl
  · exact List.mem_append_right _ (mem_slotsWhere.mpr ⟨e, h0, by simpa using o0⟩)

theorem NoNewEntry.owned_le {s t : State} (h : NoNewEntry s t) (p : Port) : owned t p ≤ owned s p := by
  have := Machine.owned_le (s := s) (t := t) (p := p) [] fun i e' he ho => by
    obtain ⟨e, h0, o0, _⟩ := h.entries i e' he
    exact .inr ⟨e, h0, o0.symm.trans ho⟩
  simpa using this

/-- Without a new entry the schedule stays consistent, where a state that stops or arms now leaves no entry on a gated line. -/
theorem NoNewEntry.consistent {s t : State} (h : NoNewEntry s t) (hs : ScheduleConsistent s)
    (hp : t.permit.state = .stopped ∨ t.permit.state = .arming →
      (s.permit.state = .stopped ∨ s.permit.state = .arming) ∨ ∀ i e, t.entry i = some e → onGatedLine t e = false) :
    ScheduleConsistent t := by
  refine ⟨fun p => h.quotas ▸ (h.owned_le p).trans (hs.quota p), fun i e' k he hk => ?_, fun hst i e' he => ?_⟩
  · obtain ⟨e, h0, o0, l0⟩ := h.entries i e' he
    rw [claimOf_of_claims h.claims, o0]
    exact hs.holder i e k h0 (l0 ▸ hk)
  · rcases hp hst with hp | hp
    · obtain ⟨e, h0, _, l0⟩ := h.entries i e' he
      rw [onGatedLine_congr h.gates l0]
      exact hs.gated hp i e h0
    · exact hp i e' he

theorem NoNewEntry.consistent_same {s t : State} (h : NoNewEntry s t) (hs : ScheduleConsistent s) (hp : t.permit.state = s.permit.state) :
    ScheduleConsistent t := h.consistent hs fun hst => .inl (hp ▸ hst)

theorem ScheduleConsistent.congr {s t : State} (h : ScheduleConsistent s) (hs : t.schedule = s.schedule) (ho : t.outs = s.outs)
    (hc : t.claims = s.claims) (hp : t.permit.state = s.permit.state) : ScheduleConsistent t := (NoNewEntry.of_eq hs ho hc).consistent_same h hp

/-! ### A change of permit state -/

theorem permitToSchedule_stopped (o : PermitState) (s : State) :
    permitToSchedule o .stopped s = cancelWhere .permitStop (onGatedLine s) s := by cases o <;> rfl

/-- On entry to STOPPED every entry on a gated line is cancelled (R99). -/
theorem changePermit_stopped_entry {c : PermitCause} {x : Option Port} {s : State} {i : Fin 64} {e : Entry}
    (h : (changePermit .stopped c x s).entry i = some e) : onGatedLine s e = false := by
  have hk := entryMoves_noNewEntry (moves_offer .part (.permit s.permit.state .stopped c) (enterPermitState .stopped c s))
  unfold changePermit at h
  dsimp only at h
  generalize offer .part (.permit s.permit.state .stopped c) (enterPermitState .stopped c s) = u at h hk
  have hs : (raiseForAll noticePermit x (setPermitPins (permitToLines .stopped (permitToSchedule s.permit.state .stopped u)))).schedule
      = (permitToSchedule s.permit.state .stopped u).schedule := (kept_permitToLines _ _).unchanged .schedule (by decide)
  rw [entry_congr hs, permitToSchedule_stopped] at h
  rw [← (of_entry_cancelWhere h).2]
  exact (onGatedLine_congr (s := s) (t := u) hk.gates rfl).symm

theorem changePermit_schedule {n : PermitState} {c : PermitCause} {x : Option Port} {s : State} (h : ScheduleConsistent s)
    (hn : n = .arming → s.permit.state = .stopped ∨ s.permit.state = .arming) : ScheduleConsistent (changePermit n c x s) := by
  have hk := looseMoves_noNewEntry (loose_changePermit n c x s)
  refine hk.consistent h fun hst => ?_
  rw [changePermit_permit] at hst
  rcases hst with hst | hst
  · obtain rfl : n = .stopped := hst
    exact .inr fun i e he => (onGatedLine_congr hk.gates rfl).trans (changePermit_stopped_entry he)
  · exact .inl (hn hst)

theorem nextPermitState_arming {st : PermitState} {v : Vote} {d : Nat} (h : nextPermitState st v d = .arming) :
    st = .stopped ∨ st = .arming := by
  cases st <;> cases v <;> simp [nextPermitState] at h ⊢

theorem takeAggregate_schedule {c : PermitCause} {x : Option Port} {s : State} (h : ScheduleConsistent s) :
    ScheduleConsistent (takeAggregate c x s) := by
  have forms : ScheduleConsistent (s.setPermit { s.permit with aggregate := formAggregate s.permit }) :=
    h.congr rfl rfl rfl rfl
  unfold takeAggregate
  dsimp only
  split
  · exact h
  · split
    · exact forms
    · exact changePermit_schedule forms nextPermitState_arming

theorem takePartVote_schedule {s : State} (h : ScheduleConsistent s) : ScheduleConsistent (takePartVote s) := by
  unfold takePartVote
  split
  · exact h
  · exact takeAggregate_schedule (h.congr rfl rfl rfl rfl)

theorem armingExpires_schedule {s : State} (h : ScheduleConsistent s) : ScheduleConsistent (armingExpires s) := by
  unfold armingExpires
  split
  · exact changePermit_schedule h fun hn => by cases hn
  · exact h

theorem setElector_schedule {s : State} (h : ScheduleConsistent s) (p : Port) (e : Option Elector) (c : PermitCause) (x : Option Port) :
    ScheduleConsistent (setElector p e c x s) := takeAggregate_schedule (h.congr rfl rfl rfl rfl)

/-! ### Moves -/

theorem entry_placeEntry (i j : Fin 64) (e : Entry) (s : State) : (placeEntry i e s).entry j = if j = i then some e else s.entry j := by
  unfold State.entry placeEntry
  simp only [Vector.getElem_set, Fin.getElem_fin, Fin.ext_iff]
  by_cases h : (j : Nat) = i
  · simp [h]
  · simp [h, Ne.symm h]

/-- An admissible entry, placed, is counted to its owner, stands on a line that its owner holds, and on no gated line in STOPPED or ARMING. -/
theorem placeEntry_schedule {i : Fin 64} {e : Entry} {s : State} (h : ScheduleConsistent s) (ha : Admissible s i e) :
    ScheduleConsistent (placeEntry i e s) := by
  refine ⟨fun p => ?_, fun j e' k he hk => ?_, fun hst j e' he => ?_⟩
  · have hs : ∀ j e', (placeEntry i e s).entry j = some e' → e' = e ∧ j = i ∨ s.entry j = some e' := fun j e' he => by
      rw [entry_placeEntry] at he
      split at he
      · next hj => exact .inl ⟨(Option.some.inj he).symm, hj⟩
      · exact .inr he
    show _ ≤ s.schedule.quotas.get p
    by_cases hp : e.owner = p
    · have : owned (placeEntry i e s) p ≤ 1 + owned s p := owned_le [i] fun j e' he ho => by
        rcases hs j e' he with ⟨_, hj⟩ | h0
        · exact .inl (by simp [hj])
        · exact .inr ⟨e', h0, ho⟩
      have := hp ▸ ha.quota
      omega
    · refine le_trans (owned_le [] fun j e' he ho => ?_) (by simpa using h.quota p)
      rcases hs j e' he with ⟨he', _⟩ | h0
      · exact absurd (he' ▸ ho) hp
      · exact .inr ⟨e', h0, ho⟩
  · rw [entry_placeEntry] at he
    split at he
    · cases he
      have := ha.line k hk
      unfold State.holds at this
      show (s.claimOf (.out k)).holder = some e.owner
      simpa using this
    · exact h.holder j e' k he hk
  · rw [entry_placeEntry] at he
    split at he
    · cases he
      rw [Bool.eq_false_iff]
      intro hg
      obtain ⟨k, hk, hgk⟩ := onGatedLine_iff.mp hg
      obtain ⟨h1, h2⟩ := ha.gate k hk hgk
      exact hst.elim h1 h2
    · exact h.gated hst j e' he

theorem calmMove_schedule {s t : State} (m : CalmMove s t) (h : ScheduleConsistent s) : ScheduleConsistent t := by
  have hst : t.permit.state = s.permit.state := (calmMove_sameSay m).2.2.2.1
  cases m with
  | entry m => exact (entryMove_noNewEntry m).consistent_same h hst
  | reexamine => exact (NoNewEntry.of_kept (kept_reexamine s)).consistent_same h hst
  | claim r c _ _ hk =>
    refine ⟨h.quota, fun i e k he hl => ?_, h.gated⟩
    rw [claimOf_setClaim]
    split
    · next hr =>
      rcases hk k hr.symm with hc | hc
      · rw [hc, ← hr]; exact h.holder i e k he hl
      · exact absurd hl (hc h i e he)
    · exact h.holder i e k he hl
  | settings q n _ hq =>
    refine ⟨fun p => ?_, h.holder, h.gated⟩
    rcases hq p with e | e
    · exact e.symm ▸ h.quota p
    · exact e.2.2
  | place i e _ ha => exact placeEntry_schedule h ha
  | out k o _ hg =>
    refine ⟨h.quota, h.holder, fun hs i e he => ?_⟩
    rw [Bool.eq_false_iff]
    intro hgt
    obtain ⟨j, hj, hgj⟩ := onGatedLine_iff.mp hgt
    rw [out_setOut] at hgj
    have hf := h.gated hs i e he
    split at hgj
    · next hjk =>
      rcases hg hgj with hc | hc
      · rw [onGatedLine_iff.mpr ⟨j, hj, hjk ▸ hc⟩] at hf; cases hf
      · exact hc h i e he (hjk ▸ hj)
    · rw [onGatedLine_iff.mpr ⟨j, hj, hgj⟩] at hf; cases hf
  | count =>
    have counted : NoNewEntry s (countTick s) := by
      refine ⟨fun i e' he => ?_, fun k => by simp [countTick, State.out, OutLine.countDown], rfl, rfl⟩
      have hm : (countTick s).entry i = (s.entry i).map Entry.countDown := by simp [countTick, State.entry]
      obtain ⟨e, h0, rfl⟩ := Option.map_eq_some_iff.mp (hm ▸ he)
      exact ⟨e, h0, rfl, rfl⟩
    exact counted.consistent_same h hst
  | waits p =>
    exact ⟨h.quota, fun i e k he hl => (claimOf_leaveWaitLists p s _ ▸ rfl : _ = (s.claimOf (.out k)).holder).trans (h.holder i e k he hl), h.gated⟩
  | conclude =>
    refine (NoNewEntry.of_outs (conclude_schedule s) (fun k => ?_) (conclude_claims s)).consistent_same h hst
    unfold State.out
    rw [conclude_outs]
    split
    · simp [OutLine.formed]
    · rfl
  | _ => exact h.congr rfl rfl rfl hst

/-- Without an entry the schedule is consistent. -/
theorem schedule_of_none {s : State} (h : ∀ i, s.entry i = none) : ScheduleConsistent s := by
  refine ⟨fun p => ?_, fun i e k he => ?_, fun _ i e he => ?_⟩
  · have : slotsWhere s (fun e => e.owner == p) = [] := List.eq_nil_iff_forall_not_mem.mpr fun i hi => by
      obtain ⟨e, he, _⟩ := mem_slotsWhere.mp hi
      rw [h] at he; cases he
    rw [owned, this]
    exact Nat.zero_le _
  · rw [h] at he; cases he
  · rw [h] at he; cases he

theorem schedule_stable : StepStable ScheduleConsistent :=
  .of_permit (fun _ _ m h => calmMove_schedule m h) (fun _ p e c x h => setElector_schedule h p e c x) (fun _ h => takePartVote_schedule h)
    (fun _ h => armingExpires_schedule h) (fun _ _ h => h.congr rfl rfl rfl rfl)
    (fun _ h => h.congr rfl rfl rfl rfl)
    (fun s _ => schedule_of_none fun i => by simp [State.entry, resetBlocks, resetSchedule])
    (fun s _ => schedule_of_none fun i => by simp [State.entry, State.reset, Schedule.initial])

/-- Settles O58, by the moves of a step. -/
theorem everyStepKeepsSchedule : Obligations.EveryStepKeepsSchedule := fun _ _ h hst => schedule_stable.step h hst

end Sys2Proof.Machine
end

section
/-! SUPPORT. The queue of commands, what is not due, the tables of the permit, and the part right after power-on. -/

set_option Elab.async false

namespace Sys2Proof.Machine

/-! ### The queue of commands -/

/-- Settles O1: both sides are one case of `step`. -/
theorem stepTakesFront : Obligations.StepTakesFront := fun _ _ _ => rfl

/-- Settles O2, row by row: each row of an event asks first whether its event is due. -/
theorem nothingDueNothingHappens : Obligations.NothingDueNothingHappens := by
  intro s
  have row : ∀ {c : Prop} [Decidable c] {r : Result}, ¬ c → (if c then r else .next s) = .next s := fun h => if_neg h
  refine ⟨fun hp hq => ?_, fun e he => ?_, fun levels h => row (by simpa using h), fun levels h => row (by simp [h]), fun h => row (by simp [h]),
    fun h => row (by simp [h]), fun h => row (by simp [h]), fun h => row (by simp [h]), fun h => row (by simp [h]), fun c hc => row hc⟩
  · unfold step
    rw [hp]
    exact congrArg _ (idleStep_of_quiet hq)
  · rw [exec_tickRow, takeTickEvent_not_due he]

theorem pending_of_kept {bs : List Block} {s t : State} (k : Kept bs s t) (h : Block.pending ∉ bs := by decide) : t.pending = s.pending :=
  k.unchanged .pending h

theorem endTransaction_pending {p : Port} {kind : Transaction} {clocked : Nat} {effect : State → State}
    (h : ∀ u, (effect u).pending = u.pending) (s : State) : (endTransaction p kind clocked effect s).pending = s.pending := by
  have hs : (settle s).pending = s.pending := pending_of_kept (kept_settle s)
  unfold endTransaction endWithoutEffect
  dsimp only
  split
  · split
    · exact hs
    · exact hs
  · split
    · rw [conclude_pending, h, hs]
    · exact hs

theorem takeFrame_pending {c : FrameCommand} (h : LawfulCommand c) (p : Port) (tag : Byte) (s : State) :
    (takeFrame p tag c s).pending = s.pending := by
  unfold takeFrame
  dsimp only
  split
  · rfl
  · have hk := pending_of_kept (lawful_commonChecks h p (s.modSession p Session.restarted)).1
    exact hk

theorem onFrame_pending (p : Port) (tag command : Byte) (x : List Byte) (s : State) :
    (onFrame p tag x.length (frameCommand p command x) s).pending = s.pending := by
  unfold onFrame
  exact endTransaction_pending (fun u => takeFrame_pending (lawfulCommand_frame p command x) p tag (endWrite p _ u)) s

theorem onFetch_pending (p : Port) (n : Nat) (s : State) : (onFetch p n s).pending = s.pending :=
  endTransaction_pending (fun u => by unfold fetchOn; dsimp only; split <;> rfl) s

theorem clearPort_pending (p : Port) (s : State) : (clearPort p s).pending = s.pending := by
  unfold clearPort
  dsimp only
  split
  · rw [pending_of_kept (kept_closeSessionOn p .reset _), State.setPort_pending]
  · rfl

theorem onPortClear_pending (p : Port) (s : State) : (onPortClear p s).pending = s.pending :=
  endTransaction_pending (clearPort_pending p) s

theorem onBadFrame_pending (p : Port) (b : Byte) (n : Nat) (s : State) : (onBadFrame p b n s).pending = s.pending := by
  unfold onBadFrame
  exact endTransaction_pending (fun u => show (dropFrame p (endWrite p n u)).pending = u.pending from rfl) s

/-- The row completes, with the queue as it was. -/
def KeepsQueue (s : State) (r : Result) : Prop := ∃ t, r = .next t ∧ t.pending = s.pending

theorem KeepsQueue.next {s t : State} (h : t.pending = s.pending) : KeepsQueue s (.next t) := ⟨t, rfl, h⟩

theorem KeepsQueue.either {s : State} {c : Prop} [Decidable c] {a b : Result} (ha : KeepsQueue s a) (hb : KeepsQueue s b) :
    KeepsQueue s (if c then a else b) := by
  split
  · exact ha
  · exact hb

theorem keepsQueue_commandWrite (p : Port) (bytes : List Byte) (s : State) : KeepsQueue s (execCommandWrite p bytes s) := by
  unfold execCommandWrite
  split
  · exact .next (pending_of_kept (kept_settle s))
  · refine .either (.next (onFetch_pending p _ s)) (.either (.next (onPortClear_pending p s)) ?_)
    split
    · exact .next (onFrame_pending p _ _ _ s)
    · exact .next (onBadFrame_pending p _ _ s)

theorem afterReset_kept (s : State) : Kept offerBlocks s (afterReset s) := by
  have raises : ∀ c u, Kept offerBlocks u (raiseIfActive c u) := fun c u => by
    unfold raiseIfActive
    split
    · exact kept_raiseCondition c u
    · exact .refl _ _
  have flags : ∀ u, Kept [.conditions] u (setActiveFlags u) := fun u =>
    .of_ports (fun b hb => by cases b <;> first | exact absurd (by decide) hb | rfl) rfl
  have flagged : Kept offerBlocks s (setActiveFlags (offer .part (.restart .resetLine) s)) :=
    (kept_offer _ _ s).trans ((flags _).mono (sub_of_all rfl))
  exact (flagged.trans (raises .timeInvalid _)).trans (raises .refLost _)

theorem takeOneRaise_pending (s : State) : (takeOneRaise s).pending = s.pending := by
  unfold takeOneRaise
  rw [conclude_pending, pending_of_kept (kept_takeFirstRaise _), pending_of_kept (kept_drainBelow 2 s)]

theorem foldl_pending {α : Type} {f : State → α → State} (h : ∀ s a, (f s a).pending = s.pending) :
    ∀ (l : List α) (s : State), (l.foldl f s).pending = s.pending
  | [], _ => rfl
  | a :: l, s => (foldl_pending h l (f s a)).trans (h s a)

theorem keepsQueue_oscillatorCycle (s : State) : KeepsQueue s (execOscillatorCycle s) := by
  have settled : (settle s).pending = s.pending := pending_of_kept (kept_settle s)
  refine .next ?_
  rw [conclude_pending]
  split <;> exact settled

theorem keepsQueue_refclkCycle (s : State) : KeepsQueue s (execRefclkCycle s) := by
  have settled : (settle s).pending = s.pending := pending_of_kept (kept_settle s)
  refine .next ?_
  rw [conclude_pending]
  split <;> exact settled

/-- Settles O3, row by row: a command by its frame, an event by its operation. -/
theorem everyRowCompletes : Obligations.EveryRowCompletes := by
  intro i s
  have frame : ∀ {p tag command payload}, frameFields? i = some (p, tag, command, payload) → KeepsQueue s (exec i s) := fun h =>
    ⟨_, exec_eq_onFrame h s, onFrame_pending _ _ _ _ s⟩
  have event : ∀ e, KeepsQueue s (.next (takeTickEvent e s)) := fun e => .next (pending_of_kept (kept_takeTickEvent e s))
  have settled : (settle s).pending = s.pending := pending_of_kept (kept_settle s)
  have after : ∀ {f : State → State} (n : Nat), (∀ u, (f u).pending = u.pending) → KeepsQueue s (.next (conclude (f (drainBelow n s)))) :=
    fun n h => .next (by rw [conclude_pending, h, pending_of_kept (kept_drainBelow n s)])
  have idle : KeepsQueue s (.next s) := .next rfl
  show KeepsQueue s (exec i s)
  cases i
  case commandWrite p bytes => exact keepsQueue_commandWrite p bytes s
  case fetch p n => exact .next (onFetch_pending p n s)
  case portClear p => exact .next (onPortClear_pending p s)
  case powerOn => exact .next rfl
  case rstnFall => exact .either (.next settled) (.next settled)
  case rstnRise =>
    refine .either (.next settled) (.next ?_)
    rw [conclude_pending, pending_of_kept (afterReset_kept _)]
    exact settled
  case refclkCycle => exact keepsQueue_refclkCycle s
  case oscillatorCycle => exact keepsQueue_oscillatorCycle s
  case tick levels =>
    refine .either (.next ?_) idle
    rw [conclude_pending, pending_of_kept (kept_issueTick _)]
    exact (pending_of_kept (kept_drainBelow 6 s) : (drainBelow 6 s).pending = s.pending)
  case holdoverEntered levels =>
    refine .either (.next ?_) idle
    rw [conclude_pending, pending_of_kept (kept_enterHoldover _)]
    exact (pending_of_kept (kept_drainBelow 7 s) : (drainBelow 7 s).pending = s.pending)
  case referenceBreak => exact .either (after 7 fun _ => rfl) idle
  case holdoverLeft => exact .either (after 7 fun u => pending_of_kept (kept_leaveHoldover u)) idle
  case stepApplication => exact .either (after 4 fun u => pending_of_kept (kept_applyStep u)) idle
  case slewDone => exact .either (after 5 fun u => pending_of_kept (kept_endSlew u)) idle
  case strobeEdge p => exact .either (.next settled) (.next (by rw [conclude_pending]; exact settled))
  case partVoteChange => exact .either (after 1 fun u => pending_of_kept (kept_takePartVote u)) idle
  case conditionRaise c => exact .either (.next (foldl_pending (fun u _ => takeOneRaise_pending u) _ s)) idle
  case transactionStart p b =>
    exact .either (.next settled) (.either (.next settled) (.next (by rw [conclude_pending]; exact settled)))
  case strobeCapture p => exact event (.strobeCapture p)
  case lineEnable n => exact event (.lineEnable n)
  case lineDisable n => exact event (.lineDisable n)
  case filterChange n => exact event (.filterChange n)
  case edgeSelectChange n => exact event (.edgeSelectChange n)
  case budgetChange n => exact event (.budgetChange n)
  case edgeQualified n => exact event (.edgeQualified n)
  case chatterWindowEnd n => exact event (.chatterWindowEnd n)
  case entryDue i => exact event (.entryDue i)
  case pulseEnd i => exact event (.pulseEnd i)
  case immediatePulseEnd k => exact event (.immediatePulseEnd k)
  case delayExpired => exact event .delayExpired
  case lapse p => exact event (.lapse p)
  all_goals exact frame rfl

/-! ### The tables of the permit -/

theorem votes_eq_nil {pm : Permit} (h : ∀ p, pm.electors.get p = none) : votes pm = [] := by
  unfold votes
  rw [List.map_eq_nil_iff, List.filterMap_eq_nil_iff]
  exact fun p _ => h p

/-- A vote that is counted is an elector's. -/
theorem of_mem_votes {pm : Permit} {v : Vote} (h : v ∈ votes pm) : ∃ p e, pm.electors.get p = some e ∧ e.vote = v := by
  obtain ⟨e, he, rfl⟩ := List.mem_map.mp h
  obtain ⟨p, _, hp⟩ := List.mem_filterMap.mp he
  exact ⟨p, e, hp, rfl⟩

/-- With an elector, the row of no elector does not apply. -/
theorem formAggregate_of_elector {pm : Permit} {p : Port} {e : Elector} (h : pm.electors.get p = some e) :
    formAggregate pm = if .stop ∈ votes pm ∨ pm.partVote = .stop then .stop else if .hold ∈ votes pm then .hold else .go := by
  have hne : votes pm ≠ [] := List.ne_nil_of_mem (mem_votes h)
  unfold formAggregate
  rw [if_neg hne]
  by_cases h1 : Vote.stop ∈ votes pm <;> by_cases h2 : pm.partVote = .stop <;> simp [h1, h2]

/-- Settles O45: the aggregate by its rows, and the table of R146 and R150. -/
theorem permitTables : Obligations.PermitTables := by
  refine ⟨fun pm => ⟨fun h => ?_, fun p e he hv => ?_, fun hp => ?_, fun p e he hv hs hp => ?_, fun p e he hg hp => ?_⟩, fun delay => ?_⟩
  · unfold formAggregate; rw [if_pos (votes_eq_nil h)]
  · rw [formAggregate_of_elector he, if_pos (.inl (hv ▸ mem_votes he))]
  · unfold formAggregate
    split
    · rfl
    · split
      · rfl
      · rfl
  · have no : Vote.stop ∉ votes pm := fun hm => by
      obtain ⟨q, f, hf, hv⟩ := of_mem_votes hm
      exact hs q f hf hv
    rw [formAggregate_of_elector he, if_neg (by simp [no, hp]), if_pos (hv ▸ mem_votes he)]
  · have no : ∀ v, v ≠ Vote.go → v ∉ votes pm := fun v hv hm => by
      obtain ⟨q, f, hf, hfv⟩ := of_mem_votes hm
      exact hv (hfv ▸ hg q f hf)
    rw [formAggregate_of_elector he, if_neg (by simp [no, hp]), if_neg (no .hold (by decide))]
  · refine ⟨fun v hv => ?_, fun h => if_neg h, fun h => if_pos h, rfl, rfl, rfl, rfl⟩
    cases v with
    | go => exact absurd rfl hv
    | _ => exact ⟨rfl, rfl⟩

/-! ### Power-on -/

/-- Settles O52: the fields of the reset state one by one. -/
theorem powerOnValues : Obligations.PowerOnValues := by
  refine ⟨fun s => ⟨_, rfl, rfl, fun p => ?_⟩, ?_, fun n => ?_, rfl, ?_, fun k => ?_, fun r => ?_, ?_, ?_, fun p => ?_⟩
  · simp only [State.port, PerPort.get_map, resetPort]
    cases p <;> rfl
  · exact ⟨rfl, rfl, rfl, rfl, rfl, rfl, rfl, rfl, rfl, rfl, fun p => by cases p <;> rfl⟩
  · have h : State.reset.line n = EventLine.initial := line_replicate n
    rw [h]
    exact ⟨rfl, rfl, rfl, rfl, rfl, rfl⟩
  · refine ⟨fun i => ?_, rfl, fun p => by cases p <;> rfl, rfl⟩
    simp [State.entry, State.handle, State.reset, Schedule.initial]
  · simp [State.out, State.reset, OutLine.initial]
  · exact claimOf_reset rfl r
  · exact ⟨fun p => by cases p <;> rfl, rfl, rfl, rfl, rfl, rfl, rfl, rfl, rfl⟩
  · exact ⟨rfl, rfl, rfl, rfl, fun c => by cases c <;> rfl⟩
  · cases p <;> exact ⟨rfl, rfl, rfl, rfl, rfl, rfl, rfl⟩

theorem levelsFormed_reset : LevelsFormed State.reset := by
  refine ⟨rfl, fun _ _ => ?_⟩
  have h : State.reset.outs.map (fun o => o.formed State.reset.permit.state) = State.reset.outs := by
    ext i hi
    simp [State.reset, OutLine.formed, OutLine.drive, OutLine.initial]
  simp only [formDrives, h]

/-- Settles O60, invariant by invariant. -/
theorem invariantsAtReset : Obligations.InvariantsAtReset :=
  ⟨levelsFormed_reset, permitSafe_iff.mpr ⟨permitInitial_consistent, lapsedStop_of_initial rfl⟩,
    readers_of_none journalConsistent_reset fun p => by cases p <;> rfl,
    tables_of_reset rfl (by decide) (by decide) (by decide) (fun n => congrArg EventLine.cfg (line_replicate n)) rfl rfl rfl,
    schedule_of_none fun i => by simp [State.entry, State.reset, Schedule.initial], fun h => by cases h⟩

end Sys2Proof.Machine
end

section
/-! SUPPORT. While RSTn is LOW (O59): every operation of a part that holds nothing leaves it holding nothing. -/

set_option Elab.async false

namespace Sys2Proof.Machine

/-- RSTn is LOW and the part holds nothing. -/
structure Dead (s : State) : Prop where
  low   : s.rstn = .low
  empty : InReset s

/-- The same journal, ports, entries, claims, permit, conditions and lines: the fields that a part which holds nothing is judged by. -/
theorem Dead.congr {s t : State} (h : Dead s) (hr : t.rstn = s.rstn) (hj : t.journal = s.journal) (hp : t.ports = s.ports)
    (hs : t.schedule = s.schedule) (hc : t.claims = s.claims) (hm : t.permit = s.permit) (hk : t.conditions = s.conditions)
    (ho : t.outs = s.outs) : Dead t := by
  obtain ⟨low, e⟩ := h
  refine ⟨hr.trans low, ⟨hj ▸ e.journal, ?_, fun i => (entry_congr hs i).trans (e.entries i), fun r => claimOf_of_claims hc r ▸ e.claims r,
    hm.trans e.permit, ?_, fun k => by unfold State.out; rw [ho]; exact e.outs k⟩⟩
  · unfold State.session State.port; rw [hp]; exact e.ports
  · unfold State.condition; rw [hk]; exact e.conditions

theorem Dead.setTime {s : State} (h : Dead s) (x : Timebase) : Dead (s.setTime x) := h.congr rfl rfl rfl rfl rfl rfl rfl rfl

theorem Dead.modLine {s : State} (h : Dead s) (n : Fin 16) (f : EventLine → EventLine) : Dead (modLine n f s) :=
  h.congr rfl rfl rfl rfl rfl rfl rfl rfl

theorem Dead.session {s : State} (h : Dead s) (p : Port) : s.session p = none := (h.empty.ports p).2.2.2.2.1

theorem Dead.entry {s : State} (h : Dead s) (i : Fin 64) : s.entry i = none := h.empty.entries i

/-! ### Operations that do nothing -/

/-- The journal takes no offer while RSTn is LOW (R56). -/
theorem Dead.offer {s : State} (h : Dead s) (o : Origin) (b : Body) : Machine.offer o b s = s := if_pos h.low

theorem Dead.offerAs {s : State} (h : Dead s) (t : Nat) (q : Quality) (o : Origin) (b : Body) : Machine.offerAs t q o b s = s := if_pos h.low

theorem Dead.handRaise {s : State} (h : Dead s) (c : Condition) : Machine.handRaise c s = s := if_pos h.low

theorem modSession_of_none {s : State} {p : Port} (h : s.session p = none) (f : Session → Session) : s.modSession p f = s := by
  have hx : { s.port p with session := (s.session p).map f } = s.port p := by
    rw [h]; unfold State.session at h; rw [Option.map_none, ← h]
  unfold State.modSession State.setSession State.setPort
  rw [hx]
  exact congrArg (fun x => { s with ports := x }) (PerPort.set_get s.ports p)

theorem slotsWhere_of_none {s : State} (h : ∀ i, s.entry i = none) (test : Entry → Bool) : slotsWhere s test = [] :=
  List.eq_nil_iff_forall_not_mem.mpr fun i hi => by
    obtain ⟨e, he, _⟩ := mem_slotsWhere.mp hi
    rw [h] at he; cases he

theorem Dead.handEdge {s : State} (h : Dead s) (n : Fin 16) (e : Edge) (t : Nat) : Machine.handEdge n e t s = s := by
  unfold Machine.handEdge
  rw [slotsWhere_of_none h.entry]
  rfl

theorem Dead.scheduleStep {s : State} (h : Dead s) (t0 t1 : Nat) : Machine.scheduleStep t0 t1 s = s := by
  unfold Machine.scheduleStep
  dsimp only
  have first : (byAdmission s (slotsWhere s fun _ => true)).foldl (shiftEntry ((t1 : Int) - t0)) s = s := by
    rw [slotsWhere_of_none h.entry]; rfl
  rw [first, slotsWhere_of_none h.entry]
  rfl

theorem Dead.takePartVote {s : State} (h : Dead s) : Machine.takePartVote s = s :=
  if_pos (by rw [h.empty.conditions.2.1, h.empty.permit]; rfl)

theorem Dead.takeFirstRaise {s : State} (h : Dead s) : Machine.takeFirstRaise s = s := by
  unfold Machine.takeFirstRaise; rw [h.empty.conditions.1]

theorem Dead.armingExpires {s : State} (h : Dead s) : Machine.armingExpires s = s := by
  unfold Machine.armingExpires; rw [h.empty.permit]; rfl

/-! ### Operations that keep the part empty -/

theorem Dead.endSlew {s : State} (h : Dead s) : Dead (endSlew s) := by
  unfold Machine.endSlew
  split
  · exact h
  · split
    · rw [(h.setTime _).offer]; exact h.setTime _
    · exact h

theorem Dead.abandonSlew {s : State} (h : Dead s) : Dead (abandonSlew s) := by
  unfold Machine.abandonSlew
  split
  · exact h
  · rw [(h.setTime _).offer]; exact h.setTime _

/-- A level that falls clears its active flag, which is not spoken of (R162). -/
theorem Dead.levelFalls {s : State} (h : Dead s) (c : Condition) : Dead (levelFalls c s) := by
  obtain ⟨low, e⟩ := h
  refine ⟨low, ⟨e.journal, e.ports, e.entries, e.claims, e.permit, ?_, e.outs⟩⟩
  obtain ⟨h1, h2, h3⟩ := e.conditions
  refine ⟨(Conditions.set_raises _ _ _).trans h1, (Conditions.set_partVote _ _ _).trans h2, fun k => ?_⟩
  have hk : (Machine.levelFalls c s).condition k = if k = c then { s.condition c with active := false } else s.condition k :=
    Conditions.get_set _ _ _ _
  rw [hk]
  split
  · exact h3 c
  · exact h3 k

theorem Dead.applyStep {s : State} (h : Dead s) : Dead (applyStep s) := by
  unfold Machine.applyStep
  split
  · exact h.setTime _
  · next x _ =>
    dsimp only
    split
    · unfold refuseStep
      rw [(h.setTime _).offer]; exact h.setTime _
    · unfold acceptStep
      dsimp only
      refine Dead.setTime ?_ _
      have ha : ∀ x, Dead (Machine.abandonSlew (s.setTime x)) := fun x => (h.setTime x).abandonSlew
      rw [(ha _).scheduleStep, (ha _).offer]
      split
      · rw [(ha _).offer]; exact (ha _).levelFalls _
      · exact ha _

/-- A tick counts down what runs; nothing does. -/
theorem Dead.countTick {s : State} (h : Dead s) : Dead (countTick s) := by
  obtain ⟨low, e⟩ := h
  have hport : ∀ p, (Machine.countTick s).port p = s.port p := fun p => by
    have hs : (s.port p).session = none := (e.ports p).2.2.2.2.1
    have : (Machine.countTick s).port p = { s.port p with session := (s.port p).session.map Session.countDown } := by
      simp [Machine.countTick, State.port]
    rw [this, hs, Option.map_none, ← hs]
  refine ⟨low, ⟨e.journal, fun p => by unfold State.session; rw [hport]; exact e.ports p, fun i => ?_, e.claims, ?_, e.conditions, fun k => ?_⟩⟩
  · have : (Machine.countTick s).entry i = (s.entry i).map Entry.countDown := by simp [Machine.countTick, State.entry]
    rw [this, e.entries i]; rfl
  · have : (Machine.countTick s).permit = { s.permit with timer := s.permit.timer.map fun n => n - 1 } := rfl
    rw [this, e.permit]; rfl
  · have : (Machine.countTick s).out k = (s.out k).countDown := by simp [Machine.countTick, State.out]
    rw [this, e.outs k]; rfl

theorem Dead.of_kept {bs : List Block} {s t : State} (h : Dead s) (k : Kept bs s t)
    (hb : [Block.rstn, .journal, .ports, .schedule, .claims, .permit, .conditions, .outs].all (fun b => !bs.contains b) = true := by rfl) :
    Dead t := by
  have same : ∀ b ∈ [Block.rstn, .journal, .ports, .schedule, .claims, .permit, .conditions, .outs], b.same s t := fun b hm =>
    k.unchanged b (by simpa using List.all_eq_true.mp hb b hm)
  exact h.congr (same .rstn (by decide)) (same .journal (by decide)) (same .ports (by decide)) (same .schedule (by decide))
    (same .claims (by decide)) (same .permit (by decide)) (same .conditions (by decide)) (same .outs (by decide))

theorem Dead.sampleLines {s : State} (h : Dead s) : Dead (sampleLines s) := h.of_kept (kept_sampleLines s)

theorem Dead.pins {s : State} (h : Dead s) (x : BitVec 16) : Dead { s with evPins := x } := h.congr rfl rfl rfl rfl rfl rfl rfl rfl

theorem Dead.listing {s : State} (h : Dead s) (l : List TickEvent) : Dead { s with tickWork := l } := h.congr rfl rfl rfl rfl rfl rfl rfl rfl

theorem Dead.issueTick {s : State} (h : Dead s) : Dead (issueTick s) := by
  unfold Machine.issueTick
  exact (h.setTime _).countTick.sampleLines.listing _

theorem Dead.conclude {s : State} (h : Dead s) : Dead (conclude s) := by
  obtain ⟨low, e⟩ := h
  have ho : (Machine.conclude s).outs = s.outs := by
    rw [conclude_outs, if_neg (by simp [low])]
  refine ⟨(conclude_rstn s).trans low, ⟨(conclude_journal s).symm ▸ e.journal, fun p => ?_, fun i => ?_, fun r => ?_,
    (conclude_permit s).trans e.permit, ?_, fun k => by unfold State.out; rw [ho]; exact e.outs k⟩⟩
  · obtain ⟨h1, h2, h3, h4, h5, _⟩ := e.ports p
    have h5' : (Machine.conclude s).session p = none := (conclude_session s p).trans h5
    rw [conclude_port]
    exact ⟨h1, h2, h3, h4, h5', by unfold atnLevel; rw [h5']⟩
  · exact (entry_congr (conclude_schedule s) i).trans (e.entries i)
  · exact claimOf_of_claims (conclude_claims s) r ▸ e.claims r
  · unfold State.condition; rw [conclude_conditions]; exact e.conditions

theorem Dead.without {s : State} (h : Dead s) (e : TickEvent) : Dead (s.without e) := h.congr rfl rfl rfl rfl rfl rfl rfl rfl

theorem Dead.reportExcess {s : State} (h : Dead s) (n : Fin 16) : Machine.reportExcess n s = s := by
  unfold Machine.reportExcess
  dsimp only
  split
  · rfl
  · exact h.offer _ _

theorem Dead.admitEdge {s : State} (h : Dead s) (n : Fin 16) (l : Level) : Machine.admitEdge n l s = s := by
  unfold Machine.admitEdge
  dsimp only
  rw [h.offerAs]
  exact h.handEdge _ _ _

theorem Dead.qualifyEdge {s : State} (h : Dead s) (n : Fin 16) : Dead (qualifyEdge n s) := by
  have hl : ∀ l, Dead (s.setEventLine n l) := fun l => h.congr rfl rfl rfl rfl rfl rfl rfl rfl
  unfold Machine.qualifyEdge
  dsimp only
  split
  · split
    · rw [(hl _).admitEdge]; exact hl _
    · split
      · rw [((hl _).modLine _ _).admitEdge]; exact (hl _).modLine _ _
      · exact (hl _).modLine _ _
  · exact hl _

theorem Dead.takeCapture {s : State} (h : Dead s) (p : Port) : Dead (takeCapture p s) := by
  unfold Machine.takeCapture
  dsimp only
  split
  · unfold raiseNotice
    rw [modSession_of_none ((h.setTime _).session p)]
    exact h.setTime _
  · exact h

/-- Every event of a tick leaves an empty part empty. -/
theorem Dead.doTickEvent {s : State} (h : Dead s) (e : TickEvent) : Dead (doTickEvent s e) := by
  cases e with
  | strobeCapture p => exact h.takeCapture p
  | lineEnable n => exact h.modLine n _
  | lineDisable n => show Dead (Machine.modLine n _ (Machine.reportExcess n s)); rw [h.reportExcess]; exact h.modLine n _
  | filterChange n => exact h.modLine n _
  | edgeSelectChange n => exact h.modLine n _
  | budgetChange n => show Dead (Machine.modLine n _ (Machine.reportExcess n s)); rw [h.reportExcess]; exact h.modLine n _
  | edgeQualified n => exact h.qualifyEdge n
  | chatterWindowEnd n => show Dead (endWindow n s); unfold endWindow; rw [h.reportExcess]; exact h.modLine n _
  | entryDue i => show Dead (entryComesDue i s); unfold entryComesDue; rw [h.entry]; exact h
  | pulseEnd i => show Dead (pulseRunsOut i s); unfold pulseRunsOut; rw [h.entry]; exact h
  | immediatePulseEnd k => show Dead (endImmediatePulse k s); unfold endImmediatePulse; rw [h.empty.outs k]; exact h
  | delayExpired => show Dead (Machine.armingExpires s); rw [h.armingExpires]; exact h
  | lapse p => show Dead (deadlineExpires p s); unfold deadlineExpires; rw [h.session]; exact h

theorem Dead.carryOut {s : State} (h : Dead s) (e : DueEvent) : Dead (carryOut e s) := by
  refine Dead.conclude ?_
  cases e with
  | unfinished e => exact (h.without e).doTickEvent e
  | partVote => show Dead (Machine.takePartVote s); rw [h.takePartVote]; exact h
  | raise => show Dead (Machine.takeFirstRaise s); rw [h.takeFirstRaise]; exact h
  | tickEvent e => exact (h.without e).doTickEvent e
  | step => exact h.applyStep
  | slewDone => exact h.endSlew
  | tick => exact h.issueTick

theorem Dead.drain {limit : Nat} : ∀ (fuel : Nat) {s : State}, Dead s → Dead (drain limit fuel s)
  | 0, _, h => h
  | fuel + 1, s, h => by
      unfold Machine.drain
      split
      · exact h
      · split
        · exact Dead.drain fuel (h.carryOut _)
        · exact h

theorem Dead.drainBelow {s : State} (h : Dead s) (limit : Nat) : Dead (drainBelow limit s) := Dead.drain _ h

theorem Dead.credit : ∀ (n : Nat) {s : State}, Dead s → Dead (credit n s)
  | 0, _, h => h
  | n + 1, _, h => Dead.credit n (h.setTime _).endSlew

theorem Dead.enterHoldover {s : State} (h : Dead s) : Dead (enterHoldover s) := by
  unfold Machine.enterHoldover
  have hd := ((h.credit s.time.lossCount).drainBelow 7).setTime
    { (Machine.drainBelow 7 (Machine.credit s.time.lossCount s)).time with refState := .holdover, exitCount := 0, refSeen := false }
  dsimp only
  rw [hd.handRaise, hd.offer]
  exact hd

theorem Dead.leaveHoldover {s : State} (h : Dead s) : Dead (leaveHoldover s) := by
  unfold Machine.leaveHoldover
  rw [(h.setTime _).offer]
  exact (h.setTime _).levelFalls _

theorem Dead.takeReferenceEvent {s : State} (h : Dead s) : Dead (takeReferenceEvent s) := by
  unfold Machine.takeReferenceEvent
  split
  · exact h.enterHoldover.conclude
  · split
    · exact (h.setTime _).conclude
    · split
      · exact h.leaveHoldover.conclude
      · exact h

theorem Dead.settle {s : State} (h : Dead s) : Dead (settle s) := ((h.drainBelow 7).takeReferenceEvent).drainBelow 7

theorem Dead.idleStep {s : State} (h : Dead s) : Dead (idleStep s) := by
  unfold Machine.idleStep
  split
  · exact h.carryOut _
  · exact h.takeReferenceEvent

theorem Dead.takeListed {s : State} (h : Dead s) (e : TickEvent) : Dead (takeListed s e) := by
  have hd : Dead (if (unfinished? s).isSome && e.isSchedules then s else Machine.drainBelow 3 s) := by
    split
    · exact h
    · exact h.drainBelow 3
  unfold Machine.takeListed
  generalize (if (unfinished? s).isSome && e.isSchedules then s else Machine.drainBelow 3 s) = u at hd ⊢
  dsimp only
  split
  · exact ((hd.without e).doTickEvent e).conclude
  · exact hd

theorem Dead.foldl {α : Type} {f : State → α → State} (hf : ∀ s a, Dead s → Dead (f s a)) : ∀ (l : List α) {s : State}, Dead s → Dead (l.foldl f s)
  | [], _, h => h
  | a :: l, s, h => Dead.foldl hf l (hf s a h)

theorem Dead.takeTickEvent {s : State} (h : Dead s) (e : TickEvent) : Dead (takeTickEvent e s) := by
  unfold Machine.takeTickEvent
  split
  · exact (Dead.foldl (fun s a h => h.takeListed a) _ h).takeListed e
  · exact h

/-! ### Rows -/

/-- A link in another transaction state, with its queue, flags, session and ATN line as they were. -/
theorem Dead.setLink {s : State} (h : Dead s) (p : Port) (d : Transaction) (l : List Byte) :
    Dead (s.setPort p { s.port p with discarded := d, shifted := l }) := by
  obtain ⟨low, e⟩ := h
  refine ⟨low, ⟨e.journal, fun q => ?_, e.entries, e.claims, e.permit, e.conditions, e.outs⟩⟩
  unfold State.session
  rw [port_setPort]
  split
  · next hq => subst hq; exact e.ports q
  · exact e.ports q

theorem Dead.endTransaction {s : State} (h : Dead s) (p : Port) (kind : Transaction) (n : Nat) (f : State → State) :
    Dead (endTransaction p kind n f s) := by
  unfold Machine.endTransaction
  dsimp only
  rw [if_pos (.inl h.settle.low)]
  unfold endWithoutEffect
  dsimp only
  split
  · exact h.settle.setLink p _ _
  · exact h.settle

theorem Dead.onFrame {s : State} (h : Dead s) (p : Port) (tag : Byte) (n : Nat) (c : FrameCommand) : Dead (onFrame p tag n c s) := by
  unfold Machine.onFrame; exact h.endTransaction _ _ _ _

theorem Dead.onFetch {s : State} (h : Dead s) (p : Port) (n : Nat) : Dead (onFetch p n s) := by
  unfold Machine.onFetch; exact h.endTransaction _ _ _ _

theorem Dead.onPortClear {s : State} (h : Dead s) (p : Port) : Dead (onPortClear p s) := by
  unfold Machine.onPortClear; exact h.endTransaction _ _ _ _

theorem Dead.onBadFrame {s : State} (h : Dead s) (p : Port) (b : Byte) (n : Nat) : Dead (onBadFrame p b n s) := by
  unfold Machine.onBadFrame; exact h.endTransaction _ _ _ _

/-- What a row makes of an empty part: it is empty, or RSTn is HIGH. -/
def LeavesEmpty (r : Result) : Prop := ∃ t, r = .next t ∧ (t.rstn = .low → Dead t)

theorem LeavesEmpty.next {t : State} (h : Dead t) : LeavesEmpty (.next t) := ⟨t, rfl, fun _ => h⟩

theorem LeavesEmpty.either {c : Prop} [Decidable c] {a b : Result} (ha : c → LeavesEmpty a) (hb : ¬ c → LeavesEmpty b) :
    LeavesEmpty (if c then a else b) := by
  split
  · next hc => exact ha hc
  · next hc => exact hb hc

theorem Dead.commandWrite {s : State} (h : Dead s) (p : Port) (bytes : List Byte) : LeavesEmpty (execCommandWrite p bytes s) := by
  unfold execCommandWrite
  split
  · exact .next h.settle
  · refine .either (fun _ => .next (h.onFetch p _)) (fun _ => .either (fun _ => .next (h.onPortClear p)) fun _ => ?_)
    split
    · exact .next (h.onFrame p _ _ _)
    · exact .next (h.onBadFrame p _ _)

theorem Dead.refclkCycle {s : State} (h : Dead s) : LeavesEmpty (execRefclkCycle s) := by
  refine .next (Dead.conclude ?_)
  split
  · exact (h.settle.setTime _).setTime _
  · exact h.settle.setTime _

theorem Dead.oscillatorCycle {s : State} (h : Dead s) : LeavesEmpty (execOscillatorCycle s) := by
  refine .next (Dead.conclude ?_)
  split
  · exact h.settle.setTime _
  · exact (h.settle.setTime _).setTime _

theorem Dead.rstnRise {s : State} (h : Dead s) : LeavesEmpty (execRstnRise s) := by
  refine .either (fun _ => .next h.settle) fun _ => ⟨_, rfl, fun hr => ?_⟩
  rw [conclude_rstn, (afterReset_kept _).unchanged .rstn (by decide)] at hr
  cases hr

theorem Dead.conditionRaise {s : State} (h : Dead s) (c : Condition) : LeavesEmpty (execConditionRaise c s) := by
  refine .either (fun _ => .next (Dead.foldl (fun u _ hu => ?_) _ h)) fun _ => .next h
  have hd := hu.drainBelow 2
  unfold takeOneRaise
  rw [hd.takeFirstRaise]
  exact hd.conclude

/-- Every row leaves an empty part empty, or RSTn HIGH. -/
theorem Dead.exec {s : State} (h : Dead s) (i : Instr) : LeavesEmpty (Machine.exec i s) := by
  have frame : ∀ {p tag command payload}, frameFields? i = some (p, tag, command, payload) → LeavesEmpty (Machine.exec i s) := fun hf =>
    ⟨_, exec_eq_onFrame hf s, fun _ => h.onFrame _ _ _ _⟩
  have event : ∀ e, LeavesEmpty (.next (Machine.takeTickEvent e s)) := fun e => .next (h.takeTickEvent e)
  cases i
  case commandWrite p bytes => exact h.commandWrite p bytes
  case fetch p n => exact .next (h.onFetch p n)
  case portClear p => exact .next (h.onPortClear p)
  case powerOn => exact ⟨_, rfl, fun hr => by cases hr⟩
  case rstnFall => exact .either (fun _ => .next h.settle) fun hn => absurd h.settle.low hn
  case rstnRise => exact h.rstnRise
  case refclkCycle => exact h.refclkCycle
  case oscillatorCycle => exact h.oscillatorCycle
  case tick levels =>
    exact .either (fun _ => .next ((h.drainBelow 6).pins levels).issueTick.conclude) fun _ => .next h
  case holdoverEntered levels =>
    exact .either (fun _ => .next ((h.drainBelow 7).pins levels).enterHoldover.conclude) fun _ => .next h
  case referenceBreak => exact .either (fun _ => .next ((h.drainBelow 7).setTime _).conclude) fun _ => .next h
  case holdoverLeft => exact .either (fun _ => .next (h.drainBelow 7).leaveHoldover.conclude) fun _ => .next h
  case stepApplication => exact .either (fun _ => .next (h.drainBelow 4).applyStep.conclude) fun _ => .next h
  case slewDone => exact .either (fun _ => .next (h.drainBelow 5).endSlew.conclude) fun _ => .next h
  case strobeEdge p => exact .either (fun _ => .next h.settle) fun _ => .next (h.settle.setTime _).conclude
  case partVoteChange =>
    refine .either (fun _ => .next ?_) fun _ => .next h
    rw [(h.drainBelow 1).takePartVote]
    exact (h.drainBelow 1).conclude
  case conditionRaise c => exact h.conditionRaise c
  case transactionStart p b =>
    exact .either (fun _ => .next h.settle) fun _ => .either (fun _ => .next (h.settle.setLink p _ _)) fun hn => absurd h.settle.low hn
  case strobeCapture p => exact event (.strobeCapture p)
  case lineEnable n => exact event (.lineEnable n)
  case lineDisable n => exact event (.lineDisable n)
  case filterChange n => exact event (.filterChange n)
  case edgeSelectChange n => exact event (.edgeSelectChange n)
  case budgetChange n => exact event (.budgetChange n)
  case edgeQualified n => exact event (.edgeQualified n)
  case chatterWindowEnd n => exact event (.chatterWindowEnd n)
  case entryDue i => exact event (.entryDue i)
  case pulseEnd i => exact event (.pulseEnd i)
  case immediatePulseEnd k => exact event (.immediatePulseEnd k)
  case delayExpired => exact event .delayExpired
  case lapse p => exact event (.lapse p)
  all_goals exact frame rfl

/-! ### With RSTn HIGH -/

theorem rstn_of_kept {bs : List Block} {s t : State} (k : Kept bs s t) (h : Block.rstn ∉ bs := by decide) : t.rstn = s.rstn :=
  k.unchanged .rstn h

theorem calmMove_high {s t : State} (m : CalmMove s t) (h : s.rstn = .high) : t.rstn = .high := by
  cases m with
  | entry m =>
    cases m with
    | offer => exact (rstn_of_kept (kept_offerAs _ _ _ _ s)).trans h
    | raise => exact (rstn_of_kept (kept_handRaise _ s)).trans h
    | _ => exact h
  | reexamine => exact (rstn_of_kept (kept_reexamine s)).trans h
  | conclude => exact (conclude_rstn s).trans h
  | rise => rfl
  | _ => exact h

theorem high_ownMove {s t : State} (m : OwnMove s t) (h : s.rstn = .high) : t.rstn = .high := by
  cases m with
  | calm m => exact calmMove_high m h
  | partVote => exact (rstn_of_kept (kept_takePartVote s)).trans h
  | arming => exact (rstn_of_kept (kept_armingExpires s)).trans h
  | lapse p => exact (rstn_of_kept (kept_forceStop p _)).trans ((rstn_of_kept (kept_offer _ _ _)).trans h)

theorem high_shift {s t : State} (m : Shift s t) (h : s.rstn = .high) : t.rstn = .high := by
  cases m with
  | elector p e c x => exact (rstn_of_kept (kept_setElector p e c x s)).trans h
  | vote => exact (rstn_of_kept (kept_takePartVote _)).trans h

/-- What RSTn LOW leaves (R56, R107, R136, R161, R174, R193). -/
theorem resetBlocks_inReset (s : State) : InReset (resetBlocks s) := by
  refine ⟨⟨rfl, rfl, rfl⟩, fun p => ?_, fun i => by simp [State.entry, resetBlocks, resetSchedule], fun r => ?_, rfl, ⟨rfl, rfl, fun c => ?_⟩,
    fun k => by simp [State.out, resetBlocks, State.reset]⟩
  · simp [State.session, State.port, resetBlocks, resetPort, PortState.initial]
  · exact claimOf_reset (s := resetBlocks s) rfl r ▸ ⟨rfl, rfl⟩
  · cases c <;> exact ⟨rfl, rfl⟩

/-- With RSTn HIGH only its fall leaves it LOW, and that empties the part. -/
theorem inReset_of_row {s t : State} (hr : Row s t) (h : s.rstn = .high) (hl : t.rstn = .low) : InReset t := by
  obtain ⟨u, hu, he⟩ := hr
  have h1 : u.rstn = .high := Moves.keeps (P := fun s => s.rstn = .high) (fun _ _ => high_ownMove) hu h
  cases he with
  | fall => exact resetBlocks_inReset u
  | power => cases hl
  | acted ha =>
    obtain ⟨v, w, m1, m2, m3⟩ := ha
    have h2 : v.rstn = .high := Moves.keeps (P := fun s => s.rstn = .high) (fun _ _ => calmMove_high) m1 h1
    have h3 : w.rstn = .high := by
      rcases m2 with rfl | m2
      · exact h2
      · exact high_shift m2 h2
    have h4 : t.rstn = .high := Moves.keeps (P := fun s => s.rstn = .high) (fun _ _ => calmMove_high) m3 h3
    rw [h4] at hl
    cases hl

/-- Settles O59: with RSTn LOW by the rows of an empty part, with RSTn HIGH by the fall alone. -/
theorem resetHolds : Obligations.ResetHolds := by
  intro s t hs hst hl
  cases hr : s.rstn with
  | high =>
    obtain ⟨l, hrow⟩ := step_row hst
    exact inReset_of_row hrow hr hl
  | low =>
    have hd : ∀ l, Dead { s with pending := l } := fun l => (⟨hr, hs hr⟩ : Dead s).congr rfl rfl rfl rfl rfl rfl rfl rfl
    unfold step at hst
    split at hst
    · next hp =>
      cases hst
      exact (⟨hr, hs hr⟩ : Dead s).idleStep.empty
    · next c rest _ =>
      obtain ⟨u, hu, hdead⟩ := (hd rest).exec c
      cases hu.symm.trans hst
      exact (hdead hl).empty

end Sys2Proof.Machine
end

section
/-! SUPPORT. The levels that every step leaves formed, and what a gated line keeps in HELD (O54). -/

set_option Elab.async false

namespace Sys2Proof.Machine

/-! ### Levels formed by every row -/

theorem LevelsFormed.setLink {s : State} (h : LevelsFormed s) {p : Port} {x : PortState} (hx : x.session = s.session p)
    (ha : x.atn = (s.port p).atn) : LevelsFormed (s.setPort p x) := conclude_link h p x hx ha ▸ conclude_formed _

theorem drainBelow_formed (n : Nat) {s : State} (h : LevelsFormed s) : LevelsFormed (drainBelow n s) := drain_formed _ _ _ h

theorem takeListed_formed {s : State} (h : LevelsFormed s) (e : TickEvent) : LevelsFormed (takeListed s e) := by
  have hu : LevelsFormed (if (unfinished? s).isSome && e.isSchedules then s else drainBelow 3 s) := by
    split
    · exact h
    · exact drainBelow_formed 3 h
  unfold takeListed
  generalize (if (unfinished? s).isSome && e.isSchedules then s else drainBelow 3 s) = u at hu ⊢
  dsimp only
  split
  · exact conclude_formed _
  · exact hu

theorem foldl_formed {α : Type} {f : State → α → State} (hf : ∀ s a, LevelsFormed s → LevelsFormed (f s a)) :
    ∀ (l : List α) {s : State}, LevelsFormed s → LevelsFormed (l.foldl f s)
  | [], _, h => h
  | a :: l, s, h => foldl_formed hf l (hf s a h)

theorem takeTickEvent_formed {s : State} (h : LevelsFormed s) (e : TickEvent) : LevelsFormed (takeTickEvent e s) := by
  unfold takeTickEvent
  split
  · exact takeListed_formed (foldl_formed (fun s a h => takeListed_formed h a) _ h) e
  · exact h

theorem endTransaction_formed {s : State} (h : LevelsFormed s) (p : Port) (kind : Transaction) (n : Nat) (f : State → State) :
    LevelsFormed (endTransaction p kind n f s) := by
  have hs := settle_formed h
  unfold endTransaction
  dsimp only
  split
  · unfold endWithoutEffect
    dsimp only
    split
    · exact hs.setLink rfl rfl
    · exact hs
  · split
    · exact conclude_formed _
    · exact hs

theorem onFrame_formed {s : State} (h : LevelsFormed s) (p : Port) (tag : Byte) (n : Nat) (c : FrameCommand) :
    LevelsFormed (onFrame p tag n c s) := by unfold onFrame; exact endTransaction_formed h _ _ _ _

theorem onFetch_formed {s : State} (h : LevelsFormed s) (p : Port) (n : Nat) : LevelsFormed (onFetch p n s) := by
  unfold onFetch; exact endTransaction_formed h _ _ _ _

theorem onPortClear_formed {s : State} (h : LevelsFormed s) (p : Port) : LevelsFormed (onPortClear p s) := by
  unfold onPortClear; exact endTransaction_formed h _ _ _ _

theorem onBadFrame_formed {s : State} (h : LevelsFormed s) (p : Port) (b : Byte) (n : Nat) : LevelsFormed (onBadFrame p b n s) := by
  unfold onBadFrame; exact endTransaction_formed h _ _ _ _

/-- The row completes with the levels formed. -/
def LeavesFormed (r : Result) : Prop := ∃ t, r = .next t ∧ LevelsFormed t

theorem LeavesFormed.next {t : State} (h : LevelsFormed t) : LeavesFormed (.next t) := ⟨t, rfl, h⟩

theorem LeavesFormed.concluded (t : State) : LeavesFormed (.next (conclude t)) := ⟨_, rfl, conclude_formed t⟩

theorem LeavesFormed.either {c : Prop} [Decidable c] {a b : Result} (ha : LeavesFormed a) (hb : LeavesFormed b) :
    LeavesFormed (if c then a else b) := by
  split
  · exact ha
  · exact hb

theorem commandWrite_formed {s : State} (h : LevelsFormed s) (p : Port) (bytes : List Byte) : LeavesFormed (execCommandWrite p bytes s) := by
  unfold execCommandWrite
  split
  · exact .next (settle_formed h)
  · refine .either (.next (onFetch_formed h p _)) (.either (.next (onPortClear_formed h p)) ?_)
    split
    · exact .next (onFrame_formed h p _ _ _)
    · exact .next (onBadFrame_formed h p _ _)

/-- With no session every ATN line is HIGH. -/
theorem formAtn_of_none {s : State} (h : ∀ p, s.session p = none ∧ (s.port p).atn = .high) : formAtn s = s := by
  have hp : (formAtn s).ports = s.ports := by
    refine PerPort.ext_get fun p => ?_
    obtain ⟨hs, ha⟩ := h p
    have : atnLevel s p = (s.port p).atn := by unfold atnLevel; rw [hs, ha]
    simp only [formAtn, PerPort.get_mapIdx, this]
    rfl
  exact congrArg (fun x => { s with ports := x }) hp

theorem resetBlocks_formed (s : State) : LevelsFormed (resetBlocks s) := by
  refine ⟨formAtn_of_none fun p => ?_, fun h => by cases h⟩
  obtain ⟨_, _, _, _, hs, ha⟩ := (resetBlocks_inReset s).ports p
  exact ⟨hs, ha⟩

theorem powerOn_formed (s : State) :
    LevelsFormed { State.reset with evPins := s.evPins, ports := s.ports.map resetPort, freeUses := s.freeUses, pending := s.pending } := by
  refine ⟨formAtn_of_none fun p => ⟨session_map_resetPort (s := s) rfl p, ?_⟩, fun _ _ => ?_⟩
  · simp [State.port, resetPort, PortState.initial]
  · have h : State.reset.outs.map (fun o => o.formed State.reset.permit.state) = State.reset.outs := congrArg State.outs (levelsFormed_reset.2 rfl rfl)
    simp only [formDrives, h]

/-- Every row leaves the levels formed. -/
theorem exec_formed {s : State} (h : LevelsFormed s) (i : Instr) : LeavesFormed (exec i s) := by
  have frame : ∀ {p tag command payload}, frameFields? i = some (p, tag, command, payload) → LeavesFormed (exec i s) := fun hf =>
    ⟨_, exec_eq_onFrame hf s, onFrame_formed h _ _ _ _⟩
  have event : ∀ e, LeavesFormed (.next (takeTickEvent e s)) := fun e => .next (takeTickEvent_formed h e)
  have settled := settle_formed h
  cases i
  case commandWrite p bytes => exact commandWrite_formed h p bytes
  case fetch p n => exact .next (onFetch_formed h p n)
  case portClear p => exact .next (onPortClear_formed h p)
  case powerOn => exact .next (powerOn_formed s)
  case rstnFall => exact .either (.next settled) (.next (resetBlocks_formed _))
  case rstnRise => exact .either (.next settled) (.concluded _)
  case refclkCycle => exact .concluded _
  case oscillatorCycle => exact .concluded _
  case tick levels => exact .either (.concluded _) (.next h)
  case holdoverEntered levels => exact .either (.concluded _) (.next h)
  case referenceBreak => exact .either (.concluded _) (.next h)
  case holdoverLeft => exact .either (.concluded _) (.next h)
  case stepApplication => exact .either (.concluded _) (.next h)
  case slewDone => exact .either (.concluded _) (.next h)
  case strobeEdge p => exact .either (.next settled) (.concluded _)
  case partVoteChange => exact .either (.concluded _) (.next h)
  case conditionRaise c => exact .either (.next (foldl_formed (fun u _ _ => conclude_formed _) _ h)) (.next h)
  case transactionStart p b => exact .either (.next settled) (.either (.next (settled.setLink rfl rfl)) (.concluded _))
  case strobeCapture p => exact event (.strobeCapture p)
  case lineEnable n => exact event (.lineEnable n)
  case lineDisable n => exact event (.lineDisable n)
  case filterChange n => exact event (.filterChange n)
  case edgeSelectChange n => exact event (.edgeSelectChange n)
  case budgetChange n => exact event (.budgetChange n)
  case edgeQualified n => exact event (.edgeQualified n)
  case chatterWindowEnd n => exact event (.chatterWindowEnd n)
  case entryDue i => exact event (.entryDue i)
  case pulseEnd i => exact event (.pulseEnd i)
  case immediatePulseEnd k => exact event (.immediatePulseEnd k)
  case delayExpired => exact event .delayExpired
  case lapse p => exact event (.lapse p)
  all_goals exact frame rfl

theorem LevelsFormed.queue {s : State} (h : LevelsFormed s) (l : List Instr) : LevelsFormed { s with pending := l } :=
  ⟨congrArg (fun u : State => { u with pending := l }) h.1, fun hr ht => congrArg (fun u : State => { u with pending := l }) (h.2 hr ht)⟩

theorem step_formed {s t : State} (h : LevelsFormed s) (hst : step s = .next t) : LevelsFormed t := by
  unfold step at hst
  split at hst
  · cases hst; exact idleStep_formed h
  · next c rest _ =>
    obtain ⟨u, hu, hf⟩ := exec_formed (h.queue rest) c
    cases hu.symm.trans hst
    exact hf

/-! ### A change of permit state -/

/-- Where the permit stands after the aggregate is formed again (R144 to R146). -/
theorem permitAfter_state (pm : Permit) (t : Nat) (c : PermitCause) :
    (permitAfter pm t c).state
      = if formAggregate pm = pm.aggregate then pm.state else nextPermitState pm.state (formAggregate pm) pm.startDelay := by
  unfold permitAfter
  dsimp only
  split
  · rfl
  · split
    · next h => exact h.symm
    · rfl

/-- A change of aggregate that keeps the permit in its state touches no line (R146). -/
theorem takeAggregate_outs {c : PermitCause} {x : Option Port} {s : State} (h : (takeAggregate c x s).permit.state = s.permit.state) :
    (takeAggregate c x s).outs = s.outs := by
  unfold takeAggregate at h ⊢
  dsimp only at h ⊢
  split
  · rfl
  · next hn =>
    rw [if_neg hn] at h
    split
    · rfl
    · next hs => rw [if_neg hs, changePermit_permit] at h; exact absurd h hs

theorem nextPermitState_stopped_ne_held (v : Vote) (d : Nat) : nextPermitState .stopped v d ≠ .held := by
  cases v with
  | go => by_cases h : d = 0 <;> simp [nextPermitState, h]
  | _ => simp [nextPermitState]

theorem formAggregate_stop_of_elector {pm : Permit} {p : Port} {e : Elector} (h : pm.electors.get p = some e) (hv : e.vote = .stop) :
    formAggregate pm = .stop := (permitTables.1 pm).2.1 p e h hv

theorem formAggregate_stop_of_partVote {pm : Permit} (h : pm.partVote = .stop) : formAggregate pm = .stop := (permitTables.1 pm).2.2.1 h

/-- The aggregate is formed from the electors' votes and from whether the part vote is STOP. -/
theorem formAggregate_partVote {pm : Permit} {v : Vote} (h1 : pm.partVote ≠ .stop) (h2 : v ≠ .stop) :
    formAggregate { pm with partVote := v } = formAggregate pm := by
  have hv : votes { pm with partVote := v } = votes pm := rfl
  unfold formAggregate
  rw [hv]
  simp only [h1, h2, if_false]

/-! ### HELD, and the STOP that the part itself can bring -/

/-- In HELD still, with each gated line of s gated and driven as it was. -/
structure HeldAs (s t : State) : Prop where
  held  : t.permit.state = .held
  unit  : PermitConsistent t.permit
  lines : ∀ k, (s.out k).gated = true → (t.out k).gated = true ∧ (t.out k).driven = (s.out k).driven

/-- Stopped, by a vote of STOP that no event of the part's own takes back: an elector's, or the part vote. -/
structure Blocked (t : State) : Prop where
  stopped : t.permit.state = .stopped
  vote    : (∃ p e, t.permit.electors.get p = some e ∧ e.vote = .stop)
    ∨ (t.permit.partVote = .stop ∧ t.conditions.partVote = .stop)

theorem HeldAs.of_lines {s t u : State} (h : HeldAs s t) (hp : SameSay t.permit u.permit)
    (ho : ∀ k, (t.out k).gated = true → (u.out k).gated = true ∧ (u.out k).driven = (t.out k).driven) : HeldAs s u := by
  refine ⟨hp.2.2.2.1.trans h.held, h.unit.congr hp, fun k hk => ?_⟩
  obtain ⟨g1, d1⟩ := h.lines k hk
  obtain ⟨g2, d2⟩ := ho k g1
  exact ⟨g2, d2.trans d1⟩

theorem HeldAs.of_outs {s t u : State} (h : HeldAs s t) (hp : SameSay t.permit u.permit) (ho : u.outs = t.outs) : HeldAs s u :=
  h.of_lines hp fun k hk => by unfold State.out at hk ⊢; rw [ho]; exact ⟨hk, rfl⟩

theorem calmMove_heldAs {s t u : State} (m : CalmMove t u) (h : HeldAs s t) : HeldAs s u := by
  have hp := calmMove_sameSay m
  cases m with
  | entry m =>
    cases m with
    | offer => exact h.of_outs hp ((kept_offerAs _ _ _ _ t).unchanged .outs (by decide))
    | raise => exact h.of_outs hp ((kept_handRaise _ t).unchanged .outs (by decide))
    | level k l =>
      refine h.of_lines hp fun j hj => ?_
      unfold handLevel
      rw [out_setOut]
      split
      · next hjk => subst hjk; exact ⟨hj, rfl⟩
      · exact ⟨hj, rfl⟩
    | _ => exact h.of_outs hp rfl
  | reexamine => exact h.of_outs hp ((kept_reexamine t).unchanged .outs (by decide))
  | count => exact h.of_lines hp fun k hk => by simpa [countTick, State.out, OutLine.countDown] using hk
  | out k o _ _ hd =>
    refine h.of_lines hp fun j hj => ?_
    rw [out_setOut]
    split
    · next hjk => subst hjk; exact hd h.held hj
    · exact ⟨hj, rfl⟩
  | conclude =>
    refine h.of_lines hp fun k hk => ?_
    unfold State.out
    rw [conclude_outs]
    split
    · rw [h.held]
      have hk' : t.outs[k].gated = true := hk
      simp only [Fin.getElem_fin, Vector.getElem_map] at hk' ⊢
      simp [OutLine.formed, OutLine.drive, hk']
    · exact ⟨hk, rfl⟩
  | _ => exact h.of_outs hp rfl

theorem handRaise_partVote (c : Condition) (s : State) : (handRaise c s).conditions.partVote = s.conditions.partVote := by
  unfold handRaise; split <;> rfl

theorem retireOldest_conditions (s : State) : (retireOldest s).conditions = s.conditions := (kept_retireOldest s).unchanged .conditions (by decide)

/-- The schedule hands raises, and leaves the part vote alone. -/
theorem entryMove_partVote {s t : State} (m : EntryMove s t) : t.conditions.partVote = s.conditions.partVote := by
  cases m with
  | offer t q o b =>
    rcases offerAs_cases t q o b s with ⟨_, e⟩ | ⟨_, _, e⟩ | ⟨_, _, _, e⟩ | ⟨_, _, _, _, e⟩ | ⟨_, _, _, _, e⟩ <;> rw [e]
    · rfl
    · rfl
    · exact handRaise_partVote _ _
    · exact congrArg Conditions.partVote (retireOldest_conditions s)
  | raise => exact handRaise_partVote _ _
  | _ => rfl

theorem looseMoves_partVote {s t : State} (m : LooseMoves s t) : t.conditions.partVote = s.conditions.partVote := by
  refine Moves.keeps (P := fun u => u.conditions.partVote = s.conditions.partVote) (fun u v m h => Eq.trans ?_ h) m rfl
  cases m with
  | entry m => exact entryMove_partVote m
  | _ => rfl

theorem calmMove_partVote {s t : State} (m : CalmMove s t) : t.conditions.partVote = s.conditions.partVote ∨ t.conditions.partVote = .stop := by
  cases m with
  | entry m => exact .inl (entryMove_partVote m)
  | reexamine =>
    left
    unfold reexamine
    split
    · rfl
    · split
      · rfl
      · exact congrArg Conditions.partVote (retireOldest_conditions s)
  | conditions c _ h => exact h
  | conclude => rw [conclude_conditions]; exact .inl rfl
  | _ => exact .inl rfl

theorem calmMove_blocked {s t : State} (m : CalmMove s t) (h : Blocked s) : Blocked t := by
  obtain ⟨e1, e2, _, e4, _⟩ := calmMove_sameSay m
  refine ⟨e4.trans h.stopped, ?_⟩
  rw [e1, e2]
  refine h.vote.imp id fun ⟨h1, h2⟩ => ⟨h1, ?_⟩
  rcases calmMove_partVote m with e | e
  · exact e.trans h2
  · exact e

theorem HeldAs.of_takeAggregate {s t : State} {c : PermitCause} {x : Option Port} {e : PerPort (Option Elector)} {v : Vote} (h : HeldAs s t)
    (hs : (takeAggregate c x (t.setPermit { t.permit with electors := e, partVote := v })).permit.state = .held) :
    HeldAs s (takeAggregate c x (t.setPermit { t.permit with electors := e, partVote := v })) := by
  have ho := takeAggregate_outs (s := t.setPermit { t.permit with electors := e, partVote := v }) (hs.trans h.held.symm)
  refine ⟨hs, ?_, fun k hk => ?_⟩
  · rw [takeAggregate_permit]; exact h.unit.permitAfter e v _ c
  · unfold State.out; rw [ho]; exact h.lines k hk

/-- With an aggregate of STOP over new votes the permit leaves HELD for STOPPED (R146, R150). -/
theorem HeldAs.stops {s t : State} {e : PerPort (Option Elector)} {v : Vote} (h : HeldAs s t) (time : Nat) (c : PermitCause)
    (hf : formAggregate { t.permit with electors := e, partVote := v } = .stop) :
    (permitAfter { t.permit with electors := e, partVote := v } time c).state = .stopped := by
  rw [permitAfter_state, hf]
  have hagg := h.unit.held h.held
  have hst := h.held
  dsimp only
  rw [hagg, hst]
  rfl

/-- A stopped permit whose new votes form STOP stays stopped. -/
theorem permitAfter_stays_stopped {pm : Permit} {e : PerPort (Option Elector)} {v : Vote} (h : pm.state = .stopped)
    (hf : formAggregate { pm with electors := e, partVote := v } = .stop) (time : Nat) (c : PermitCause) :
    (permitAfter { pm with electors := e, partVote := v } time c).state = .stopped := by
  rw [permitAfter_state, hf]
  dsimp only
  rw [h]
  split <;> rfl

/-- A stopped permit reaches HELD by no change of votes (R146). -/
theorem permitAfter_of_stopped {pm : Permit} {e : PerPort (Option Elector)} {v : Vote} (h : pm.state = .stopped) (time : Nat)
    (c : PermitCause) : (permitAfter { pm with electors := e, partVote := v } time c).state ≠ .held := by
  have hst := permitAfter_state { pm with electors := e, partVote := v } time c
  rw [hst]
  generalize formAggregate { pm with electors := e, partVote := v } = a
  dsimp only
  rw [h]
  split
  · decide
  · exact nextPermitState_stopped_ne_held _ _

theorem permitAfter_partVote (pm : Permit) (t : Nat) (c : PermitCause) : (permitAfter pm t c).partVote = pm.partVote := by
  unfold permitAfter
  dsimp only
  repeat' split
  all_goals rfl

/-- A changed part vote in HELD is STOP and stops the permit, or the aggregate is as it was (R143, R144). -/
theorem HeldAs.takePartVote {s t : State} (h : HeldAs s t) : HeldAs s (takePartVote t) ∨ Blocked (takePartVote t) := by
  by_cases he : t.conditions.partVote = t.permit.partVote
  · have hsame : Machine.takePartVote t = t := if_pos he
    rw [hsame]
    exact .inl h
  · have hpm := takePartVote_permit t
    have hcond := looseMoves_partVote (loose_takePartVote t)
    rw [if_neg he] at hpm
    by_cases hv : t.conditions.partVote = .stop
    · refine .inr ⟨hpm ▸ h.stops _ _ (formAggregate_stop_of_partVote hv), .inr ⟨?_, hcond.trans hv⟩⟩
      rw [hpm, permitAfter_partVote]
      exact hv
    · have hform := h.unit.aggregate
      have hne : t.permit.partVote ≠ .stop := fun hs => by
        rw [h.unit.held h.held, formAggregate_stop_of_partVote hs] at hform
        cases hform
      have hstate : (Machine.takePartVote t).permit.state = .held := by
        rw [hpm, permitAfter_state, formAggregate_partVote hne hv, if_pos hform.symm]
        exact h.held
      have heq : Machine.takePartVote t = takeAggregate .partVote none (t.setPermit { t.permit with partVote := t.conditions.partVote }) := if_neg he
      rw [heq] at hstate ⊢
      exact .inl (h.of_takeAggregate (e := t.permit.electors) hstate)

theorem Blocked.takePartVote {t : State} (h : Blocked t) : Blocked (takePartVote t) := by
  have hpm := takePartVote_permit t
  have hcond := looseMoves_partVote (loose_takePartVote t)
  by_cases he : t.conditions.partVote = t.permit.partVote
  · have hsame : Machine.takePartVote t = t := if_pos he
    rw [hsame]
    exact h
  · rw [if_neg he] at hpm
    rcases h.vote with ⟨p, e, hp, hv⟩ | ⟨h1, h2⟩
    · have hform := formAggregate_stop_of_elector (pm := { t.permit with partVote := t.conditions.partVote }) hp hv
      refine ⟨hpm ▸ permitAfter_stays_stopped h.stopped hform _ _, .inl ⟨p, e, ?_, hv⟩⟩
      rw [hpm, permitAfter_electors]
      exact hp
    · exact absurd (h2.trans h1.symm) he

theorem armingExpires_of_not_arming {s : State} (h : s.permit.state ≠ .arming) : armingExpires s = s := by
  unfold armingExpires
  split
  · next hs _ => exact absurd hs h
  · rfl

/-- A forced STOP in HELD stops the permit (R141). -/
theorem HeldAs.forceStop {s t : State} (h : HeldAs s t) (p : Port) : HeldAs s (forceStop p t) ∨ Blocked (forceStop p t) := by
  unfold Machine.forceStop
  split
  · exact .inl h
  · right
    have hpm := setElector_permit p (some { vote := .stop, forced := true }) (.vote p .stop) none t
    have hp : ({ t.permit with electors := t.permit.electors.set p (some { vote := .stop, forced := true }) } : Permit).electors.get p
        = some { vote := .stop, forced := true } := PerPort.get_set_same _ _ _
    refine ⟨hpm ▸ h.stops (v := t.permit.partVote) _ _ (formAggregate_stop_of_elector hp rfl), .inl ⟨p, { vote := .stop, forced := true }, ?_, rfl⟩⟩
    rw [hpm, permitAfter_electors]
    exact hp

theorem Blocked.forceStop {t : State} (h : Blocked t) (p : Port) : Blocked (forceStop p t) := by
  unfold Machine.forceStop
  split
  · exact h
  · have hpm := setElector_permit p (some { vote := .stop, forced := true }) (.vote p .stop) none t
    have hp : ({ t.permit with electors := t.permit.electors.set p (some { vote := .stop, forced := true }) } : Permit).electors.get p
        = some { vote := .stop, forced := true } := PerPort.get_set_same _ _ _
    have hform := formAggregate_stop_of_elector hp rfl
    refine ⟨hpm ▸ permitAfter_stays_stopped h.stopped hform _ _, .inl ⟨p, { vote := .stop, forced := true }, ?_, rfl⟩⟩
    rw [hpm, permitAfter_electors]
    exact hp

/-- What a lapse does before the forced STOP: the session, and the offer of its record. -/
theorem lapse_calm (p : Port) (t : State) : SameSay t.permit (offer (.master p) .lapsed (t.modSession p Session.lapsed)).permit
    ∧ (offer (.master p) .lapsed (t.modSession p Session.lapsed)).outs = t.outs
    ∧ (offer (.master p) .lapsed (t.modSession p Session.lapsed)).conditions.partVote = t.conditions.partVote := by
  have hk := kept_offer (.master p) .lapsed (t.modSession p Session.lapsed)
  exact ⟨.of_eq (hk.unchanged .permit (by decide)), hk.unchanged .outs (by decide),
    (entryMove_partVote (.offer _ _ _ _ (t.modSession p Session.lapsed))).trans (by rfl)⟩

theorem ownMove_held {s t u : State} (m : OwnMove t u) (h : HeldAs s t ∨ Blocked t) : HeldAs s u ∨ Blocked u := by
  cases m with
  | calm m => exact h.imp (calmMove_heldAs m) (calmMove_blocked m)
  | partVote =>
    rcases h with h | h
    · exact h.takePartVote
    · exact .inr h.takePartVote
  | arming =>
    rcases h with h | h
    · rw [armingExpires_of_not_arming (by rw [h.held]; decide)]; exact .inl h
    · rw [armingExpires_of_not_arming (by rw [h.stopped]; decide)]; exact .inr h
  | lapse p =>
    obtain ⟨hp, ho, hc⟩ := lapse_calm p t
    rcases h with h | h
    · exact (h.of_outs hp ho).forceStop p
    · refine .inr (Blocked.forceStop ⟨hp.2.2.2.1.trans h.stopped, ?_⟩ p)
      rw [hp.1, hp.2.1, hc]
      exact h.vote

theorem calmMoves_state {s t : State} (m : CalmMoves s t) : t.permit.state = s.permit.state :=
  Moves.keeps (P := fun u => u.permit.state = s.permit.state) (fun _ _ m h => (calmMove_sameSay m).2.2.2.1.trans h) m rfl

/-- One change of electorate or part vote from HELD leaves each gated line as it was, or leaves HELD; from STOPPED it does not reach HELD. -/
theorem shift_held {s t u : State} (m : Shift t u) (h : HeldAs s t ∨ Blocked t) (hu : u.permit.state = .held) : HeldAs s u := by
  cases m with
  | elector p e c x =>
    rcases h with h | h
    · exact h.of_takeAggregate (v := t.permit.partVote) hu
    · rw [setElector_permit] at hu
      exact absurd hu (permitAfter_of_stopped h.stopped _ _)
  | vote =>
    rcases h with h | h
    · have hf : HeldAs s (formPartVoteAgain t) := h.of_outs (.of_eq rfl) rfl
      rcases hf.takePartVote with k | k
      · exact k
      · rw [k.stopped] at hu; cases hu
    · rw [takePartVote_permit] at hu
      have hst : (formPartVoteAgain t).permit.state = .stopped := h.stopped
      split at hu
      · rw [hst] at hu; cases hu
      · exact absurd hu (permitAfter_of_stopped hst _ _)

/-- From HELD to HELD every gated line stays gated and drives what it drove (R109). -/
theorem step_held {s t : State} (hs : PermitSafe s) (hst : step s = .next t) (h : s.permit.state = .held) (ht : t.permit.state = .held) :
    HeldAs s t := by
  obtain ⟨l, u, hu, he⟩ := step_row hst
  have h0 : HeldAs s { s with pending := l } := ⟨h, hs.unit, fun _ hk => ⟨hk, rfl⟩⟩
  have h1 : HeldAs s u ∨ Blocked u := Moves.keeps (P := fun u => HeldAs s u ∨ Blocked u) (fun _ _ => ownMove_held) hu (.inl h0)
  have calms : ∀ {v w : State}, CalmMoves v w → (HeldAs s v ∨ Blocked v) → (HeldAs s w ∨ Blocked w) := fun m h =>
    Moves.keeps (P := fun u => HeldAs s u ∨ Blocked u) (fun _ _ m h => ownMove_held (.calm m) h) m h
  have last : ∀ {v : State}, CalmMoves v t → HeldAs s v → HeldAs s t := fun m h => Moves.keeps (P := HeldAs s) (fun _ _ => calmMove_heldAs) m h
  cases he with
  | fall => cases ht
  | power => cases ht
  | acted ha =>
    obtain ⟨v, w, m1, m2, m3⟩ := ha
    have hv := calms m1 h1
    have hw : w.permit.state = .held := (calmMoves_state m3).symm.trans ht
    refine last m3 ?_
    rcases m2 with rfl | m2
    · rcases hv with hv | hv
      · exact hv
      · rw [hv.stopped] at hw; cases hw
    · exact shift_held m2 hv hw

/-! ### What formed levels mean -/

/-- In formed levels each line drives what the drive rule says, once a tick's pulse ends and firings are complete (R109). -/
theorem LevelsFormed.driven {s : State} (h : LevelsFormed s) (hr : s.rstn = .high)
    (ht : s.tickStage = .apart ∨ ∀ e ∈ s.tickWork, e.movesLevel = false) (k : Fin 8) : (s.out k).driven = (s.out k).drive s.permit.state := by
  have hopen : tickOpen s = false := by
    rcases ht with ht | ht
    · exact tickOpen_of_apart ht
    · have : s.tickWork.any TickEvent.movesLevel = false := List.any_eq_false.mpr fun e he => by simp [ht e he]
      simp [tickOpen, this]
  have ho : (formDrives s).out k = (s.out k).formed s.permit.state := by simp [formDrives, State.out]
  rw [h.2 hr hopen] at ho
  exact (congrArg OutLine.driven ho).trans rfl

/-- An ATN line is LOW exactly where a member of a session's pending set is in its mask (R172). -/
theorem LevelsFormed.atn {s : State} (h : LevelsFormed s) (p : Port) :
    (s.port p).atn = .low ↔ ∃ x, s.session p = some x ∧ pendingSet s x &&& x.mask ≠ 0#8 := by
  have ha : (formAtn s).port p = { s.port p with atn := atnLevel s p } := PerPort.get_mapIdx _ _ _
  rw [h.1] at ha
  rw [congrArg PortState.atn ha]
  dsimp only
  unfold atnLevel
  split
  · next hn => simp [hn]
  · next x hx =>
    rw [hx]
    by_cases hz : pendingSet s x &&& x.mask = 0#8
    · simp [hz]
    · simp [hz]

/-- Settles O54: the levels by rows, HELD by moves, and what formed levels mean. -/
theorem drivesAndAttention : Obligations.DrivesAndAttention := by
  refine ⟨fun s t h hst => step_formed h hst, fun s t hs hst k h ht hk => (step_held hs hst h ht).lines k hk,
    fun s h => ⟨fun hr ht k => ?_, fun k hg hh => ?_, h.atn⟩⟩
  · have hd := h.driven hr ht k
    refine ⟨fun hg => by rw [hd]; simp [OutLine.drive, hg], fun hg => ⟨fun hst => ?_, fun hst => ?_⟩⟩
    · rw [hd]
      rcases hst with e | e <;> simp [OutLine.drive, hg, e]
    · rw [hd]; simp [OutLine.drive, hg, hst]
  · have ho : (formDrives s).out k = (s.out k).formed s.permit.state := by simp [formDrives, State.out]
    have hd : (s.out k).drive .held = (s.out k).driven := by simp [OutLine.drive, hg]
    rw [ho, hh]
    unfold OutLine.formed
    rw [hd]

end Sys2Proof.Machine
end

section
/-! SUPPORT. The link: what becomes of a transaction by its bytes, of a sound frame by its command, and the common checks (O5 to O8, O10). -/

set_option Elab.async false

namespace Sys2Proof.Machine

/-! ### Transactions that end -/

theorem canEnd_iff {s : State} {p : Port} {kind : Transaction} : canEnd kind (s.port p) = true ↔ CanEnd s p kind := by
  simp [canEnd, CanEnd]

theorem rstn_ne_low {s : State} (h : s.rstn = .high) : s.rstn ≠ .low := by rw [h]; decide

/-- An effect on the port's link alone leaves the levels as they were. -/
theorem endTransaction_link {s : State} {p : Port} {kind : Transaction} {clocked : Nat} {effect : State → State} {x : PortState}
    (hq : quiet s = true) (hr : s.rstn = .high) (hc : CanEnd s p kind) (hl : LevelsFormed s) (he : effect s = s.setPort p x)
    (hx : x.session = s.session p) (ha : x.atn = (s.port p).atn) : endTransaction p kind clocked effect s = s.setPort p x := by
  rw [endTransaction_effect hq (rstn_ne_low hr) (canEnd_iff.mpr hc), he]
  exact conclude_link hl p x hx ha

/-- Bytes that no frame is, written with anything but the fetch byte first. -/
theorem exec_commandWrite_bad {p : Port} {first : Byte} {later : List Byte} {s : State} (h1 : first ≠ fetchByte)
    (h2 : first :: later ≠ clearFrame) (h3 : readFrame? (first :: later) = none) :
    exec (.commandWrite p (first :: later)) s = .next (onBadFrame p first (later.length + 1) s) := by
  change execCommandWrite p (first :: later) s = _
  unfold execCommandWrite
  simp only [if_neg h1, if_neg h2, h3, List.length_cons]

theorem kindOpened_of_ne_fetch {first : Byte} (h : first ≠ fetchByte) :
    kindOpened first = if first = 0xC3#8 then .portClear else .commandWrite := if_neg h

/-- Settles O5: a bad frame by its judgement, a sound one by the full queue. -/
theorem framesDropped : Obligations.FramesDropped := by
  intro s p hq hr hl
  refine ⟨fun first later h1 h2 hc hf => ?_, fun tag command payload hc hp hfull => ?_⟩
  · have h3 : readFrame? (first :: later) = none := by
      cases h : readFrame? (first :: later) with
      | none => rfl
      | some f =>
        obtain ⟨heq, hlen⟩ := commandFrame_of_readFrame h
        exact absurd heq (hf _ _ _ hlen)
    rw [exec_commandWrite_bad h1 h2 h3]
    have hk := kindOpened_of_ne_fetch h1
    refine congrArg Host.Outcome.next (endTransaction_link hq hr (hk ▸ hc) hl ?_ rfl rfl)
    simp only [dropFrame, endWrite, setPort_setPort, port_setPort_same]
    rfl
  · rw [exec_commandWrite_frame p tag command payload s hp, onFrame]
    refine congrArg Host.Outcome.next (endTransaction_link hq hr hc hl ?_ rfl rfl)
    unfold takeFrame
    have hlim : Config.outstandingLimit ≤ ((endWrite p (payload.length + Config.frameOverhead) s).port p).queue.length := by
      simp only [endWrite, port_setPort_same]; exact hfull
    rw [if_pos hlim]
    simp only [endWrite, setPort_setPort, port_setPort_same]
    rfl

/-! ### One response -/

/-- A command's act leaves the queue alone, and the answer is its newest response. -/
theorem onFrame_queue {s : State} {p : Port} {n : Nat} {tag : Byte} {c : FrameCommand} (h : Ready s p) (hc : LawfulCommand c) :
    ((onFrame p tag n c s).port p).queue
      = (s.port p).queue
          ++ [{ tag := tag, status := (commonChecks p c (taken s p n)).2.status, payload := (commonChecks p c (taken s p n)).2.payload }] := by
  obtain ⟨_, _, hqueue, _⟩ := (lawful_commonChecks hc p (taken s p n)).1.links p
  rw [onFrame_ready h, conclude_port]
  dsimp only
  rw [respond_port, if_pos rfl]
  dsimp only
  rw [hqueue, port_taken, if_pos rfl]

/-- Settles O6, by the law of every act: a refusal changes nothing. -/
theorem oneResponseAndRefusalsChangeNothing : Obligations.OneResponseAndRefusalsChangeNothing := by
  intro s p tag command payload h hl hp
  have hc := lawfulCommand_frame p command payload
  refine ⟨_, _, _, exec_commandWrite_frame p tag command payload s hp, onFrame_queue h hc, fun hr => ?_⟩
  rcases (lawful_commonChecks hc p (taken s p payload.length)).2 with hn | ⟨hs, hout⟩
  · rw [hn] at hr; cases hr
  · refine ⟨hout, ?_⟩
    rw [onFrame_ready h, hs, conclude_respond_taken hl, hout]

/-! ### The common checks -/

/-- A code in the table is a code of the table. -/
theorem frameCommand_unknown {command : Byte} (h : command ∉ commandLengths.map Prod.fst) (p : Port) (x : List Byte) :
    frameCommand p command x = .unknown := by
  have hne : ∀ b ∈ commandLengths.map Prod.fst, command.toNat ≠ b.toNat := fun b hb he => h (BitVec.eq_of_toNat_eq he ▸ hb)
  simp only [commandLengths, List.map_cons, List.map_nil, List.forall_mem_cons, BitVec.reduceToNat] at hne
  unfold frameCommand
  split
  all_goals first
    | rfl
    | (exfalso; omega)

theorem ofLength_badLength {n : Nat} {x : List Byte} (h : x.length < n ∨ n < x.length) (f : TakenFrom) (act : Act) :
    ofLength n x f act = .badLength := if_neg (by omega)

theorem postNoteCommand_badLength {x : List Byte} (h : x.length < 1 ∨ 16 < x.length) (p : Port) : postNoteCommand p x = .badLength :=
  if_neg (by unfold noteFits; simp; omega)

theorem enrollCommand_badLength {x : List Byte} (h : 1 < x.length) (p : Port) : enrollCommand p x = .badLength := by
  match x, h with
  | _ :: _ :: _, _ => rfl

theorem frameCommand_badLength (p : Port) (x : List Byte) :
    ∀ row ∈ commandLengths, x.length < row.2.1 ∨ row.2.2 < x.length → frameCommand p row.1 x = .badLength := by
  simp only [commandLengths, List.forall_mem_cons]
  refine ⟨?_, ?_, ?_, ?_, ?_, ?_, ?_, ?_, ?_, ?_, ?_, ?_, ?_, fun h => postNoteCommand_badLength h p, ?_, ?_, ?_, ?_, ?_, ?_, ?_, ?_, ?_, ?_, ?_, ?_,
    ?_, ?_, ?_, ?_, ?_, ?_, ?_, fun h => enrollCommand_badLength (by omega) p, ?_, ?_, ?_, ?_, ?_, by simp⟩
  all_goals exact fun h => ofLength_badLength h _ _

/-- From which sessions a command is taken, by its code (R181). -/
def CodeTakenFrom (command : Byte) (f : TakenFrom) : Prop :=
  (command ∉ [0x01#8, 0x02#8] → f.noSession = false)
    ∧ (command ∉ [0x05#8, 0x04#8, 0x06#8, 0x10#8, 0x22#8, 0x23#8, 0x03#8] → f.lapsed = false)

theorem codeTakenFrom_live (command : Byte) : CodeTakenFrom command .liveSession := ⟨fun _ => rfl, fun _ => rfl⟩

theorem codeTakenFrom_anySession {command : Byte} (h : command ∈ [0x05#8, 0x04#8, 0x06#8, 0x10#8, 0x22#8, 0x23#8, 0x03#8]) :
    CodeTakenFrom command .anySession := ⟨fun _ => rfl, fun hn => absurd h hn⟩

theorem codeTakenFrom_anyPort {command : Byte} (h : command ∈ [0x01#8, 0x02#8]) : CodeTakenFrom command .anyPort :=
  ⟨fun hn => absurd h hn, fun _ => rfl⟩

/-- The frame of a well-formed row holds a command, taken from the sessions its code says. -/
theorem frameCommand_known {i : Instr} (hw : i.wellFormed = true) {p : Port} {tag command : Byte} {payload : List Byte}
    (h : frameFields? i = some (p, tag, command, payload)) :
    ∃ f act, frameCommand p command payload = .known f act ∧ CodeTakenFrom command f := by
  have live : ∀ {c : Byte} {x : List Byte} {act : Act}, frameCommand p c x = .known .liveSession act →
      ∃ f act, frameCommand p c x = .known f act ∧ CodeTakenFrom c f := fun e => ⟨_, _, e, codeTakenFrom_live _⟩
  cases i
  case identify => cases h; exact ⟨_, _, rfl, codeTakenFrom_anyPort (by decide)⟩
  case openSession => cases h; exact ⟨_, _, frameCommand_open _ _ _ _ _ _ _, codeTakenFrom_anyPort (by decide)⟩
  case closeSession => cases h; exact ⟨_, _, rfl, codeTakenFrom_anySession (by decide)⟩
  case keepalive => cases h; exact ⟨_, _, rfl, codeTakenFrom_anySession (by decide)⟩
  case renew => cases h; exact ⟨_, _, rfl, codeTakenFrom_anySession (by decide)⟩
  case status => cases h; exact ⟨_, _, rfl, codeTakenFrom_anySession (by decide)⟩
  case getTime => cases h; exact ⟨_, _, rfl, codeTakenFrom_anySession (by decide)⟩
  case readJournal => cases h; exact ⟨_, _, rfl, codeTakenFrom_anySession (by decide)⟩
  case ackJournal => cases h; exact ⟨_, _, frameCommand_ackJournal _ _, codeTakenFrom_anySession (by decide)⟩
  case stepTime => cases h; exact live (frameCommand_stepTime _ _ _)
  case slewTime => cases h; exact live (frameCommand_slewTime _ _ _)
  case setTrim => cases h; exact live (frameCommand_setTrim _ _)
  case seekJournal => cases h; exact live (frameCommand_seekJournal _ _ _)
  case setFilter => cases h; exact live (frameCommand_setFilter _ _ _ _)
  case addEntry => cases h; exact live (frameCommand_addEntry _ _)
  case setLine => cases h; exact live (frameCommand_setLine _ _ _ _ _)
  case readConfig => cases h; exact live (frameCommand_readConfig _ _)
  case postNote p t note =>
    cases h
    have hn : 1 ≤ payload.length ∧ payload.length ≤ 16 := by simpa [Instr.wellFormed] using hw
    have hfits : noteFits payload = true := by simpa [noteFits] using hn
    exact live (if_pos hfits)
  case enroll p t v => cases h; cases v <;> exact live rfl
  case configureRefHz => cases h; exact live (frameCommand_configure _ _ _ _)
  case configureEnabled => cases h; exact live (frameCommand_configure _ _ _ _)
  case configureEdgeSelect => cases h; exact live (frameCommand_configure _ _ _ _)
  case configureFilterLength => cases h; exact live (frameCommand_configure _ _ _ _)
  case configureChatterBudget => cases h; exact live (frameCommand_configure _ _ _ _)
  case configureQuota => cases h; exact live (frameCommand_configure _ _ _ _)
  case configureLateTolerance => cases h; exact live (frameCommand_configure _ _ _ _)
  case configureRestLevel => cases h; exact live (frameCommand_configure _ _ _ _)
  case configureSafeLevel => cases h; exact live (frameCommand_configure _ _ _ _)
  case configureGatedFlag => cases h; exact live (frameCommand_configure _ _ _ _)
  case configureStartDelay => cases h; exact live (frameCommand_configure _ _ _ _)
  case configureConditionAction => cases h; exact live (frameCommand_configure _ _ _ _)
  all_goals cases h
  all_goals exact live rfl

/-- A command row on a ready port that the checks answer so, with nothing changed. -/
theorem answers_of_checks {s : State} {i : Instr} {p : Port} {tag command : Byte} {payload : List Byte} {r : Reply}
    (h : frameFields? i = some (p, tag, command, payload)) (hr : Ready s p) (hl : LevelsFormed s)
    (hc : commonChecks p (frameCommand p command payload) (taken s p payload.length) = (taken s p payload.length, r)) :
    Answers s i r.status r.payload := by
  unfold Answers
  rw [exec_eq_onFrame h, onFrame_ready hr, hc, conclude_respond_taken hl, answeredOnly_eq h]

/-- Settles O7: the table of codes and lengths, then the sessions that each code is taken from. -/
theorem sessionChecks : Obligations.SessionChecks := by
  refine ⟨fun p tag command payload s hr hl hp => ⟨fun hu => ?_, fun row hrow hc hlen => ?_⟩, fun s i hl hw p tag command payload hf hr =>
    ⟨fun hs hc => ?_, fun x hx hlap hc => ?_⟩⟩
  · rw [exec_commandWrite_frame p tag command payload s hp, frameCommand_unknown hu, onFrame_ready hr]
    exact congrArg Host.Outcome.next (conclude_respond_taken hl tag (refuse .unknown))
  · rw [exec_commandWrite_frame p tag command payload s hp, hc, frameCommand_badLength p payload row hrow hlen, onFrame_ready hr]
    exact congrArg Host.Outcome.next (conclude_respond_taken hl tag (refuse .badLength))
  · obtain ⟨f, act, hk, hfrom⟩ := frameCommand_known hw hf
    refine answers_of_checks (r := refuse .noSession) hf hr hl ?_
    have ht : (taken s p payload.length).session p = none := by rw [session_taken, if_pos rfl, hs]; rfl
    rw [hk]
    simp [commonChecks, ht, hfrom.1 hc]
  · obtain ⟨f, act, hk, hfrom⟩ := frameCommand_known hw hf
    refine answers_of_checks (r := refuse .lapsed) hf hr hl ?_
    rw [hk]
    exact commonChecks_lapsed hx hlap (hfrom.2 hc) act

/-! ### Fetches and port clears -/

/-- Settles O8, by whether the last byte of the frame is clocked out. -/
theorem fetchOldest : Obligations.FetchOldest := by
  intro s p clocked hq hr hc hl
  dsimp only
  generalize hx : s.port p = x
  have hframe : responseFrame (flagsByte x) (x.queue.head?.getD emptyResponse)
      = 0x5A#8 :: (be 2 (x.queue.head?.getD emptyResponse).payload.length
          ++ [(x.queue.head?.getD emptyResponse).tag, BitVec.ofNat 8 (statusCode (x.queue.head?.getD emptyResponse).status), flagsByte x]
          ++ (x.queue.head?.getD emptyResponse).payload
          ++ be 2 (crc (be 2 (x.queue.head?.getD emptyResponse).payload.length
          ++ [(x.queue.head?.getD emptyResponse).tag, BitVec.ofNat 8 (statusCode (x.queue.head?.getD emptyResponse).status), flagsByte x]
          ++ (x.queue.head?.getD emptyResponse).payload)).toNat) := by
    simp [responseFrame, responseBody, crcBytes, responseSync, code]
  have hlen := responseFrame_length (flagsByte x) (x.queue.head?.getD emptyResponse)
  have key : ∀ y : PortState, fetchOn p clocked s = s.setPort p y → y.session = s.session p → y.atn = (s.port p).atn →
      exec (.fetch p clocked) s = .next (s.setPort p y) := fun y he hs ha =>
    congrArg Host.Outcome.next (endTransaction_link hq hr hc hl he hs ha)
  refine ⟨fun hle => key _ ?_ (by rw [← hx]; rfl) (by rw [← hx]), fun hlt => key _ ?_ (by rw [← hx]; rfl) (by rw [← hx])⟩
  · unfold fetchOn
    dsimp only
    rw [hx, if_pos (by rw [hlen]; exact hle)]
    unfold clockedOut
    rw [List.take_of_length_le (by rw [hlen]; exact hle), hframe]
    rfl
  · unfold fetchOn
    dsimp only
    rw [hx, if_neg (by rw [hlen]; exact Nat.not_le.mpr hlt)]
    unfold clockedOut
    rw [Nat.sub_eq_zero_of_le (by rw [hlen]; exact Nat.le_of_lt hlt), List.replicate_zero, List.append_nil, hframe]
    rfl

/-- The row is the end of a transaction of this kind on the port. -/
def EndsAs (s : State) (p : Port) (kind : Transaction) (r : Result) : Prop :=
  ∃ clocked effect, r = .next (endTransaction p kind clocked effect s)

theorem endsAs_onFrame (p : Port) (tag : Byte) (n : Nat) (c : FrameCommand) (s : State) :
    EndsAs s p .commandWrite (.next (onFrame p tag n c s)) := ⟨n + Config.frameOverhead, _, by rw [onFrame]⟩

theorem endsAs_onFetch (p : Port) (n : Nat) (s : State) : EndsAs s p .fetch (.next (onFetch p n s)) :=
  ⟨n + 1, fetchOn p n, by rw [onFetch]⟩

theorem endsAs_onPortClear (p : Port) (s : State) : EndsAs s p .portClear (.next (onPortClear p s)) :=
  ⟨clearFrame.length, clearPort p, by rw [onPortClear]⟩

theorem endsAs_onBadFrame (p : Port) (b : Byte) (n : Nat) (s : State) : EndsAs s p (kindOpened b) (.next (onBadFrame p b n s)) :=
  ⟨n, _, by rw [onBadFrame]⟩

/-- A row whose transaction is discarded, or of which none can end on the port, has no effect (R176, R193). -/
theorem EndsAs.noEffect {s : State} {p : Port} {kind : Transaction} {r : Result} (h : EndsAs s p kind r) (hq : quiet s = true)
    (hr : s.rstn = .high) (hk : kind ≠ .idle) :
    ((s.port p).discarded = kind → r = .next (s.setPort p { s.port p with discarded := .idle }))
      ∧ ((s.port p).discarded ≠ kind → ¬ CanEnd s p kind → r = .next s) := by
  obtain ⟨clocked, effect, rfl⟩ := h
  refine ⟨fun hd => ?_, fun hd hc => ?_⟩
  · rw [endTransaction_discarded hq hk hd, if_neg (rstn_ne_low hr)]
  · by_cases hi : (s.port p).discarded = .idle
    · unfold endTransaction
      rw [settle_of_quiet hq]
      have hn : ¬ canEnd kind (s.port p) = true := fun h => hc (canEnd_iff.mp h)
      simp only [rstn_ne_low hr, hi, ne_eq, not_true_eq_false, or_self, if_false, hn, Bool.false_eq_true]
    · rw [endTransaction_other hq hi hd clocked effect]

theorem kindOpened_eq (first : Byte) :
    kindOpened first = if first = 0x3C#8 then Transaction.fetch else if first = 0xC3#8 then .portClear else .commandWrite := rfl

theorem kindOpened_ne_idle (first : Byte) : kindOpened first ≠ .idle := by
  unfold kindOpened
  split
  · decide
  · split <;> decide

/-- Bytes written are a transaction of the kind that their first byte opens. -/
theorem endsAs_commandWrite (p : Port) (first : Byte) (later : List Byte) (s : State) :
    EndsAs s p (kindOpened first) (exec (.commandWrite p (first :: later)) s) := by
  change EndsAs s p (kindOpened first) (execCommandWrite p (first :: later) s)
  unfold execCommandWrite
  dsimp only
  split
  · next h => rw [show kindOpened first = .fetch from if_pos h]; exact endsAs_onFetch p _ s
  · split
    · next hc =>
      obtain rfl : first = clearByte := (List.cons.inj hc).1
      exact endsAs_onPortClear p s
    · split
      · next f hf =>
        obtain ⟨he, _⟩ := commandFrame_of_readFrame hf
        obtain rfl : first = syncByte := (List.cons.inj he).1
        exact endsAs_onFrame p _ _ _ s
      · exact endsAs_onBadFrame p first _ s

/-- Settles O10, clause by clause. -/
theorem startsAndClears : Obligations.StartsAndClears := by
  refine ⟨fun s p hq hr hl => ⟨fun first hi hd => ?_, fun hc hs => ?_⟩, fun s p hq hr => ⟨fun first h => ?_, ?_, ?_, fun ht => ?_⟩,
    fun s p => ⟨fun later => ?_, rfl⟩⟩
  · change execTransactionStart p first s = _
    unfold execTransactionStart
    dsimp only
    rw [settle_of_quiet hq, if_neg (by simp [hi, hd]), if_neg (rstn_ne_low hr)]
    exact congrArg Host.Outcome.next (conclude_link hl p _ rfl rfl)
  · refine congrArg Host.Outcome.next (endTransaction_link hq hr hc hl ?_ rfl rfl)
    unfold clearPort
    dsimp only
    rw [if_neg (by rw [session_setPort, if_pos rfl]; unfold State.session at hs; simp [hs])]
    rfl
  · change execTransactionStart p first s = _
    unfold execTransactionStart
    dsimp only
    rw [settle_of_quiet hq, if_pos h]
  · dsimp only
    refine ⟨fun n => ?_, ?_, fun i tag command payload hf => ?_, fun first later => ?_⟩
    · exact (endsAs_onFetch p n s).noEffect hq hr (by decide)
    · exact (endsAs_onPortClear p s).noEffect hq hr (by decide)
    · rw [exec_eq_onFrame hf]
      exact (endsAs_onFrame p _ _ _ s).noEffect hq hr (by decide)
    · exact (endsAs_commandWrite p first later s).noEffect hq hr (kindOpened_ne_idle first)
  · exact congrArg Host.Outcome.next (settle_of_quiet hq)
  · refine ⟨resetBlocks s, ?_, ?_, ?_⟩
    · change execRstnFall s = _
      unfold execRstnFall
      dsimp only
      rw [settle_of_quiet hq, if_neg (rstn_ne_low hr)]
    · simp [State.port, resetBlocks, resetPort, PortState.initial]
    · have ht' : ¬ (s.ports.get p).transaction = .idle := ht
      simp [State.port, resetBlocks, resetPort, PortState.initial, ht']
  · change execCommandWrite p (0x3C#8 :: later) s = _
    unfold execCommandWrite
    exact if_pos rfl

end Sys2Proof.Machine
end

section
/-! SUPPORT. What a command row leaves in the ports and in the other fields, from what its act leaves; then RENEW, STATUS, SET_ATTENTION_MASK
and OPEN (O13, O14, O15). -/

set_option Elab.async false

namespace Sys2Proof.Machine

/-! ### A row from its act -/

/-- A row from a LIVE session whose act changes nothing is its answer alone. -/
theorem answers_of_live {s : State} {p : Port} {x : Session} {n : Nat} {i : Instr} {tag : Byte} {act : Act} {r : Reply} (hr : Ready s p)
    (hx : OpenLive s p x) (hl : LevelsFormed s) (hrow : exec i s = .next (onCommand p tag n .liveSession act s))
    (hout : answeredOnly s i r.status r.payload = answeredFrame s p (n + 7) tag r.status r.payload)
    (ha : act (taken s p n) = (taken s p n, r)) : Answers s i r.status r.payload := by
  unfold Answers
  rw [hrow, hout, onCommand_answeredOnly hr hx hl tag _ act r ha]

/-- A row from a LIVE or LAPSED session whose act changes nothing is its answer alone. -/
theorem answers_of_any {s : State} {p : Port} {x : Session} {n : Nat} {i : Instr} {tag : Byte} {act : Act} {r : Reply} (hr : Ready s p)
    (hx : s.session p = some x) (hl : LevelsFormed s) (hrow : exec i s = .next (onCommand p tag n .anySession act s))
    (hout : answeredOnly s i r.status r.payload = answeredFrame s p (n + 7) tag r.status r.payload)
    (ha : act (taken s p n) = (taken s p n, r)) : Answers s i r.status r.payload := by
  unfold Answers
  rw [hrow, hout, onCommand_of_checks hr hl tag ((commonChecks_anySession hx act).trans ha)]

/-- A command from a LIVE or LAPSED session that is taken from either, on a ready port. -/
theorem onCommand_any {s : State} {p : Port} {x : Session} {n : Nat} (hr : Ready s p) (hx : s.session p = some x) (tag : Byte) (act : Act) :
    onCommand p tag n .anySession act s = conclude (respond p tag (act (taken s p n)).2 (act (taken s p n)).1) := by
  rw [onCommand_ready hr, commonChecks_anySession hx]

/-- Where an act left the other ports alone, and its own but for the session, the row is answered. -/
theorem answered_conclude {s u : State} {i : Instr} {p : Port} {tag command : Byte} {sent : List Byte} {x : Option Session}
    (hf : frameFields? i = some (p, tag, command, sent))
    (hu : ∀ q, u.port q = if q = p then { (taken s p sent.length).port p with session := x } else s.port q) (r : Reply) :
    Answered s (conclude (respond p tag r u)) i r.status r.payload x := by
  unfold Answered
  rw [hf]
  intro q
  rw [conclude_port, respond_port]
  by_cases hq : q = p
  · subst hq
    rw [if_pos rfl, if_pos rfl, hu, if_pos rfl, port_taken, if_pos rfl]
    rfl
  · rw [if_neg hq, if_neg hq, hu, if_neg hq]

/-- The answer and the levels formed again change ports only, where the act left the lines and the permit as they were. -/
theorem Unchanged.answered {bs : List Block} {s u : State} {p : Port} (h : Unchanged bs s u) (hr : Ready s p) (hl : LevelsFormed s)
    (hb : Block.ports ∈ bs ∧ Block.outs ∉ bs ∧ Block.permit ∉ bs) (tag : Byte) (r : Reply) :
    Unchanged bs s (conclude (respond p tag r u)) := by
  obtain ⟨hports, houts, hpermit⟩ := hb
  intro b hn
  have ho : u.outs = s.outs := h .outs houts
  have hm : u.permit = s.permit := h .permit hpermit
  have hc := conclude_outs_same (t := respond p tag r u) hl hr.rstn (tickWork_of_quiet hr.calm) ho (by rw [respond_permit, hm])
  by_cases hb : b = .outs
  · subst hb; exact hc
  · have hb' : b ∉ [Block.outs, Block.ports] := by
      simp only [List.mem_cons, List.not_mem_nil, or_false, not_or]
      exact ⟨hb, fun e => hn (e ▸ hports)⟩
    have h1 := (kept_conclude (respond p tag r u)).unchanged b hb'
    have h2 := respond_unchanged p tag r u b (by simp only [List.mem_singleton]; exact fun e => hn (e ▸ hports))
    have h3 := h b hn
    cases b <;> exact h1.trans (h2.trans h3)

/-! ### Sessions -/

@[simp] theorem restarted_reader (x : Session) : x.restarted.reader = x.reader := by unfold Session.restarted; split <;> rfl
@[simp] theorem restarted_notices (x : Session) : x.restarted.notices = x.notices := by unfold Session.restarted; split <;> rfl
@[simp] theorem restarted_mask (x : Session) : x.restarted.mask = x.mask := by unfold Session.restarted; split <;> rfl
@[simp] theorem restarted_liveness (x : Session) : x.restarted.liveness = x.liveness := by unfold Session.restarted; split <;> rfl
@[simp] theorem restarted_window (x : Session) : x.restarted.window = x.window := by unfold Session.restarted; split <;> rfl

theorem pendingSet_restarted (s : State) (x : Session) : pendingSet s x.restarted = pendingSet s x := by
  unfold pendingSet journalLevel
  rw [restarted_reader, restarted_notices]

/-- The ports where an act wrote its own session last. -/
theorem port_taken_setSession (s : State) (p q : Port) (n : Nat) (x : Option Session) :
    ((taken s p n).setSession p x).port q = if q = p then { (taken s p n).port p with session := x } else s.port q := by
  rw [port_setSession]
  split
  · rfl
  · next h => rw [port_taken, if_neg h]

theorem unchanged_taken_setSession (s : State) (p : Port) (n : Nat) (x : Option Session) :
    Unchanged [.ports] s ((taken s p n).setSession p x) :=
  (kept_taken s p n).trans (kept_setSession _ p x).unchanged

/-- A record stored changes the journal only. -/
theorem unchanged_storing {bs : List Block} {s u : State} (h : Unchanged bs s u) (hb : Block.journal ∈ bs) (j : Journal) :
    Unchanged bs s { u with journal := j } := fun b hn => by
  cases b <;> first | exact absurd hb hn | exact h _ hn

/-- Settles O14: the renewed session, then the one offer. -/
theorem renewRestoresLivenessOnly : Obligations.RenewRestoresLivenessOnly := by
  intro s p tag x hr hl hroom hx hlap
  have ha : takeRenew p (taken s p 0)
      = (offer (.master p) .renewed ((taken s p 0).setSession p (some x.renewed)), okay [0#8]) := by
    rw [takeRenew, withSession_taken hx, restarted_of_lapsed hlap, hlap]
    rfl
  have ho := offer_eq_storing (s := (taken s p 0).setSession p (some x.renewed)) (hroom.congr rfl rfl) (.master p) .renewed
  have hrow : exec (.renew p tag) s = .next (onCommand p tag 0 .anySession (takeRenew p) s) := rfl
  rw [hrow, onCommand_any hr hx, ha, ho]
  refine ⟨_, rfl, answered_conclude (sent := []) rfl ?_ (okay [0#8]), ?_, ?_⟩
  · exact fun q => port_taken_setSession s p q 0 _
  · exact conclude_journal _
  · exact (unchanged_storing ((unchanged_taken_setSession s p 0 _).mono (by simp)) (by simp) _).answered hr hl (by decide) tag _

/-! ### Fields of a payload -/

@[simp] theorem fields_nil : fields [] = [] := rfl
@[simp] theorem fields_cons (w n : Nat) (l : List (Nat × Nat)) : fields ((w, n) :: l) = be w n ++ fields l := rfl
@[simp] theorem fields_append (l m : List (Nat × Nat)) : fields (l ++ m) = fields l ++ fields m := List.flatMap_append

theorem be_one (n : Nat) : be 1 n = [BitVec.ofNat 8 n] := by simp [be]

theorem code_eq_be (n : Nat) : code n = be 1 n := (be_one n).symm

/-- The latched conditions as a sum of the weights of their codes. -/
theorem latchedSet_eq (c : Conditions) :
    latchedSet c
      = BitVec.ofNat 8
          ((if (c.get .timeInvalid).firstLatched.isSome then 2 ^ conditionCode .timeInvalid else 0)
            + (if (c.get .refLost).firstLatched.isSome then 2 ^ conditionCode .refLost else 0)
            + (if (c.get .journalWithheld).firstLatched.isSome then 2 ^ conditionCode .journalWithheld else 0)
            + (if (c.get .entryLate).firstLatched.isSome then 2 ^ conditionCode .entryLate else 0)) := by
  unfold latchedSet allConditions
  simp only [List.foldl_cons, List.foldl_nil]
  generalize (c.get .timeInvalid).firstLatched.isSome = a
  generalize (c.get .refLost).firstLatched.isSome = b
  generalize (c.get .journalWithheld).firstLatched.isSome = d
  generalize (c.get .entryLate).firstLatched.isSome = e
  revert a b d e
  decide

theorem maskInRange_iff (m : Byte) : maskInRange m = true ↔ m.toNat < 64 := by
  have h : ∀ a < 4, ∀ b < 64, (BitVec.ofNat 8 (64 * a + b) &&& 0xC0#8 = 0#8 ↔ a = 0) := by decide
  have hm := h (m.toNat / 64) (by omega) (m.toNat % 64) (by omega)
  rw [Nat.div_add_mod, BitVec.ofNat_toNat, BitVec.setWidth_eq] at hm
  rw [maskInRange, beq_iff_eq, hm]
  omega

theorem livenessCode_eq (l : Liveness) : livenessCode l = if l = .live then 0 else 1 := by cases l <;> rfl

theorem statusBytes_eq (s : State) (x : Session) :
    statusBytes x s
      = [pendingSet s x, x.mask]
          ++ fields
            [(1, if x.liveness = .live then 0 else 1),
             (1, (if (s.condition .timeInvalid).firstLatched.isSome then 2 ^ conditionCode .timeInvalid else 0)
              + (if (s.condition .refLost).firstLatched.isSome then 2 ^ conditionCode .refLost else 0)
              + (if (s.condition .journalWithheld).firstLatched.isSome then 2 ^ conditionCode .journalWithheld else 0)
              + (if (s.condition .entryLate).firstLatched.isSome then 2 ^ conditionCode .entryLate else 0)),
             (1, voteCode s.conditions.partVote)] := by
  rw [statusBytes, latchedSet_eq, livenessCode_eq]
  simp only [fields_cons, fields_nil, be_one, code, List.append_nil, List.append_assoc]
  rfl

/-- What STATUS reports does not depend on the transaction or the deadline. -/
theorem statusBytes_taken (s : State) (p : Port) (n : Nat) (x : Session) : statusBytes x.restarted (taken s p n) = statusBytes x s := by
  unfold statusBytes
  rw [pendingSet_congr (s := s) (t := taken s p n) rfl, pendingSet_restarted, restarted_mask, restarted_liveness]
  rfl

/-- A command that writes its own session and nothing else. -/
theorem answers_setSession {s : State} {p : Port} {i : Instr} {tag command : Byte} {sent : List Byte} {r : Reply} {y : Option Session}
    (hr : Ready s p) (hl : LevelsFormed s) (hf : frameFields? i = some (p, tag, command, sent))
    (hrow : exec i s = .next (conclude (respond p tag r ((taken s p sent.length).setSession p y)))) :
    ∃ t, exec i s = .next t ∧ Answered s t i r.status r.payload y ∧ Unchanged [.ports] s t :=
  ⟨_, hrow, answered_conclude hf (fun q => port_taken_setSession s p q _ _) r,
    (unchanged_taken_setSession s p _ _).answered hr hl (by decide) tag r⟩

/-- Settles O15: each act writes the session of its port only. -/
theorem statusAndMask : Obligations.StatusAndMask := by
  intro s p tag x hr hl hx
  dsimp only
  refine ⟨?_, fun mask hlive => ⟨fun hm => ?_, fun hm => ?_⟩⟩
  · have ha : takeStatus p (taken s p 0)
        = ((taken s p 0).setSession p (some { x.restarted with notices := 0#8 }), okay (statusBytes x s)) := by
      rw [takeStatus, withSession_taken hx, statusBytes_taken]
    rw [← statusBytes_eq]
    refine answers_setSession (r := okay _) (sent := []) hr hl rfl ?_
    change Host.Outcome.next (onCommand p tag 0 .anySession (takeStatus p) s) = _
    rw [onCommand_any hr hx, ha]
    rfl
  · have hin : maskInRange mask = true := (maskInRange_iff mask).mpr hm
    have ha : takeSetAttentionMask p mask (taken s p 1)
        = ((taken s p 1).setSession p (some { x.restarted with mask := mask }), okay [mask, pendingSet s x]) := by
      rw [takeSetAttentionMask, withSession_taken hx, if_pos hin, pendingSet_congr (s := s) (t := taken s p 1) rfl, pendingSet_restarted]
    refine answers_setSession (r := okay [mask, pendingSet s x]) (sent := [mask]) hr hl rfl ?_
    change Host.Outcome.next (onCommand p tag 1 .liveSession (takeSetAttentionMask p mask) s) = _
    rw [onCommand_live hr ⟨hx, hlive⟩, ha]
    rfl
  · have hin : ¬ maskInRange mask = true := fun h => absurd ((maskInRange_iff mask).mp h) (Nat.not_lt.mpr hm)
    refine answers_of_live (r := refuse .badArg) hr ⟨hx, hlive⟩ hl (act := takeSetAttentionMask p mask) rfl rfl ?_
    rw [takeSetAttentionMask, withSession_taken hx, if_neg hin]

/-! ### OPEN -/

theorem readerModeOf?_of_lt {b : Byte} (h : b.toNat < 2) :
    readerModeOf? b = some (if b = 0#8 then .retaining else .lossy) := by
  obtain rfl | rfl : b = 0#8 ∨ b = 1#8 := by bv_omega
  · rfl
  · rfl

theorem readerModeOf?_eq_none {b : Byte} (h : 2 ≤ b.toNat) : readerModeOf? b = none := by
  have h0 : b ≠ 0#8 := by rintro rfl; simp at h
  have h1 : b ≠ 1#8 := by rintro rfl; simp at h
  simp [readerModeOf?, h0, h1]

theorem readerStart?_of_lt {b : Byte} (h : b.toNat < 2) (s : State) :
    readerStart? b s = some (if b = 0#8 then oldestSeq s else endSeq s) := by
  obtain rfl | rfl : b = 0#8 ∨ b = 1#8 := by bv_omega
  · rfl
  · rfl

theorem readerStart?_eq_none {b : Byte} (h : 2 ≤ b.toNat) (s : State) : readerStart? b s = none := by
  have h0 : b ≠ 0#8 := by rintro rfl; simp at h
  have h1 : b ≠ 1#8 := by rintro rfl; simp at h
  simp [readerStart?, h0, h1]

theorem filter_inRange_iff (f : Filter) :
    f.inRange = true ↔ ¬ (f.kinds &&& 0xC001#16 ≠ 0#16 ∨ f.origins &&& 0xE0#8 ≠ 0#8) := by
  simp [Filter.inRange]

theorem windowInRange_iff (w : Nat) : windowInRange w = true ↔ ¬ ((1 ≤ w ∧ w ≤ 9) ∨ 60000 < w) := by
  simp only [windowInRange, Bool.or_eq_true, Bool.and_eq_true, beq_iff_eq, decide_eq_true_eq]
  omega

section
variable {s : State} {p : Port} {mode start : Byte} {filter : Filter} {window : BitVec 16}

theorem takeOpen_badArg (hs : s.session p = none)
    (h : 2 ≤ mode.toNat ∨ 2 ≤ start.toNat ∨ filter.inRange = false ∨ windowInRange window.toNat = false) :
    takeOpen p mode filter start window s = (s, refuse .badArg) := by
  unfold takeOpen
  rw [if_neg (by simp [hs])]
  split
  · next m c hm hc =>
    rw [if_neg]
    rcases h with h | h | h | h
    · rw [readerModeOf?_eq_none h] at hm; cases hm
    · rw [readerStart?_eq_none h] at hc; cases hc
    · simp [h]
    · simp [h]
  · rfl

/-- The reader's position an OPEN asks for. -/
def openCursor (start : Byte) (s : State) : Nat := if start = 0#8 then oldestSeq s else endSeq s

/-- The session an OPEN with arguments in range begins. -/
def openedSession (mode start : Byte) (filter : Filter) (window : BitVec 16) (s : State) : Session :=
  newSession (if mode = 0#8 then .retaining else .lossy) filter (openCursor start s) window.toNat

theorem takeOpen_inRange (hs : s.session p = none) (hm : mode.toNat < 2) (hst : start.toNat < 2) (hf : filter.inRange = true)
    (hw : windowInRange window.toNat = true) {u : State} (hu : u = s.setSession p (some (openedSession mode start filter window s))) :
    (takeOpen p mode filter start window s).1 = offer (.master p) .sessionOpened u
      ∧ ((offer (.master p) .sessionOpened u).session p = u.session p →
          (takeOpen p mode filter start window s).2
            = okay (be 8 (openCursor start s) ++ be 8 (openCursor start s) ++ optField 8 ((offerSeq u).map (be 8)))) := by
  subst hu
  unfold takeOpen
  rw [if_neg (by simp [hs]), readerModeOf?_of_lt hm, readerStart?_of_lt hst]
  simp only [hf, hw, Bool.and_self, if_true]
  refine ⟨rfl, fun hsess => ?_⟩
  unfold openedSession openCursor at hsess
  rw [hsess, session_setSession_same]
  rfl

end

theorem exec_open (p : Port) (tag mode : Byte) (kinds lines : BitVec 16) (origins start : Byte) (window : BitVec 16) (s : State) :
    exec (.openSession p tag mode kinds lines origins start window) s
      = .next (onCommand p tag 9 .anyPort (takeOpen p mode { kinds := kinds, lines := lines, origins := origins } start window) s) := rfl

/-- An offer that is counted or stored in room changes the journal only. -/
theorem offer_eq_setJournal {s : State} (hr : s.rstn = .high) (h : s.journal.state = .withholding ∨ s.journal.store.length < 512)
    (o : Origin) (b : Body) : ∃ j, offer o b s = { s with journal := j } := by
  unfold offer
  rcases offerAs_cases s.time.partTime (quality s) o b s with ⟨hl, _⟩ | ⟨_, _, e⟩ | ⟨_, _, _, e⟩ | ⟨_, hj, hf, _⟩ | ⟨_, hj, hf, _⟩
  · exact absurd hl (rstn_ne_low hr)
  · exact ⟨_, e⟩
  · exact ⟨_, e⟩
  · rcases h with h | h
    · rw [hj] at h; cases h
    · exact absurd h hf
  · rcases h with h | h
    · rw [hj] at h; cases h
    · exact absurd h hf

theorem offer_of_withholding {s : State} (hr : s.rstn = .high) (h : s.journal.state = .withholding) (o : Origin) (b : Body) :
    offer o b s = withhold s := by
  unfold offer offerAs
  rw [if_neg (rstn_ne_low hr), h]

theorem offerSeq_of_withholding {s : State} (hr : s.rstn = .high) (h : s.journal.state = .withholding) : offerSeq s = none := by
  unfold offerSeq
  rw [if_neg (rstn_ne_low hr), h]

theorem offerSeq_of_room {s : State} (h : RoomFor 1 s) : offerSeq s = some s.journal.counter := by
  unfold offerSeq
  rw [if_neg (rstn_ne_low h.rstn), h.accepting]
  exact if_pos (Nat.lt_of_succ_le h.room)

theorem satSucc_of_lt {n : Nat} (h : n < 4294967295) : satSucc n = n + 1 := if_pos h

/-- Settles O13: the refusals by their checks, then the one offer by what the journal does with it. -/
theorem openBeginsSession : Obligations.OpenBeginsSession := by
  intro s p tag mode kinds lines origins start window hr hl
  dsimp only
  refine ⟨fun x hx => ?_, fun hs hbad => ?_, fun hs hm hst hfilter hwindow => ?_⟩
  · by_cases hlive : x.liveness = .live
    · have hc : takeOpen p mode { kinds := kinds, lines := lines, origins := origins } start window (taken s p 9)
          = (taken s p 9, refuse .sessionOpen) := if_pos (by rw [isSome_session_taken, hx]; rfl)
      rw [if_pos hlive]
      exact congrArg Host.Outcome.next (onCommand_of_checks hr hl tag ((commonChecks_live ⟨hx, hlive⟩ _ _).trans hc))
    · rw [if_neg hlive]
      have hlap : x.liveness = .lapsed := by cases h : x.liveness <;> simp_all
      exact congrArg Host.Outcome.next (onCommand_of_checks hr hl tag (commonChecks_lapsed hx hlap rfl _))
  · have ht : (taken s p 9).session p = none := by rw [session_taken, if_pos rfl, hs]; rfl
    have hc : takeOpen p mode { kinds := kinds, lines := lines, origins := origins } start window (taken s p 9)
        = (taken s p 9, refuse .badArg) := by
      refine takeOpen_badArg ht (hbad.imp id (Or.imp id (Or.imp (fun h => ?_) fun h => ?_)))
      · exact Bool.eq_false_iff.mpr fun e => (filter_inRange_iff _).mp e h
      · exact Bool.eq_false_iff.mpr fun e => (windowInRange_iff _).mp e h
    exact congrArg Host.Outcome.next (onCommand_of_checks hr hl tag ((commonChecks_anyPort hs _).trans hc))
  · have ht : (taken s p 9).session p = none := by rw [session_taken, if_pos rfl, hs]; rfl
    generalize hu : (taken s p 9).setSession p
      (some (openedSession mode start { kinds := kinds, lines := lines, origins := origins } window (taken s p 9))) = u
    obtain ⟨h1, h2⟩ := takeOpen_inRange ht hm hst ((filter_inRange_iff { kinds := kinds, lines := lines, origins := origins }).mpr hfilter)
      ((windowInRange_iff _).mpr hwindow) hu.symm
    have hport : ∀ q, u.port q = if q = p then { (taken s p 9).port p with
        session := some (openedSession mode start { kinds := kinds, lines := lines, origins := origins } window (taken s p 9)) } else s.port q :=
      fun q => by rw [← hu, port_taken_setSession]
    have hsame : Unchanged [.ports] s u := by rw [← hu]; exact unchanged_taken_setSession s p 9 _
    have hj : u.journal = s.journal := hsame .journal (by decide)
    have hrst : u.rstn = .high := (hsame .rstn (by decide)).trans hr.rstn
    rw [exec_open, onCommand_ready hr, commonChecks_anyPort hs, h1]
    refine ⟨_, rfl, ?_, fun hroom => ?_, fun hw hcount => ?_⟩
    · split
      · next hroom =>
        obtain ⟨j, ho⟩ := offer_eq_setJournal hrst (by rw [hj]; exact hroom) (.master p) .sessionOpened
        rw [ho]
        exact (unchanged_storing (hsame.mono (by simp)) (by simp) j).answered hr hl (by decide) tag _
      · exact Unchanged.answered ((hsame.mono (sub_of_all (by decide))).trans ((kept_offer _ _ u).unchanged.mono (sub_of_all (by decide)))) hr hl
          (by decide) tag _
    · have hroom' : RoomFor 1 u := hroom.congr (hrst.trans hroom.rstn.symm) hj
      have ho := offer_eq_storing hroom' (.master p) .sessionOpened
      rw [h2 (by rw [ho]; rfl), ho, offerSeq_of_room hroom', hj]
      refine ⟨answered_conclude (sent := mode :: (be 2 kinds.toNat ++ be 2 lines.toNat ++ [origins, start] ++ be 2 window.toNat)) rfl ?_ _,
        ?_⟩
      · exact hport
      unfold Stored
      rw [conclude_journal, ← hu]
      rfl
    · have ho := offer_of_withholding hrst (by rw [hj]; exact hw) (.master p) .sessionOpened
      rw [h2 (by rw [ho]; rfl), ho, offerSeq_of_withholding hrst (by rw [hj]; exact hw)]
      refine ⟨answered_conclude (sent := mode :: (be 2 kinds.toNat ++ be 2 lines.toNat ++ [origins, start] ++ be 2 window.toNat)) rfl ?_ _,
        ?_⟩
      · exact hport
      rw [conclude_journal]
      change { u.journal with withheld := satSucc u.journal.withheld } = _
      rw [hj, satSucc_of_lt hcount]

end Sys2Proof.Machine
end

section
/-! SUPPORT. Records stored one after the other; then the commands of part time, the strobe slots and the cycles that feed the accumulator
(O18 to O21). -/

set_option Elab.async false

namespace Sys2Proof.Machine

/-! ### Records stored one after the other -/

theorem recordsFrom_append (t : Nat) (q : Quality) (l m : List (Origin × Body)) :
    ∀ seq, recordsFrom t q seq (l ++ m) = recordsFrom t q seq l ++ recordsFrom t q (seq + l.length) m := by
  induction l with
  | nil => intro seq; rfl
  | cons x l ih =>
    intro seq
    obtain ⟨o, b⟩ := x
    simp only [List.cons_append, recordsFrom, ih, List.length_cons, Nat.add_assoc, Nat.add_comm 1]

@[simp] theorem recordsFrom_length (t : Nat) (q : Quality) (l : List (Origin × Body)) : ∀ seq, (recordsFrom t q seq l).length = l.length := by
  induction l with
  | nil => intro seq; rfl
  | cons x l ih => intro seq; simp only [recordsFrom, List.length_cons, ih]

@[simp] theorem storing_nil (j : Journal) (t : Nat) (q : Quality) : j.storing t q [] = j := by
  unfold Journal.storing recordsFrom
  rw [List.append_nil]
  rfl

theorem storing_storing (j : Journal) (t : Nat) (q : Quality) (l m : List (Origin × Body)) :
    (j.storing t q l).storing t q m = j.storing t q (l ++ m) := by
  simp only [Journal.storing, recordsFrom_append, List.append_assoc, List.length_append, Nat.add_assoc]

/-- Room left once records are stored. -/
theorem RoomFor.storing {s u : State} {n : Nat} {t : Nat} {q : Quality} {l : List (Origin × Body)} (h : RoomFor (n + l.length) s)
    (hr : u.rstn = s.rstn) (hj : u.journal = s.journal.storing t q l) : RoomFor n u := by
  refine ⟨hr.trans h.rstn, by rw [hj]; exact h.accepting, ?_⟩
  have := h.room
  rw [hj]
  simp only [Journal.storing, List.length_append, recordsFrom_length]
  omega

/-- An offer behind records already stored at the same moment. -/
theorem offer_behind {u : State} {j : Journal} {l : List (Origin × Body)} (hj : u.journal = j.storing u.time.partTime (quality u) l)
    (h : RoomFor 1 u) (o : Origin) (b : Body) :
    offer o b u = { u with journal := j.storing u.time.partTime (quality u) (l ++ [(o, b)]) } := by
  rw [offer_eq_storing h, hj, storing_storing]

/-! ### Levels do not read the time -/

theorem conclude_setTime (s : State) (x : Timebase) : conclude (s.setTime x) = (conclude s).setTime x := by
  have h : tickOpen (s.setTime x) = tickOpen s := rfl
  unfold conclude
  rw [h, State.setTime_rstn]
  split <;> rfl

/-- Setting the time of a state with formed levels leaves them formed. -/
theorem conclude_setTime_of_formed {s : State} (h : LevelsFormed s) (x : Timebase) : conclude (s.setTime x) = s.setTime x := by
  rw [conclude_setTime, conclude_eq_self h]

/-- A command from a LIVE session whose act sets the time and stores records. -/
theorem onCommand_timed {s : State} {p : Port} {x : Session} {n : Nat} {f : TakenFrom} {act : Act} {r : Reply} {T : Timebase} {j : Journal}
    (hr : Ready s p) (hx : OpenLive s p x) (tag : Byte) (ha : act (taken s p n) = ({ taken s p n with time := T, journal := j }, r)) :
    onCommand p tag n f act s = conclude { answeredFrame s p (n + 7) tag r.status r.payload with time := T, journal := j } := by
  rw [onCommand_live hr hx, ha, ← respond_taken]
  rfl

@[simp] theorem holds_taken (s : State) (p q : Port) (n : Nat) (r : Resource) : (taken s p n).holds q r = s.holds q r := rfl

theorem quality_taken (s : State) (p : Port) (n : Nat) : quality (taken s p n) = quality s := rfl

/-! ### STEP_TIME -/

theorem flagOf?_of_lt {b : Byte} (h : b.toNat < 2) : flagOf? b = some (b == 1#8) := by
  obtain rfl | rfl : b = 0#8 ∨ b = 1#8 := by bv_omega
  · rfl
  · rfl

theorem stepInRange_iff (x : Int) : stepInRange x = true ↔ x ≠ 0 ∧ x.natAbs ≤ 2 ^ 62 := by
  simp only [stepInRange, Bool.and_eq_true, decide_eq_true_eq]
  omega

/-- The journal as STEP_TIME leaves it: the record of the step it replaces. -/
def afterReplaced (s : State) : Journal :=
  s.time.step.elim s.journal fun y => s.journal.storing s.time.partTime (quality s) [(.master y.issuer, .time (.stepReplaced y.offset y.markValid))]

theorem reportReplaced_eq {s : State} (h : s.time.step.isSome = true → RoomFor 1 s) : reportReplaced s = { s with journal := afterReplaced s } := by
  unfold reportReplaced afterReplaced
  cases hs : s.time.step with
  | none => rfl
  | some y => exact offer_eq_storing (h (by rw [hs]; rfl)) _ _

section
variable {s : State} {p : Port} {offset : BitVec 64} {mark : Byte}

theorem takeStepTime_notHolder (hh : s.holds p .time = false) : takeStepTime p offset mark s = (s, refuse .notHolder) :=
  if_neg (by rw [hh]; decide)

theorem takeStepTime_badArg (hh : s.holds p .time = true) (hbad : offset.toInt = 0 ∨ 2 ^ 62 < offset.toInt.natAbs ∨ 2 ≤ mark.toNat) :
    takeStepTime p offset mark s = (s, refuse .badArg) := by
  unfold takeStepTime
  rw [if_pos hh]
  split
  · next m hm =>
    have hlt : ¬ 2 ≤ mark.toNat := fun h => by rw [flagOf?_eq_none h] at hm; cases hm
    refine if_neg fun h => ?_
    have := (stepInRange_iff _).mp h
    omega
  · rfl

theorem takeStepTime_placed (hh : s.holds p .time = true) (hin : stepInRange offset.toInt = true) (hm : mark.toNat < 2)
    (hroom : s.time.step.isSome = true → RoomFor 1 s) :
    takeStepTime p offset mark s
      = ({ s with
            time := { s.time with step := some { offset := offset.toInt, markValid := mark == 1#8, issuer := p } }
            journal := afterReplaced s },
          { status := .pending, payload := [] }) := by
  simp only [takeStepTime, hh, flagOf?_of_lt hm, hin, if_true, reportReplaced_eq hroom]
  rfl

end

/-- Settles O18, check by check. -/
theorem stepTimeWaits : Obligations.StepTimeWaits := by
  intro s p tag offset mark x hr hl hx
  refine ⟨fun hh => ?_, fun hh hbad => ?_, fun hh h0 hle hm hroom => ?_⟩
  · exact answers_of_live hr hx hl (r := refuse .notHolder) rfl rfl (takeStepTime_notHolder (s := taken s p 9) hh)
  · exact answers_of_live hr hx hl (r := refuse .badArg) rfl rfl (takeStepTime_badArg (s := taken s p 9) hh hbad)
  · have ha := takeStepTime_placed (s := taken s p 9) (p := p) (offset := offset) (mark := mark) hh ((stepInRange_iff _).mpr ⟨h0, hle⟩) hm
      fun h => (hroom h).congr rfl rfl
    have hrow : exec (.stepTime p tag offset mark) s = .next (onCommand p tag 9 .liveSession (takeStepTime p offset mark) s) := rfl
    have hj : afterReplaced (taken s p 9) = afterReplaced s := rfl
    rw [hrow, onCommand_timed hr hx tag ha, hj]
    unfold afterReplaced
    cases s.time.step <;> rfl

/-! ### SLEW_TIME and SET_TRIM -/

theorem slewInRange_iff (a : Int) (r : Nat) : slewInRange a r = true ↔ a ≠ 0 ∧ a.natAbs ≤ 1000000 ∧ 1 ≤ r ∧ r ≤ 500 := by
  simp only [slewInRange, Bool.and_eq_true, decide_eq_true_eq]
  omega

/-- The record with which a slew in flight is abandoned, if one is. -/
def abandonRecords (s : State) : List (Origin × Body) :=
  s.time.slew.elim [] fun y => [(.master y.issuer, .time (.slewAbandoned y.remaining))]

theorem abandonRecords_length (s : State) : (abandonRecords s).length ≤ 1 := by
  unfold abandonRecords
  cases s.time.slew <;> simp

/-- Abandoning leaves no slew, and its record where there was one (R17). -/
theorem abandonSlew_eq {s : State} (h : s.time.slew.isSome = true → RoomFor 1 s) :
    abandonSlew s
      = { s with
          time := { s.time with slew := none }
          journal := s.journal.storing s.time.partTime (quality s) (abandonRecords s) } := by
  unfold abandonSlew abandonRecords
  cases hs : s.time.slew with
  | none =>
    dsimp only [Option.elim]
    rw [storing_nil, ← hs]
  | some y =>
    exact offer_eq_storing (s := s.setTime { s.time with slew := none }) ((h (by rw [hs]; rfl)).congr rfl rfl) _ _

section
variable {s : State} {p : Port} {amount trim : BitVec 32} {rate : BitVec 16}

theorem takeSlewTime_notHolder (hh : s.holds p .time = false) : takeSlewTime p amount rate s = (s, refuse .notHolder) :=
  if_neg (by rw [hh]; decide)

theorem takeSlewTime_badArg (hh : s.holds p .time = true) (hbad : slewInRange amount.toInt rate.toNat = false) :
    takeSlewTime p amount rate s = (s, refuse .badArg) := by
  unfold takeSlewTime
  rw [if_pos hh, if_neg (by rw [hbad]; decide)]

theorem takeSlewTime_starts (hh : s.holds p .time = true) (hin : slewInRange amount.toInt rate.toNat = true) (hroom : RoomFor 2 s) :
    takeSlewTime p amount rate s
      = ({ s with
            time := { s.time with slew := some { amount := amount.toInt, rate := rate.toNat, progress := 0, issuer := p } }
            journal := s.journal.storing s.time.partTime (quality s)
              (abandonRecords s ++ [(.master p, .time (.slewStarted amount.toInt rate.toNat))]) },
          okay []) := by
  have h1 : RoomFor (1 + (abandonRecords s).length) s := hroom.mono (by have := abandonRecords_length s; omega)
  simp only [takeSlewTime, hh, hin, if_true, abandonSlew_eq fun _ => hroom.mono (by omega)]
  refine congrArg (fun u => (u, okay [])) ?_
  refine offer_behind (j := s.journal) (l := abandonRecords s) rfl (h1.storing (t := s.time.partTime) (q := quality s) ?_ ?_) _ _
  · rfl
  · rfl

theorem takeSetTrim_notHolder (hh : s.holds p .time = false) : takeSetTrim p trim s = (s, refuse .notHolder) :=
  if_neg (by rw [hh]; decide)

theorem takeSetTrim_badArg (hh : s.holds p .time = true) (hbad : 500000 < trim.toInt.natAbs) : takeSetTrim p trim s = (s, refuse .badArg) := by
  unfold takeSetTrim trimInRange
  rw [if_pos hh, if_neg (by rw [decide_eq_true_eq]; omega)]

theorem takeSetTrim_sets (hh : s.holds p .time = true) (hin : trim.toInt.natAbs ≤ 500000) (hroom : RoomFor 1 s) :
    takeSetTrim p trim s
      = ({ s with
            time := { s.time with trim := trim.toInt }
            journal := s.journal.storing s.time.partTime (quality s) [(.master p, .time (.trimSet s.time.trim trim.toInt))] },
          okay []) := by
  simp only [takeSetTrim, trimInRange, hh, hin, decide_true, if_true]
  exact congrArg (fun u => (u, okay []))
    (offer_eq_storing (s := s.setTime { s.time with trim := trim.toInt }) (hroom.congr rfl rfl) _ _)

end

/-- Settles O19, check by check, for each of the two. -/
theorem slewAndTrim : Obligations.SlewAndTrim := by
  intro s p tag amount trim rate x hr hl hx
  have hslew : exec (.slewTime p tag amount rate) s = .next (onCommand p tag 6 .liveSession (takeSlewTime p amount rate) s) := rfl
  have htrim : exec (.setTrim p tag trim) s = .next (onCommand p tag 4 .liveSession (takeSetTrim p trim) s) := rfl
  refine ⟨fun hh => ⟨?_, ?_⟩, fun hh => ⟨fun hbad => ?_, fun hbad => ?_, fun h0 hle h1 h500 hroom => ?_, fun hle hroom => ?_⟩⟩
  · exact answers_of_live hr hx hl (r := refuse .notHolder) hslew rfl (takeSlewTime_notHolder (s := taken s p 6) hh)
  · exact answers_of_live hr hx hl (r := refuse .notHolder) htrim rfl (takeSetTrim_notHolder (s := taken s p 4) hh)
  · refine answers_of_live hr hx hl (r := refuse .badArg) hslew rfl (takeSlewTime_badArg (s := taken s p 6) hh ?_)
    refine Bool.eq_false_iff.mpr fun h => ?_
    have := (slewInRange_iff _ _).mp h
    omega
  · exact answers_of_live hr hx hl (r := refuse .badArg) htrim rfl (takeSetTrim_badArg (s := taken s p 4) hh hbad)
  · have ha := takeSlewTime_starts (s := taken s p 6) (p := p) hh ((slewInRange_iff _ _).mpr ⟨h0, hle, h1, h500⟩) (hroom.congr rfl rfl)
    have hrec : abandonRecords (taken s p 6) = abandonRecords s := rfl
    rw [hslew, onCommand_timed hr hx tag ha, hrec]
    unfold abandonRecords
    cases s.time.slew <;> rfl
  · rw [htrim, onCommand_timed hr hx tag (takeSetTrim_sets (s := taken s p 4) hh hle (hroom.congr rfl rfl))]
    rfl

/-! ### Strobe slots -/

theorem takeCapture_armed {s : State} {p : Port} (h : (s.time.strobes.get p).armed = true) :
    takeCapture p s
      = ({ s with
            time :=
              { s.time with
                strobes := s.time.strobes.set p
                  { captured := some { time := s.time.partTime, quality := quality s, stepPending := s.time.step.isSome }
                    overwrite := if (s.time.strobes.get p).captured.isSome then min ((s.time.strobes.get p).overwrite + 1) 255 else 0
                    armed := false } } }).setSession p
          ((s.session p).map fun x : Session => { x with notices := x.notices ||| 0x08#8 }) := by
  unfold takeCapture
  rw [if_pos h]
  rfl

theorem takeReadStrobe_empty {s : State} {p : Port} (h : (s.time.strobes.get p).captured = none) :
    takeReadStrobe p s = (s, { status := .empty, payload := [] }) := by
  unfold takeReadStrobe
  simp only [h]

theorem takeReadStrobe_held {s : State} {p : Port} {c : Capture} (h : (s.time.strobes.get p).captured = some c) :
    takeReadStrobe p s
      = (s.setTime
          { s.time with strobes := s.time.strobes.set p { captured := none, overwrite := 0, armed := (s.time.strobes.get p).armed } },
          okay (captureBytes c (s.time.strobes.get p).overwrite)) := by
  unfold takeReadStrobe
  simp only [h]

/-- Settles O20: the edge, the capture and the read, each by its slot. -/
theorem strobeSlots : Obligations.StrobeSlots := by
  intro s p tag
  refine ⟨fun hq hl => ?_, fun hdue harmed => ?_, fun hr hl ⟨x, hx⟩ => ⟨fun h => ?_, fun c h => ?_⟩⟩
  · change execStrobeEdge p s = _
    unfold execStrobeEdge
    dsimp only
    rw [settle_of_quiet hq, conclude_setTime_of_formed hl, ← apply_ite Host.Outcome.next]
    rfl
  · refine (exec_tickRow_due (e := .strobeCapture p) hdue).trans ?_
    change Host.Outcome.next (conclude (takeCapture p (s.without (.strobeCapture p)))) = _
    rw [takeCapture_armed (s := s.without (.strobeCapture p)) harmed]
    rfl
  · exact answers_of_live hr hx hl (r := { status := .empty, payload := [] }) rfl rfl (takeReadStrobe_empty (s := taken s p 0) h)
  · have hrow : exec (.readStrobe p tag) s = .next (onCommand p tag 0 .liveSession (takeReadStrobe p) s) := rfl
    have hset : ∀ (r : Reply) (u : State) (T : Timebase), respond p tag r (u.setTime T) = (respond p tag r u).setTime T := fun _ _ _ => rfl
    rw [hrow, onCommand_live hr hx, takeReadStrobe_held (s := taken s p 0) h, hset, conclude_setTime, conclude_respond_taken hl]
    rfl

/-! ### Cycles -/

/-- What `feed` leaves in the accumulator and the slew is what R1 and R16 say. -/
theorem feed_fed (F : Nat) (s : State) : Fed F s.time (feed F s).time := by
  unfold Fed feed
  cases hs : s.time.slew with
  | none =>
    refine ⟨?_, rfl⟩
    simp [baseIncrement, slewIncrement]
  | some x =>
    simp only [State.setTime_time, Option.map_some, slewIncrement, slewShare, baseIncrement]
    split
    · next hle =>
      rw [min_eq_left hle]
      refine ⟨?_, rfl⟩
      split <;> ring
    · next hlt =>
      rw [min_eq_right (le_of_lt (not_le.mp hlt))]
      refine ⟨?_, by congr 2; ring⟩
      split <;> ring

/-- Feeding changes the accumulator and the slew only. -/
theorem feed_eq (F : Nat) (s : State) : feed F s = s.setTime { s.time with acc := (feed F s).time.acc, slew := (feed F s).time.slew } := rfl

theorem Fed.of_slew {F : Nat} {a b : Timebase} (h : Fed F a b) {a' : Timebase} (h1 : a'.slew = a.slew) (h2 : a'.acc = a.acc)
    (h3 : a'.trim = a.trim) : Fed F a' b := by
  unfold Fed at h ⊢
  rw [h1, h2, h3]
  exact h

theorem countExit_countLoss (t : Timebase) :
    countExit (countLoss t)
      = { t with
          lossCount := min (t.lossCount + 1) 100
          exitCount := if t.refSeen = true ∧ t.lossCount + 1 < 100 then min (t.exitCount + 1) 20000 else t.exitCount } := by
  unfold countExit countLoss Config.lossLimit Config.exitLimit
  dsimp only
  by_cases hc : t.refSeen = true ∧ t.lossCount + 1 < 100
  · rw [if_pos hc, if_pos ⟨hc.1, by omega⟩]
  · rw [if_neg hc, if_neg fun h => hc ⟨h.1, by omega⟩]

/-- What an oscillator cycle leaves before the levels are formed (R5, R6). -/
def oscillated (s : State) : State :=
  match s.time.refState with
  | .locked => s.setTime (countLoss s.time)
  | .holdover => (feed Config.oscillatorHz s).setTime (countExit (countLoss (feed Config.oscillatorHz s).time))

/-- Settles O21: a cycle sets the time only, and feeds it where its source is the reference. -/
theorem cyclesFeedTheAccumulator : Obligations.CyclesFeedTheAccumulator := by
  intro s hq hl
  have hrefclk : exec .refclkCycle s
      = .next (conclude (if s.time.refState = .locked then feed s.time.refHz (s.setTime { s.time with lossCount := 0, refSeen := true })
          else s.setTime { s.time with lossCount := 0, refSeen := true })) := by
    change execRefclkCycle s = _
    unfold execRefclkCycle
    rw [settle_of_quiet hq]
    rfl
  have hosc : exec .oscillatorCycle s = .next (conclude (oscillated s)) := by
    change execOscillatorCycle s = _
    unfold execOscillatorCycle
    rw [settle_of_quiet hq]
    rfl
  unfold oscillated at hosc
  refine ⟨fun h => ?_, fun h => ?_, fun h => ?_, fun h => ?_⟩
  · rw [hrefclk, if_neg (by rw [h]; decide), conclude_setTime_of_formed hl]
  · refine ⟨(feed s.time.refHz (s.setTime { s.time with lossCount := 0, refSeen := true })).time, ?_, ?_⟩
    · rw [hrefclk, if_pos h]
      exact congrArg Host.Outcome.next (conclude_setTime_of_formed hl _)
    · exact (feed_fed _ (s.setTime { s.time with lossCount := 0, refSeen := true })).of_slew rfl rfl rfl
  · rw [hosc]
    split
    · exact congrArg Host.Outcome.next (conclude_setTime_of_formed hl _)
    · next h' => rw [h] at h'; cases h'
  · refine ⟨(feed 20000000 s).time, ?_, feed_fed 20000000 s⟩
    rw [hosc]
    split
    · next h' => rw [h] at h'; cases h'
    · refine congrArg Host.Outcome.next ((conclude_setTime_of_formed hl _).trans ?_)
      rw [countExit_countLoss]
      rfl

end Sys2Proof.Machine
end

section
/-! SUPPORT. What a tick advances, what it makes due, and what a line takes from it (O22 to O24). -/

set_option Elab.async false

namespace Sys2Proof.Machine

/-! ### One line at one tick -/

/-- An enabled line whose filter length is unchanged moves its qualification only (R27). -/
theorem EventLine.sample_eq (l : EventLine) : l.sample.1 = { l with qual := l.sample.1.qual } := by
  unfold EventLine.sample
  repeat' split
  all_goals rfl

/-- The window position after a tick of a line that is and stays enabled (R31, R33). -/
def EventLine.windowNext (l : EventLine) : Nat := if l.cfg.budget ≠ l.inForce.budget then l.window else nextPosition l.inForce.budget l.window

/-- The line a tick leaves where it is and stays enabled, and whether a change is qualified (R27, R28). -/
def EventLine.sampled (sample : Level) (l : EventLine) : EventLine × Bool :=
  if l.cfg.filter ≠ l.inForce.filter then
    ({ l with raw := sample, window := l.windowNext }, decide (l.cfg.filter = 0 ∧ l.tracked ≠ some sample))
  else { l with raw := sample, window := l.windowNext }.sample

/-- The events of a line that is and stays enabled, in the order of R24. -/
def EventLine.dueEvents (n : Fin 16) (sample : Level) (l : EventLine) : List TickEvent :=
  (if l.cfg.budget ≠ l.inForce.budget then [.budgetChange n] else []) ++ (if l.cfg.filter ≠ l.inForce.filter then [.filterChange n] else [])
    ++ (if l.cfg.edge ≠ l.inForce.edge then [.edgeSelectChange n] else []) ++ (if (l.sampled sample).2 then [.edgeQualified n] else [])
    ++ if ¬ l.cfg.budget ≠ l.inForce.budget ∧ l.windowNext = Config.chatterWindow then [.chatterWindowEnd n] else []

theorem EventLine.sampled_eq (sample : Level) (l : EventLine) :
    (l.sampled sample).1 = { l with raw := sample, window := l.windowNext, qual := (l.sampled sample).1.qual } := by
  unfold EventLine.sampled
  split
  · rfl
  · rw [EventLine.sample_eq]

theorem EventLine.tick_enabled (n : Fin 16) (sample : Level) {l : EventLine} (hi : l.inForce.enabled = true) (hc : l.cfg.enabled = true) :
    l.tick n sample = ((l.sampled sample).1, l.dueEvents n sample) := by
  have hw : (l.sampled sample).1.window = l.windowNext := by rw [EventLine.sampled_eq]
  unfold EventLine.dueEvents
  rw [← hw]
  unfold EventLine.tick EventLine.sampled EventLine.windowNext
  simp only [hi, hc, if_true]
  by_cases hb : l.cfg.budget = l.inForce.budget <;> simp [hb]

theorem EventLine.tick_disabled (n : Fin 16) (sample : Level) {l : EventLine} (hi : l.inForce.enabled = false) (hc : l.cfg.enabled = false) :
    l.tick n sample = ({ l with raw := sample, inForce := l.cfg }, []) := by
  simp [EventLine.tick, hi, hc]

theorem EventLine.tick_enabling (n : Fin 16) (sample : Level) {l : EventLine} (hi : l.inForce.enabled = false) (hc : l.cfg.enabled = true) :
    l.tick n sample = ({ l with raw := sample }, [.lineEnable n]) := by
  simp [EventLine.tick, hi, hc]

theorem EventLine.tick_disabling (n : Fin 16) (sample : Level) {l : EventLine} (hi : l.inForce.enabled = true) (hc : l.cfg.enabled = false) :
    l.tick n sample = ({ l with raw := sample }, [.lineDisable n]) := by
  simp [EventLine.tick, hi, hc]

/-- A tick leaves the sample as the raw level, and the tracked level as it was. -/
theorem EventLine.tick_raw_tracked (n : Fin 16) (sample : Level) (l : EventLine) :
    (l.tick n sample).1.raw = sample ∧ (l.tick n sample).1.tracked = l.tracked := by
  cases hi : l.inForce.enabled <;> cases hc : l.cfg.enabled
  · rw [EventLine.tick_disabled n sample hi hc]; exact ⟨rfl, rfl⟩
  · rw [EventLine.tick_enabling n sample hi hc]; exact ⟨rfl, rfl⟩
  · rw [EventLine.tick_disabling n sample hi hc]; exact ⟨rfl, rfl⟩
  · rw [EventLine.tick_enabled n sample hi hc, EventLine.sampled_eq]; exact ⟨rfl, rfl⟩

/-- The events a line's tick makes due belong to that line. -/
theorem EventLine.tick_inputLine {n : Fin 16} {sample : Level} {l : EventLine} {e : TickEvent} (h : e ∈ (l.tick n sample).2) :
    e.inputLine? = some n := by
  cases hi : l.inForce.enabled <;> cases hc : l.cfg.enabled
  · rw [EventLine.tick_disabled n sample hi hc] at h; cases h
  · rw [EventLine.tick_enabling n sample hi hc] at h
    obtain rfl := List.mem_singleton.mp h
    rfl
  · rw [EventLine.tick_disabling n sample hi hc] at h
    obtain rfl := List.mem_singleton.mp h
    rfl
  · rw [EventLine.tick_enabled n sample hi hc] at h
    simp only [EventLine.dueEvents, List.mem_append, List.mem_ite_nil_right, List.mem_singleton] at h
    rcases h with (((⟨_, rfl⟩ | ⟨_, rfl⟩) | ⟨_, rfl⟩) | ⟨_, rfl⟩) | ⟨_, rfl⟩ <;> rfl

/-- Which of its own events a line's tick makes due (R24, R26 to R28, R31 to R33). -/
theorem EventLine.mem_tick (n : Fin 16) (sample : Level) (l : EventLine) :
    let stays := l.inForce.enabled = true ∧ l.cfg.enabled = true
    (.lineEnable n ∈ (l.tick n sample).2 ↔ l.inForce.enabled = false ∧ l.cfg.enabled = true)
      ∧ (.lineDisable n ∈ (l.tick n sample).2 ↔ l.inForce.enabled = true ∧ l.cfg.enabled = false)
      ∧ (.budgetChange n ∈ (l.tick n sample).2 ↔ stays ∧ l.cfg.budget ≠ l.inForce.budget)
      ∧ (.filterChange n ∈ (l.tick n sample).2 ↔ stays ∧ l.cfg.filter ≠ l.inForce.filter)
      ∧ (.edgeSelectChange n ∈ (l.tick n sample).2 ↔ stays ∧ l.cfg.edge ≠ l.inForce.edge)
      ∧ (.edgeQualified n ∈ (l.tick n sample).2 ↔ stays ∧ (l.sampled sample).2 = true)
      ∧ (.chatterWindowEnd n ∈ (l.tick n sample).2
          ↔ stays ∧ l.cfg.budget = l.inForce.budget ∧ l.windowNext = Config.chatterWindow) := by
  cases hi : l.inForce.enabled <;> cases hc : l.cfg.enabled
  · rw [EventLine.tick_disabled n sample hi hc]; simp
  · rw [EventLine.tick_enabling n sample hi hc]; simp
  · rw [EventLine.tick_disabling n sample hi hc]; simp
  · rw [EventLine.tick_enabled n sample hi hc]
    simp [EventLine.dueEvents]

/-! ### The state a tick leaves -/

/-- The timebase as a tick leaves it (R1, R2, R12). -/
def tickTime (t : Timebase) : Timebase :=
  { t with
    partTime := nextPartTime t.partTime, acc := t.acc - 1
    stepDue := decide (nextPartTime t.partTime % Config.boundary = 0) && t.step.isSome }

/-- The state a tick leaves, before what it makes due is listed. -/
def ticked (s : State) : State := sampleLines (countTick (s.setTime (tickTime s.time)))

/-- The events a tick makes due, in the order in which they are listed. -/
def madeDue (s : State) : List TickEvent :=
  captureEvents (ticked s) ++ immediateEvents (ticked s) ++ pulseEvents (ticked s) ++ dueEvents (ticked s)
    ++ lineEvents (s.setTime (tickTime s.time)) ++ delayEvents (ticked s) ++ lapseEvents (ticked s)

theorem issueTick_eq (s : State) : issueTick s = { ticked s with tickWork := s.tickWork ++ madeDue s } := rfl

/-- The row TICK where the next tick is due and nothing before it is. -/
theorem exec_tick_due {s : State} (h : nextEvent s = some .tick) (levels : BitVec 16) :
    exec (.tick levels) s = .next (conclude (issueTick { s with evPins := levels })) := by
  obtain ⟨_, _, _, _, _, hacc⟩ := nextEvent_tick h
  have hd : drainBelow 6 s = s := drain_of_not_below h (Nat.le_refl 6) _
  change execTick levels s = _
  unfold execTick
  rw [if_pos hacc, hd]

theorem line_ticked (s : State) (n : Fin 16) : (ticked s).line n = ((s.line n).tick n (pinLevel s.evPins n)).1 := by
  change (Vector.ofFn fun n => ((s.line n).tick n (pinLevel s.evPins n)).1)[n] = _
  simp

theorem out_ticked (s : State) (k : Fin 8) : (ticked s).out k = (s.out k).countDown := by
  change (s.outs.map OutLine.countDown)[k] = s.outs[k].countDown
  simp

theorem entry_ticked (s : State) (i : Fin 64) : (ticked s).entry i = (s.entry i).map Entry.countDown := by
  change ((s.schedule.slots.map _)[i] : Slot).entry = _
  simp [State.entry]

theorem handle_ticked (s : State) (i : Fin 64) : (ticked s).handle i = s.handle i := by
  change Handle.mk i ((s.schedule.slots.map _)[i] : Slot).generation = Handle.mk i (s.schedule.slots[i]).generation
  simp

theorem session_ticked (s : State) (p : Port) : (ticked s).session p = (s.session p).map Session.countDown := by
  have h : (ticked s).ports = s.ports.map fun x => { x with session := x.session.map Session.countDown } := rfl
  simp [State.session, State.port, h]

theorem pinLevel_eq (pins : BitVec 16) (n : Fin 16) : pinLevel pins n = if pins.getLsbD n.val then .high else .low := rfl

theorem nextPartTime_eq (t : Nat) : nextPartTime t = if t < 2 ^ 64 - 1 then t + 1 else t := rfl

/-- Counting an immediate pulse down does not move the drive. -/
theorem OutLine.formed_countDown (o : OutLine) (x : PermitState) : o.countDown.formed x = (o.formed x).countDown := rfl

/-- The lines a tick leaves: their drives stay, their immediate pulses count down. -/
theorem out_conclude_issueTick {s : State} (h : nextEvent s = some .tick) (hl : LevelsFormed s) (levels : BitVec 16) (k : Fin 8) :
    (conclude (issueTick { s with evPins := levels })).out k = (s.out k).countDown := by
  have ho : (issueTick { s with evPins := levels }).out k = (s.out k).countDown := out_ticked _ k
  have hm : (issueTick { s with evPins := levels }).permit.state = s.permit.state := rfl
  have hr : (issueTick { s with evPins := levels }).rstn = s.rstn := rfl
  unfold State.out at ho ⊢
  rw [conclude_outs, hm, hr]
  split
  · next hc =>
    simp only [Bool.and_eq_true, beq_iff_eq] at hc
    have hs := congrArg State.outs (hl.2 hc.2 (tickOpen_of_nil (nextEvent_tick h).1))
    have hk : (s.outs[k]).formed s.permit.state = s.outs[k] := by
      have := congrArg (fun v : Vector OutLine 8 => v[k]) hs
      simpa using this
    simp only [Fin.getElem_fin, Vector.getElem_map] at ho hk ⊢
    rw [ho, OutLine.formed_countDown, hk]
  · exact ho

/-- Settles O22, field by field. -/
theorem tickAdvances : Obligations.TickAdvances := by
  intro s levels h hl
  dsimp only
  refine ⟨_, exec_tick_due h levels, ?_, ?_, fun n => ?_, fun k => out_conclude_issueTick h hl levels k, fun i => ?_, fun i => ?_, ?_,
    fun p => ?_, ?_, ?_⟩
  · rw [conclude_time]
    rfl
  · rw [conclude_evPins]
    rfl
  · have hn : (conclude (issueTick { s with evPins := levels })).line n = ((s.line n).tick n (pinLevel levels n)).1 := by
      unfold State.line
      rw [conclude_lines]
      exact line_ticked { s with evPins := levels } n
    rw [hn, ← pinLevel_eq]
    obtain ⟨hraw, htracked⟩ := EventLine.tick_raw_tracked n (pinLevel levels n) (s.line n)
    exact ⟨hraw, EventLine.tick_cfg n _ _, htracked⟩
  · unfold State.entry
    rw [conclude_schedule]
    exact entry_ticked { s with evPins := levels } i
  · unfold State.handle
    rw [conclude_schedule]
    exact handle_ticked { s with evPins := levels } i
  · rw [conclude_permit]
    rfl
  · rw [conclude_session]
    exact session_ticked { s with evPins := levels } p
  · exact fun p => by
      have h1 := (kept_issueTick { s with evPins := levels }).trans ((kept_conclude _).mono (sub_of_all rfl))
      exact h1.links p
  · intro b hb
    cases b <;> first | exact absurd (by decide) hb | skip
    · exact conclude_journal _
    · exact conclude_claims _
    · exact conclude_conditions _
    · exact conclude_rstn _
    · exact conclude_freeUses _
    · exact conclude_pending _

/-! ### What is made due -/

theorem mem_captureEvents {s : State} {e : TickEvent} :
    e ∈ captureEvents s ↔ ∃ p, (s.time.strobes.get p).armed = true ∧ .strobeCapture p = e := by
  have hall : ∀ p, p ∈ allPorts := fun p => by cases p <;> decide
  simp [captureEvents, hall]

theorem mem_immediateEvents {s : State} {e : TickEvent} :
    e ∈ immediateEvents s ↔ ∃ k, (∃ q, (s.out k).pulse = some q ∧ q.left = 0) ∧ .immediatePulseEnd k = e := by
  simp only [immediateEvents, List.mem_map, List.mem_filter, List.mem_finRange, true_and]
  refine exists_congr fun k => and_congr_left fun _ => ?_
  split
  · next q hq => simp [hq]
  · next hq => simp [hq]

theorem mem_pulseEvents {s : State} {e : TickEvent} :
    e ∈ pulseEvents s ↔ ∃ i, (∃ x r, s.entry i = some x ∧ x.running = some r ∧ r.left = 0) ∧ .pulseEnd i = e := by
  simp only [pulseEvents, List.mem_map, mem_byAdmission, mem_slotsWhere]
  refine exists_congr fun i => and_congr_left fun _ => exists_congr fun x => ?_
  split
  · next r hr => simp [hr]
  · next hr => simp [hr]

theorem mem_dueEvents {s : State} {e : TickEvent} :
    e ∈ dueEvents s
      ↔ ∃ i, (∃ x, s.entry i = some x ∧ (x.state = .pending ∨ x.state = .pulsing) ∧ x.due = some s.time.partTime) ∧ .entryDue i = e := by
  simp only [dueEvents, List.mem_map, mem_byDue, mem_slotsWhere]
  refine exists_congr fun i => and_congr_left fun _ => exists_congr fun x => and_congr_right fun _ => ?_
  simp only [Entry.inDueOrder, Bool.and_eq_true, Bool.or_eq_true, beq_iff_eq]
  exact ⟨fun ⟨⟨h1, _⟩, h2⟩ => ⟨h1, h2⟩, fun ⟨h1, h2⟩ => ⟨⟨h1, by rw [h2]; rfl⟩, h2⟩⟩

theorem mem_delayEvents {s : State} {e : TickEvent} :
    e ∈ delayEvents s ↔ (s.permit.state = .arming ∧ s.permit.timer = some 0) ∧ .delayExpired = e := by
  unfold delayEvents
  rw [List.mem_ite_nil_right, List.mem_singleton, eq_comm (a := e)]

theorem mem_lapseEvents {s : State} {e : TickEvent} :
    e ∈ lapseEvents s ↔ ∃ p, (∃ x, s.session p = some x ∧ x.liveness = .live ∧ x.deadline = some 0) ∧ .lapse p = e := by
  have hall : ∀ p, p ∈ allPorts := fun p => by cases p <;> decide
  simp only [lapseEvents, List.mem_map, List.mem_filter, hall, true_and]
  refine exists_congr fun p => and_congr_left fun _ => ?_
  split
  · next x hx => simp [hx]
  · next hx => simp [hx]

theorem mem_lineEvents {s : State} {e : TickEvent} :
    e ∈ lineEvents s ↔ ∃ n, e.inputLine? = some n ∧ e ∈ ((s.line n).tick n (pinLevel s.evPins n)).2 := by
  simp only [lineEvents, List.mem_flatMap, List.mem_finRange, true_and]
  exact exists_congr fun n => ⟨fun h => ⟨EventLine.tick_inputLine h, h⟩, fun h => h.2⟩

/-- What is listed after a tick. -/
theorem mem_tickWork_issueTick {s : State} (h : s.tickWork = []) {e : TickEvent} :
    e ∈ (conclude (issueTick s)).tickWork ↔ e ∈ madeDue s := by
  rw [conclude_tickWork, issueTick_eq, h]
  exact Iff.rfl

theorem mem_madeDue {s : State} {e : TickEvent} :
    e ∈ madeDue s
      ↔ (∃ p, (s.time.strobes.get p).armed = true ∧ .strobeCapture p = e)
        ∨ (∃ k, (∃ q, ((ticked s).out k).pulse = some q ∧ q.left = 0) ∧ .immediatePulseEnd k = e)
        ∨ (∃ i, (∃ x r, (ticked s).entry i = some x ∧ x.running = some r ∧ r.left = 0) ∧ .pulseEnd i = e)
        ∨ (∃ i, (∃ x, (ticked s).entry i = some x ∧ (x.state = .pending ∨ x.state = .pulsing) ∧ x.due = some (ticked s).time.partTime)
            ∧ .entryDue i = e)
        ∨ (∃ n, e.inputLine? = some n ∧ e ∈ ((s.line n).tick n (pinLevel s.evPins n)).2)
        ∨ (((ticked s).permit.state = .arming ∧ (ticked s).permit.timer = some 0) ∧ .delayExpired = e)
        ∨ (∃ p, (∃ x, (ticked s).session p = some x ∧ x.liveness = .live ∧ x.deadline = some 0) ∧ .lapse p = e) := by
  simp only [madeDue, List.mem_append, mem_captureEvents, mem_immediateEvents, mem_pulseEvents, mem_dueEvents, mem_lineEvents,
    mem_delayEvents, mem_lapseEvents, or_assoc]
  exact Iff.rfl

/-- A line event is due after a tick where the line's own tick makes it due. -/
theorem mem_madeDue_line {s : State} {e : TickEvent} {n : Fin 16} (he : e.inputLine? = some n) :
    e ∈ madeDue s ↔ e ∈ ((s.line n).tick n (pinLevel s.evPins n)).2 := by
  rw [mem_madeDue]
  cases e <;> simp_all [TickEvent.inputLine?]

/-- Settles O23, list by list. -/
theorem tickMakesDue : Obligations.TickMakesDue := by
  intro s levels h
  have hw : ({ s with evPins := levels } : State).tickWork = [] := (nextEvent_tick h).1
  have hmem := fun e => mem_tickWork_issueTick hw (e := e)
  have hpulse : ∀ k, ((conclude (issueTick { s with evPins := levels })).out k).pulse = ((ticked { s with evPins := levels }).out k).pulse :=
    fun k => by
      unfold State.out
      rw [conclude_outs]
      split
      · simp only [Fin.getElem_fin, Vector.getElem_map]; rfl
      · rfl
  have hentry : ∀ i, (conclude (issueTick { s with evPins := levels })).entry i = (ticked { s with evPins := levels }).entry i := fun i => by
    unfold State.entry; rw [conclude_schedule]; rfl
  have hsess : ∀ p, (conclude (issueTick { s with evPins := levels })).session p = (ticked { s with evPins := levels }).session p := fun p => by
    rw [conclude_session]; rfl
  refine ⟨_, exec_tick_due h levels, fun p => ?_, fun k => ?_, fun i => ?_, fun i => ?_, ?_, fun p => ?_, fun n => ?_, fun n => ?_, fun n => ?_⟩
  · rw [hmem, mem_madeDue]; simp [TickEvent.inputLine?]
  · rw [hmem, mem_madeDue, hpulse]; simp [TickEvent.inputLine?]
  · rw [hmem, mem_madeDue, hentry]; simp [TickEvent.inputLine?]
  · rw [hmem, mem_madeDue, hentry, conclude_time]; simp [TickEvent.inputLine?]; rfl
  · rw [hmem, mem_madeDue, conclude_permit]; simp [TickEvent.inputLine?]; rfl
  · rw [hmem, mem_madeDue, hsess]; simp [TickEvent.inputLine?]
  · rw [hmem, mem_madeDue_line rfl]
    exact (EventLine.mem_tick n _ _).1
  · rw [hmem, mem_madeDue_line rfl]
    exact (EventLine.mem_tick n _ _).2.1
  · obtain ⟨_, _, hbudget, hfilter, hedge, hqualified, hwindow⟩ := EventLine.mem_tick n (pinLevel levels n) (s.line n)
    dsimp only
    simp only [hmem]
    rw [mem_madeDue_line rfl, mem_madeDue_line rfl, mem_madeDue_line rfl, mem_madeDue_line rfl, mem_madeDue_line rfl]
    exact ⟨hbudget, hfilter, hedge, fun hn => ⟨fun he => hn (hqualified.mp he).1, fun he => hn (hwindow.mp he).1⟩⟩

/-- Settles O24: the line's own tick, by whether it is and stays enabled, then by its qualification. -/
theorem sampleQualifies : Obligations.SampleQualifies := by
  intro s levels n h
  dsimp only
  rw [← pinLevel_eq]
  generalize hv : pinLevel levels n = v
  have hw : ({ s with evPins := levels } : State).tickWork = [] := (nextEvent_tick h).1
  have hline : (conclude (issueTick { s with evPins := levels })).line n = ((s.line n).tick n v).1 := by
    unfold State.line
    rw [conclude_lines, ← hv]
    exact line_ticked { s with evPins := levels } n
  have hmem : ∀ e : TickEvent, e.inputLine? = some n →
      (e ∈ (conclude (issueTick { s with evPins := levels })).tickWork ↔ e ∈ ((s.line n).tick n v).2) := fun e he => by
    rw [mem_tickWork_issueTick hw, mem_madeDue_line he, ← hv]
    exact Iff.rfl
  obtain ⟨_, _, _, _, _, hqualified, hwindow⟩ := EventLine.mem_tick n v (s.line n)
  refine ⟨_, exec_tick_due h levels, fun hi hc => ?_, fun hne => ?_, fun hi hc => ?_⟩
  · rw [hline, EventLine.tick_disabled n v hi hc]
  · rw [hline]
    cases hi : (s.line n).inForce.enabled <;> cases hc : (s.line n).cfg.enabled <;> first | exact absurd (hi.trans hc.symm) hne | skip
    · rw [EventLine.tick_enabling n v hi hc]
    · rw [EventLine.tick_disabling n v hi hc]
  · have hnext : (if (s.line n).cfg.budget ≠ (s.line n).inForce.budget then (s.line n).window
        else if (s.line n).inForce.budget = 0 then 0
        else if (s.line n).window < 10000 then (s.line n).window + 1 else 1) = (s.line n).windowNext := rfl
    rw [hmem _ rfl, hmem _ rfl, hqualified, hwindow, hline, EventLine.tick_enabled n v hi hc, hnext]
    generalize s.line n = l at *
    refine ⟨EventLine.sampled_eq v l, ?_, fun hf => ?_, fun hf => ?_⟩
    · exact and_iff_right ⟨hi, hc⟩
    · rw [EventLine.sampled, if_pos hf]
      exact ⟨rfl, by simp [hi, hc]⟩
    · have hs : l.sampled v = { l with raw := v, window := l.windowNext }.sample := if_neg (not_not.mpr hf)
      rw [hs, hf]
      unfold EventLine.sample
      refine ⟨fun hq ht => ?_, fun hq ht h0 => ?_, fun hq ht h1 => ?_, fun c hq => ?_, fun c m hq hne => ?_⟩
      · simp [hq, ht]
      · simp [hq, ht, h0, hi, hc]
      · simp [hq, ht, Nat.ne_of_gt h1]
      · simp [hq, hi, hc]
      · simp [hq, hne.symm]

end Sys2Proof.Machine
end

section
/-! SUPPORT. What an operation of the schedule on one entry leaves, said as one piece of work: what is in the slot, what becomes of the line, the
records, the raises and the sessions. Pieces of work on one entry compose, and `lateTaken` is such a piece (R81 to R90, R93, R97, R100). -/

set_option Elab.async false

namespace Sys2Proof.Machine

/-! ### Lines and slots written twice -/

@[simp] theorem putEntry_putEntry (s : State) (i : Fin 64) (x y : Option Entry) : (s.putEntry i x).putEntry i y = s.putEntry i y := by
  unfold State.putEntry
  simp

theorem putEntry_entry {s : State} {i : Fin 64} {x : Option Entry} (h : s.entry i = x) : s.putEntry i x = s := by
  subst h
  have hs : s.schedule.slots.set i { s.schedule.slots[i] with entry := s.entry i } = s.schedule.slots := Vector.set_getElem_self _
  exact congrArg (fun v => { s with schedule := { s.schedule with slots := v } }) hs

@[simp] theorem setOut_setOut (s : State) (k : Fin 8) (x y : OutLine) : (s.setOut k x).setOut k y = s.setOut k y := by
  unfold State.setOut
  simp

@[simp] theorem out_setOut_same (s : State) (k : Fin 8) (x : OutLine) : (s.setOut k x).out k = x := by rw [out_setOut, if_pos rfl]

@[simp] theorem setOut_out (s : State) (k : Fin 8) : s.setOut k (s.out k) = s := by
  unfold State.setOut State.out
  simp

/-- A change of the line that an entry names, if it names one. -/
def modOut (l : Option (Fin 8)) (f : OutLine → OutLine) (s : State) : State := l.elim s fun k => s.setOut k (f (s.out k))

theorem modOut_modOut (l : Option (Fin 8)) (f g : OutLine → OutLine) (s : State) :
    modOut l g (modOut l f s) = modOut l (fun o => g (f o)) s := by
  cases l with
  | none => rfl
  | some k => simp [modOut]

theorem modOut_id (l : Option (Fin 8)) (s : State) : modOut l (fun o => o) s = s := by
  cases l with
  | none => rfl
  | some k => simp [modOut]

/-! ### A piece of work on one entry -/

/-- What an operation leaves of one entry: what is in its slot, what becomes of its line, what is stored and raised, and the ports. -/
structure Work where
  left    : Option Entry
  act     : OutLine → OutLine
  records : List (Origin × Body)
  raises  : List Condition
  ports   : PerPort PortState → PerPort PortState

/-- One piece of work after another, on the same entry. -/
def Work.andThen (w v : Work) : Work :=
  { left := v.left, act := fun o => v.act (w.act o), records := w.records ++ v.records, raises := w.raises ++ v.raises
    ports := fun x => v.ports (w.ports x) }

/-- The state with this work done on the entry in slot i, whose line is l, where the journal has room. -/
def State.worked (s : State) (i : Fin 64) (l : Option (Fin 8)) (w : Work) : State :=
  modOut l w.act
    ({ s with
      journal := s.journal.storing s.time.partTime (quality s) w.records
      conditions := { s.conditions with raises := s.conditions.raises ++ w.raises }
      ports := w.ports s.ports }.putEntry i w.left)

/-- The work needs nothing of the journal, or finds room there. -/
def Work.Fits (w : Work) (s : State) : Prop := (w.records = [] ∧ w.raises = []) ∨ RoomFor w.records.length s

/-- The operation from s to t is this work on the entry in slot i, whose line is l. -/
structure Works (s t : State) (i : Fin 64) (l : Option (Fin 8)) (w : Work) : Prop where
  schedule : t.schedule = (s.putEntry i w.left).schedule
  outs     : t.outs = (modOut l w.act s).outs
  all      : w.Fits s → t = s.worked i l w

theorem worked_worked (s : State) (i : Fin 64) (l : Option (Fin 8)) (w v : Work) :
    (s.worked i l w).worked i l v = s.worked i l (w.andThen v) := by
  have hj := storing_storing s.journal s.time.partTime (quality s) w.records v.records
  have hr := List.append_assoc s.conditions.raises w.raises v.raises
  cases l with
  | none =>
    simp only [State.worked, modOut, Option.elim, Work.andThen, State.putEntry]
    simp only [quality] at hj ⊢
    simp [hj]
  | some k =>
    simp only [State.worked, modOut, Option.elim, Work.andThen, State.putEntry, State.setOut, State.out]
    simp only [quality] at hj ⊢
    simp [hj]

@[simp] theorem modOut_schedule (l : Option (Fin 8)) (f : OutLine → OutLine) (s : State) : (modOut l f s).schedule = s.schedule := by
  cases l <;> rfl

@[simp] theorem modOut_rstn (l : Option (Fin 8)) (f : OutLine → OutLine) (s : State) : (modOut l f s).rstn = s.rstn := by cases l <;> rfl

@[simp] theorem modOut_journal (l : Option (Fin 8)) (f : OutLine → OutLine) (s : State) : (modOut l f s).journal = s.journal := by cases l <;> rfl

@[simp] theorem modOut_permit (l : Option (Fin 8)) (f : OutLine → OutLine) (s : State) : (modOut l f s).permit = s.permit := by cases l <;> rfl

@[simp] theorem modOut_time (l : Option (Fin 8)) (f : OutLine → OutLine) (s : State) : (modOut l f s).time = s.time := by cases l <;> rfl

/-- Lines are changed in place, whatever else of the state changed. -/
theorem modOut_outs_congr {s t : State} (h : t.outs = s.outs) (l : Option (Fin 8)) (f : OutLine → OutLine) :
    (modOut l f t).outs = (modOut l f s).outs := by
  cases l with
  | none => exact h
  | some k => simp only [modOut, Option.elim, State.setOut, State.out, h]

theorem Works.trans {s t u : State} {i : Fin 64} {l : Option (Fin 8)} {w v : Work} (h : Works s t i l w) (k : Works t u i l v) :
    Works s u i l (w.andThen v) := by
  refine ⟨?_, ?_, fun hf => ?_⟩
  · rw [k.schedule]
    unfold State.putEntry
    rw [h.schedule]
    simp [State.putEntry, Work.andThen]
  · rw [k.outs, modOut_outs_congr h.outs, modOut_modOut]
    rfl
  · have hw : w.Fits s := by
      rcases hf with ⟨h1, h2⟩ | hr
      · exact .inl ⟨(List.append_eq_nil_iff.mp h1).1, (List.append_eq_nil_iff.mp h2).1⟩
      · exact .inr (hr.mono (by simp [Work.andThen]))
    have ht := h.all hw
    have hv : v.Fits t := by
      rcases hf with ⟨h1, h2⟩ | hr
      · exact .inl ⟨(List.append_eq_nil_iff.mp h1).2, (List.append_eq_nil_iff.mp h2).2⟩
      · refine .inr (RoomFor.storing (s := s) (t := s.time.partTime) (q := quality s) (l := w.records) ?_ ?_ ?_)
        · simpa [Work.andThen, Nat.add_comm] using hr
        · rw [ht]; simp [State.worked]
        · rw [ht]; simp [State.worked]
    rw [k.all hv, ht, worked_worked]

theorem Works.entry {s t : State} {i : Fin 64} {l : Option (Fin 8)} {w : Work} (h : Works s t i l w) (j : Fin 64) :
    t.entry j = if j = i then w.left else s.entry j := by
  rw [entry_congr h.schedule, entry_putEntry]

theorem Works.handle {s t : State} {i : Fin 64} {l : Option (Fin 8)} {w : Work} (h : Works s t i l w) (j : Fin 64) :
    t.handle j = s.handle j := by
  rw [handle_congr h.schedule, handle_putEntry]

/-! ### The operations as work -/

/-- The work of putting an entry in place of itself. -/
def Work.put (x : Option Entry) : Work := { left := x, act := fun o => o, records := [], raises := [], ports := fun x => x }

/-- The work of storing a record and changing nothing. -/
def Work.record (e : Entry) (rs : List (Origin × Body)) : Work :=
  { left := some e, act := fun o => o, records := rs, raises := [], ports := fun x => x }

theorem worked_put (s : State) (i : Fin 64) (l : Option (Fin 8)) (x : Option Entry) : s.worked i l (.put x) = s.putEntry i x := by
  unfold State.worked Work.put
  rw [modOut_id]
  simp [State.putEntry]

theorem works_put (s : State) (i : Fin 64) (l : Option (Fin 8)) (x : Option Entry) : Works s (s.putEntry i x) i l (.put x) :=
  ⟨rfl, by rw [Work.put, modOut_id]; rfl, fun _ => (worked_put s i l x).symm⟩

theorem works_modEntry {s : State} {i : Fin 64} {e : Entry} (h : s.entry i = some e) (l : Option (Fin 8)) (f : Entry → Entry) :
    Works s (modEntry i f s) i l (.put (some (f e))) := by
  unfold modEntry
  rw [h]
  exact works_put s i l _

theorem works_refl {s : State} {i : Fin 64} {e : Entry} (h : s.entry i = some e) (l : Option (Fin 8)) :
    Works s s i l (.put (some e)) := by
  have := works_put s i l (some e)
  rwa [putEntry_entry h] at this

/-- An offer on an entry's behalf. -/
theorem works_offer {s : State} {i : Fin 64} {e : Entry} (h : s.entry i = some e) (l : Option (Fin 8)) (o : Origin) (b : Body) :
    Works s (offer o b s) i l (.record e [(o, b)]) := by
  refine ⟨?_, ?_, fun hf => ?_⟩
  · rw [Work.record, putEntry_entry h]
    exact (kept_offer o b s).unchanged .schedule (by decide)
  · rw [Work.record, modOut_id]
    exact (kept_offer o b s).unchanged .outs (by decide)
  · have hr : RoomFor 1 s := hf.resolve_left fun ⟨h1, _⟩ => by cases h1
    rw [offer_eq_storing hr]
    unfold State.worked Work.record
    rw [modOut_id]
    simp only [List.append_nil]
    exact (putEntry_entry (x := some e) (by exact h)).symm

/-- A raise handed on an entry's behalf, with RSTn HIGH. -/
def Work.raise (e : Entry) (c : Condition) : Work :=
  { left := some e, act := fun o => o, records := [], raises := [c], ports := fun x => x }

theorem works_handRaise {s : State} {i : Fin 64} {e : Entry} (h : s.entry i = some e) (l : Option (Fin 8)) (c : Condition) :
    Works s (handRaise c s) i l (.raise e c) := by
  refine ⟨?_, ?_, fun hf => ?_⟩
  · rw [Work.raise, putEntry_entry h]
    exact (kept_handRaise c s).unchanged .schedule (by decide)
  · rw [Work.raise, modOut_id]
    exact (kept_handRaise c s).unchanged .outs (by decide)
  · have hr : RoomFor 0 s := hf.resolve_left fun ⟨_, h2⟩ => by cases h2
    unfold handRaise State.worked Work.raise
    rw [if_neg (rstn_ne_low hr.rstn), modOut_id, storing_nil]
    exact (putEntry_entry (x := some e) (by exact h)).symm

/-- Attention raised on an entry's behalf. -/
def Work.notice (e : Entry) (f : PerPort PortState → PerPort PortState) : Work :=
  { left := some e, act := fun o => o, records := [], raises := [], ports := f }

/-- The ports with a latched member raised for the session open on one of them. -/
def noticeAt (n : Byte) (p : Port) (x : PerPort PortState) : PerPort PortState :=
  x.set p { x.get p with session := (x.get p).session.map (Session.notice n) }

theorem works_raiseNotice {s : State} {i : Fin 64} {e : Entry} (h : s.entry i = some e) (l : Option (Fin 8)) (n : Byte) (p : Port) :
    Works s (raiseNotice n p s) i l (.notice e (noticeAt n p)) := by
  refine ⟨?_, ?_, fun _ => ?_⟩
  · rw [Work.notice, putEntry_entry h]; rfl
  · rw [Work.notice, modOut_id]; rfl
  · unfold State.worked Work.notice
    rw [modOut_id, storing_nil]
    simp only [List.append_nil]
    exact (putEntry_entry (x := some e) (by exact h)).symm

/-- A level handed to the entry's line. -/
def Work.hand (e : Entry) (f : OutLine → OutLine) : Work :=
  { left := some e, act := f, records := [], raises := [], ports := fun x => x }

theorem works_modOut {s : State} {i : Fin 64} {e : Entry} (h : s.entry i = some e) (l : Option (Fin 8)) (f : OutLine → OutLine) :
    Works s (modOut l f s) i l (.hand e f) := by
  refine ⟨?_, rfl, fun _ => ?_⟩
  · rw [Work.hand, putEntry_entry h, modOut_schedule]
  · unfold State.worked Work.hand
    rw [storing_nil]
    simp only [List.append_nil]
    exact congrArg (modOut l f) (putEntry_entry (x := some e) (by exact h)).symm

/-- The end of a running pulse, as work (R85, R86). -/
theorem works_endPulse {s : State} {i : Fin 64} {e : Entry} (h : s.entry i = some e) :
    Works s (endPulse i s) i e.line
      { left := some { e with running := none }, act := pulseEnded e, records := [], raises := [], ports := fun x => x } := by
  cases hr : e.running with
  | none =>
    have he : ({ e with running := none } : Entry) = e := by rw [← hr]
    have ha : pulseEnded e = fun o => o := by unfold pulseEnded; rw [hr]
    have hp : endPulse i s = s := by unfold endPulse; simp only [h, hr]
    rw [he, ha, hp]
    exact works_refl h e.line
  | some r =>
    have hh : endPulse i s = modEntry i (fun e => { e with running := none }) (modOut e.line (pulseEnded e) s) := by
      unfold endPulse
      simp only [h, hr]
      unfold modOut pulseEnded
      rw [hr]
      cases e.line <;> rfl
    rw [hh]
    have h1 := works_modOut h e.line (pulseEnded e)
    exact h1.trans (works_modEntry (e := e) (by rw [h1.entry, if_pos rfl]; rfl) e.line _)

/-- What becomes of a line to which a firing hands its level (R83). -/
def fired (e : Entry) (o : OutLine) : OutLine :=
  if e.action = .mark then o else { o with commanded := levelFired e o.commanded, pulse := none }

theorem handFiring_eq (e : Entry) (s : State) : handFiring e s = modOut e.line (fired e) s := by
  unfold handFiring modOut fired
  cases e.line with
  | none => rfl
  | some k =>
    cases ha : e.action
    case mark => simp
    case toggle =>
      simp only [Option.elim, firedLevel, levelFired, ha]
      unfold handLevel toggled levelNot
      cases (s.out k).commanded <;> rfl
    all_goals
      simp only [Option.elim, firedLevel, levelFired, ha]
      rfl

/-- The FIRED record of a firing, where the entry's journal flag is set (R83). -/
def firedRecords (s : State) (i : Fin 64) (e : Entry) (late : Option Nat) : List (Origin × Body) :=
  if e.journalFlag then [(.master e.owner, .entryFired (s.handle i) e.action e.line late)] else []

/-- The raise of a firing that is too late (R84). -/
def lateRaises (s : State) (late : Option Nat) : List Condition := if tooLate late s then [.entryLate] else []

/-- A firing, as work (R83 to R85). -/
def Work.fire (s : State) (i : Fin 64) (e : Entry) (late : Option Nat) : Work :=
  { left := some { e with running := startedPulse e }, act := fired e, records := firedRecords s i e late, raises := lateRaises s late
    ports := if e.notifyFlag then noticeAt noticeEntry e.owner else fun x => x }

/-- An optional piece of work that leaves the entry in place. -/
theorem Works.maybe {s t : State} {i : Fin 64} {l : Option (Fin 8)} {e : Entry} (h : s.entry i = some e) {c : Bool} {w : Work}
    (k : Works s t i l w) : Works s (if c then t else s) i l (if c then w else .put (some e)) := by
  cases c
  · exact works_refl h l
  · exact k

theorem works_fire {s : State} {i : Fin 64} {e : Entry} (h : s.entry i = some e) (late : Option Nat) :
    Works s (fire i late s) i e.line (.fire s i e late) := by
  have h1 := works_modOut h e.line (fired e)
  have e1 : (modOut e.line (fired e) s).entry i = some e := by rw [h1.entry, if_pos rfl]; rfl
  have h2 := h1.trans (works_modEntry e1 e.line fun e => { e with running := startedPulse e })
  generalize hu : modEntry i (fun e => { e with running := startedPulse e }) (modOut e.line (fired e) s) = u at h2
  have e2 : u.entry i = some { e with running := startedPulse e } := by rw [h2.entry, if_pos rfl]; rfl
  have h3 := (works_offer e2 e.line (.master e.owner) (.entryFired (u.handle i) e.action e.line late)).maybe e2 (c := e.journalFlag)
  generalize hv : (if e.journalFlag = true then offer (.master e.owner) (.entryFired (u.handle i) e.action e.line late) u else u) = v at h3
  have e3 : v.entry i = some { e with running := startedPulse e } := by
    rw [h3.entry, if_pos rfl]; cases e.journalFlag <;> rfl
  have h4 := (works_handRaise e3 e.line .entryLate).maybe e3 (c := tooLate late v)
  generalize hx : (if tooLate late v = true then handRaise .entryLate v else v) = x at h4
  have e4 : x.entry i = some { e with running := startedPulse e } := by
    rw [h4.entry, if_pos rfl]; cases tooLate late v <;> rfl
  have h5 := (works_raiseNotice e4 e.line noticeEntry e.owner).maybe e4 (c := e.notifyFlag)
  have hfire : fire i late s = if e.notifyFlag then raiseNotice noticeEntry e.owner x else x := by
    unfold fire
    simp only [h, handFiring_eq]
    rw [hu, hv, hx]
  have hlate : tooLate late v = tooLate late s := by
    have hs : v.schedule.tolerance = s.schedule.tolerance := by
      rw [h3.schedule]
      show u.schedule.tolerance = _
      rw [h2.schedule]
      rfl
    unfold tooLate
    rw [hs]
  have hhandle : u.handle i = s.handle i := h2.handle i
  rw [hfire]
  have hall := ((h2.trans h3).trans h4).trans h5
  convert hall using 1
  rw [hlate, hhandle]
  unfold Work.fire firedRecords lateRaises
  cases e.journalFlag <;> cases tooLate late s <;> cases e.notifyFlag <;> rfl

/-- What is left of an entry once an occurrence is over (R85, R87 to R89). -/
def Entry.closed (e : Entry) : Option Entry :=
  if e.running.isSome then some { e with state := .pulsing }
  else if e.due.isSome then some { e with state := .pending }
  else if e.rearm then some e.rearmed
  else none

/-- The COMPLETED record of an entry of which nothing is left (R88). -/
def completedRecords (s : State) (i : Fin 64) (e : Entry) : List (Origin × Body) :=
  if e.closed = none then [(.master e.owner, .entryCompleted (s.handle i) e.action e.line)] else []

def Work.close (s : State) (i : Fin 64) (e : Entry) : Work :=
  { left := e.closed, act := fun o => o, records := completedRecords s i e, raises := [], ports := fun x => x }

theorem works_closeOccurrence {s : State} {i : Fin 64} {e : Entry} (h : s.entry i = some e) (l : Option (Fin 8)) :
    Works s (closeOccurrence i s) i l (.close s i e) := by
  have edits : ∀ f : Entry → Entry, closeOccurrence i s = modEntry i f s → e.closed = some (f e) →
      Works s (closeOccurrence i s) i l (.close s i e) := fun f hc hx => by
    rw [hc, Work.close, completedRecords, hx, if_neg (by simp)]
    exact works_modEntry h l f
  unfold Entry.closed at edits
  cases hr : e.running with
  | some r => exact edits _ (by unfold closeOccurrence; simp only [h, hr]; rfl) (by simp [hr])
  | none =>
    cases hd : e.due with
    | some d => exact edits _ (by unfold closeOccurrence; simp only [h, hr, hd]; rfl) (by simp [hr, hd])
    | none =>
      cases ha : e.rearm with
      | true => exact edits Entry.rearmed (by unfold closeOccurrence; simp only [h, hr, hd, ha, if_true]) (by simp [hr, hd, ha])
      | false =>
        have hc : closeOccurrence i s = (offer (.master e.owner) (.entryCompleted (s.handle i) e.action e.line) s).putEntry i none := by
          unfold closeOccurrence complete
          simp [h, hr, hd, ha]
        have hx : e.closed = none := by simp [Entry.closed, hr, hd, ha]
        rw [hc, Work.close, completedRecords, if_pos hx, hx]
        exact (works_offer h l _ _).trans (works_put _ i l none)

/-- The SKIPPED record of an occurrence that is skipped (R84). -/
def skippedRecords (s : State) (i : Fin 64) (e : Entry) : List (Origin × Body) :=
  if e.journalFlag then [(.master e.owner, .entrySkipped (s.handle i) e.action e.line)] else []

theorem works_skip {s : State} {i : Fin 64} {e : Entry} (h : s.entry i = some e) (l : Option (Fin 8)) :
    Works s (skip i s) i l (.record e (skippedRecords s i e)) := by
  unfold skip skippedRecords
  simp only [h]
  cases e.journalFlag
  · exact works_refl h l
  · exact works_offer h l _ _

/-! ### Occurrences -/

/-- An occurrence that is over: the entry moves on by k grid points and takes its next state, as work. -/
theorem works_advance {s : State} {i : Fin 64} {e : Entry} (h : s.entry i = some e) (l : Option (Fin 8)) (k : Nat) :
    Works s (closeOccurrence i (modEntry i (Entry.advance k) s)) i l (.close s i (e.advance k)) := by
  have h1 := works_modEntry h l (Entry.advance k)
  have e1 : (modEntry i (Entry.advance k) s).entry i = some (e.advance k) := by rw [h1.entry, if_pos rfl]; rfl
  have h2 := h1.trans (works_closeOccurrence e1 l)
  convert h2 using 1
  unfold Work.close completedRecords
  rw [h1.handle]
  rfl

/-- The work of `fireAtTick` (R82 to R89). -/
def Work.atTick (s : State) (i : Fin 64) (e : Entry) : Work :=
  let e0 : Entry := { e with running := none }
  let e1 : Entry := { e0 with running := startedPulse e0 }
  { left := (e1.advance 1).closed, act := fun o => fired e0 (pulseEnded e o)
    records := firedRecords s i e none ++ completedRecords s i (e1.advance 1), raises := []
    ports := if e.notifyFlag then noticeAt noticeEntry e.owner else fun x => x }

theorem works_fireAtTick {s : State} {i : Fin 64} {e : Entry} (h : s.entry i = some e) :
    Works s (fireAtTick i s) i e.line (.atTick s i e) := by
  have h1 := works_endPulse h
  have e1 : (endPulse i s).entry i = some { e with running := none } := by rw [h1.entry, if_pos rfl]
  have h2 := h1.trans (works_fire e1 none)
  have e2 : (fire i none (endPulse i s)).entry i = some { e with running := startedPulse { e with running := none } } := by
    rw [h2.entry, if_pos rfl]; rfl
  have h3 := h2.trans (works_advance e2 e.line 1)
  have hc : fireAtTick i s = closeOccurrence i (modEntry i (Entry.advance 1) (fire i none (endPulse i s))) := rfl
  rw [hc]
  convert h3 using 1
  unfold Work.close completedRecords
  rw [h2.handle]
  unfold Work.atTick Work.fire firedRecords completedRecords
  rw [h1.handle]
  unfold Work.andThen
  simp only [List.nil_append]
  cases e.notifyFlag <;> rfl

/-- The work of `catchUp` on an entry with a due time (R84, R86, R90). -/
def Work.caught (s : State) (T : Nat) (i : Fin 64) (e : Entry) (d : Nat) : Work :=
  let e0 : Entry := { e with running := none }
  let e1 : Entry := if e.late = .fireLate then { e0 with running := startedPulse e0 } else e0
  let e2 := e1.advance (gridPoints e.period d T)
  { left := e2.closed
    act := fun o => if e.late = .fireLate then fired e0 (pulseEnded e o) else pulseEnded e o
    records := (if e.late = .fireLate then firedRecords s i e (some (T - d)) else skippedRecords s i e) ++ completedRecords s i e2
    raises := if e.late = .fireLate then lateRaises s (some (T - d)) else []
    ports := if e.late = .fireLate ∧ e.notifyFlag = true then noticeAt noticeEntry e.owner else fun x => x }

theorem works_catchUp {s : State} {i : Fin 64} {e : Entry} {d : Nat} (h : s.entry i = some e) (hd : e.due = some d) (T : Nat) :
    Works s (catchUp T i s) i e.line (.caught s T i e d) := by
  have h1 := works_endPulse h
  have e1 : (endPulse i s).entry i = some { e with running := none } := by rw [h1.entry, if_pos rfl]
  have htol : (endPulse i s).schedule.tolerance = s.schedule.tolerance := by rw [h1.schedule]; rfl
  have hlate : lateRaises (endPulse i s) (some (T - d)) = lateRaises s (some (T - d)) := by
    unfold lateRaises tooLate; rw [htol]
  cases hl : e.late with
  | fireLate =>
    have hc : catchUp T i s
        = closeOccurrence i (modEntry i (Entry.advance (gridPoints e.period d T)) (fire i (some (T - d)) (endPulse i s))) := by
      unfold catchUp
      simp only [e1, hd, hl]
    have h2 := h1.trans (works_fire e1 (some (T - d)))
    have e2 : (fire i (some (T - d)) (endPulse i s)).entry i = some { e with running := startedPulse { e with running := none } } := by
      rw [h2.entry, if_pos rfl]; rfl
    have h3 := h2.trans (works_advance e2 e.line (gridPoints e.period d T))
    rw [hc]
    convert h3 using 1
    unfold Work.close completedRecords
    rw [h2.handle]
    unfold Work.caught Work.fire firedRecords completedRecords
    rw [h1.handle, hlate, hl]
    unfold Work.andThen
    simp only [List.nil_append, if_true, true_and, List.append_nil]
  | skip =>
    have hc : catchUp T i s
        = closeOccurrence i (modEntry i (Entry.advance (gridPoints e.period d T)) (skip i (endPulse i s))) := by
      unfold catchUp
      simp only [e1, hd, hl]
    have h2 := h1.trans (works_skip e1 e.line)
    have e2 : (skip i (endPulse i s)).entry i = some { e with running := none } := by rw [h2.entry, if_pos rfl]; rfl
    have h3 := h2.trans (works_advance e2 e.line (gridPoints e.period d T))
    rw [hc]
    convert h3 using 1
    unfold Work.close completedRecords
    rw [h2.handle]
    unfold Work.caught Work.record skippedRecords completedRecords
    rw [h1.handle, hl]
    unfold Work.andThen
    simp only [List.nil_append, reduceCtorEq, if_false, false_and, List.append_nil]

/-- The work of `defer` (R97). -/
def Work.deferred (e : Entry) : Work :=
  { left := some { e with state := .deferred, running := none }, act := pulseEnded e, records := [], raises := [], ports := fun x => x }

theorem works_defer {s : State} {i : Fin 64} {e : Entry} (h : s.entry i = some e) : Works s (defer i s) i e.line (.deferred e) := by
  have h1 := works_endPulse h
  exact h1.trans (works_modEntry (e := { e with running := none }) (by rw [h1.entry, if_pos rfl]) e.line fun e => { e with state := .deferred })

/-- The work of `takeLate` on an entry with a due time (R81, R91, R93, R97). -/
def Work.late (s : State) (T : Nat) (i : Fin 64) (e : Entry) (d : Nat) : Work :=
  if deferredNow s e then .deferred e else .caught s T i e d

theorem works_takeLate {s : State} {i : Fin 64} {e : Entry} {d : Nat} (h : s.entry i = some e) (hd : e.due = some d) (T : Nat) :
    Works s (takeLate T s i) i e.line (.late s T i e d) := by
  unfold takeLate Work.late
  simp only [h]
  split
  · exact works_defer h
  · exact works_catchUp h hd T

end Sys2Proof.Machine
end

section
/-! SUPPORT. `caughtUp` and `lateTaken` are the work that `catchUp` and `takeLate` do; then what an entry does that fires, is deferred, whose
pulse ends, or that is cancelled (O36 to O38). -/

set_option Elab.async false

namespace Sys2Proof.Machine

/-! ### The next occurrence -/

/-- The due time k grid points on, where there is a next occurrence (R87). -/
def nextDue (e : Entry) (k d : Nat) : Option Nat :=
  e.period.elim none fun q => if (e.remaining.map fun n => n - k) = some 0 ∨ 2 ^ 64 - 1 < d + k * q then none else some (d + k * q)

/-- The remaining count k grid points on (R87). -/
def nextRemaining (e : Entry) (k : Nat) : Option Nat := if e.period.isSome then e.remaining.map fun n => n - k else e.remaining

theorem advance_eq {e : Entry} {d : Nat} (h : e.due = some d) (k : Nat) :
    e.advance k = { e with due := nextDue e k d, remaining := nextRemaining e k } := by
  unfold Entry.advance nextDue nextRemaining
  cases hp : e.period with
  | none => simp
  | some q => simp only [h]; rfl

/-- What is left of an entry that moves on by k grid points, its pulse ended or begun (R85 to R90). -/
def movedOn (e : Entry) (running : Option RunningPulse) (k d : Nat) : Option Entry :=
  if running.isSome then some { e with due := nextDue e k d, remaining := nextRemaining e k, state := .pulsing, running := running }
  else if (nextDue e k d).isSome then
    some { e with due := nextDue e k d, remaining := nextRemaining e k, state := .pending, running := none }
  else if e.rearm then some { e with due := none, remaining := e.initial, state := .awaitingTrigger, running := none }
  else none

theorem closed_advance {e : Entry} {d : Nat} (h : e.due = some d) (running : Option RunningPulse) (k : Nat) :
    (({ e with running := running } : Entry).advance k).closed = movedOn e running k d := by
  rw [advance_eq (e := { e with running := running }) h]
  unfold Entry.closed movedOn
  cases running with
  | some r => rfl
  | none =>
    have hn : nextDue { e with running := none } k d = nextDue e k d := rfl
    rw [hn]
    dsimp only [Option.isSome]
    cases hd : nextDue e k d <;> rfl

theorem startedPulse_eq (e : Entry) :
    startedPulse { e with running := none }
      = if e.action = .pulse then some { left := e.width, trailing := if e.pulseLevel = .high then .low else .high } else none := by
  unfold startedPulse
  cases ha : e.action
  case pulse =>
    dsimp only
    rw [if_pos rfl]
    unfold levelNot
    cases e.pulseLevel <;> rfl
  all_goals rfl

/-- The running pulse of a late occurrence: begun where it fires and is a PULSE. -/
def lateRunning (e : Entry) : Option RunningPulse := if e.late = .fireLate then startedPulse { e with running := none } else none

theorem lateRunning_eq (e : Entry) :
    lateRunning e
      = if e.late = .fireLate ∧ e.action = .pulse then some { left := e.width, trailing := if e.pulseLevel = .high then .low else .high }
        else none := by
  unfold lateRunning
  rw [startedPulse_eq]
  by_cases hl : e.late = .fireLate
  · simp [hl]
  · simp [hl]

/-- The work of a late occurrence, with what is left of the entry and the COMPLETED record written by `movedOn`. -/
theorem caught_eq {e : Entry} {d : Nat} (hd : e.due = some d) (s : State) (T : Nat) (i : Fin 64) :
    Work.caught s T i e d
      = { left := movedOn e (lateRunning e) (gridPoints e.period d T) d
          act := fun o => if e.late = .fireLate then fired e (pulseEnded e o) else pulseEnded e o
          records :=
            (if e.late = .fireLate then firedRecords s i e (some (T - d)) else skippedRecords s i e)
              ++ if movedOn e (lateRunning e) (gridPoints e.period d T) d = none then
                [(.master e.owner, .entryCompleted (s.handle i) e.action e.line)] else []
          raises := if e.late = .fireLate then lateRaises s (some (T - d)) else []
          ports := if e.late = .fireLate ∧ e.notifyFlag = true then noticeAt noticeEntry e.owner else fun x => x } := by
  have hr : (if e.late = .fireLate then { ({ e with running := none } : Entry) with running := startedPulse { e with running := none } }
      else { e with running := none }) = { e with running := lateRunning e } := by
    unfold lateRunning
    split <;> rfl
  have hc : ∀ k : Nat, (({ e with running := lateRunning e } : Entry).advance k).owner = e.owner
      ∧ (({ e with running := lateRunning e } : Entry).advance k).action = e.action
      ∧ (({ e with running := lateRunning e } : Entry).advance k).line = e.line := fun k => by
    rw [advance_eq (e := { e with running := lateRunning e }) hd]
    exact ⟨rfl, rfl, rfl⟩
  obtain ⟨ho, ha, hl⟩ := hc (gridPoints e.period d T)
  unfold Work.caught completedRecords
  simp only [hr, closed_advance hd, ho, ha, hl]
  rfl

/-- What becomes of the line of a late occurrence (R83 to R86). -/
def lateActed (e : Entry) (o : OutLine) : OutLine :=
  if e.late = .fireLate ∧ e.action ≠ .mark then
    { pulseEnded e o with commanded := levelFired e (pulseEnded e o).commanded, pulse := none }
  else pulseEnded e o

theorem lateActed_eq (e : Entry) :
    lateActed e = fun o => if e.late = .fireLate then fired e (pulseEnded e o) else pulseEnded e o := by
  funext o
  unfold lateActed fired
  by_cases hl : e.late = .fireLate
  · by_cases ha : e.action = .mark <;> simp [hl, ha]
  · simp [hl]

/-- The FIRED or SKIPPED record of a late occurrence (R84). -/
def occurredRecords (s : State) (i : Fin 64) (e : Entry) (late : Nat) : List (Origin × Body) :=
  if e.journalFlag = true then
    [(.master e.owner,
      if e.late = .fireLate then .entryFired (s.handle i) e.action e.line (some late) else .entrySkipped (s.handle i) e.action e.line)]
  else []

theorem occurredRecords_eq (s : State) (i : Fin 64) (e : Entry) (late : Nat) :
    occurredRecords s i e late = if e.late = .fireLate then firedRecords s i e (some late) else skippedRecords s i e := by
  unfold occurredRecords firedRecords skippedRecords
  by_cases hl : e.late = .fireLate <;> simp [hl]

/-- The COMPLETED record of an entry of which nothing is left (R88). -/
def goneRecords (s : State) (i : Fin 64) (e : Entry) (left : Option Entry) : List (Origin × Body) :=
  if left = none then [(.master e.owner, .entryCompleted (s.handle i) e.action e.line)] else []

/-- The raise of a late occurrence that fires past the tolerance (R84). -/
def lateRaised (s : State) (e : Entry) (late : Nat) : List Condition :=
  if e.late = .fireLate ∧ s.schedule.tolerance < late then [.entryLate] else []

theorem lateRaised_eq (s : State) (e : Entry) (late : Nat) :
    lateRaised s e late = if e.late = .fireLate then lateRaises s (some late) else [] := by
  unfold lateRaised lateRaises tooLate
  by_cases hl : e.late = .fireLate <;> simp [hl]

/-- `caughtUp` by what it leaves of the entry. -/
def caughtLeaving (s : State) (i : Fin 64) (e : Entry) (d : Nat) (left : Option Entry) : State :=
  let u : State :=
    modOut e.line (lateActed e)
      ({ s with
        journal := s.journal.storing s.time.partTime (quality s)
          (occurredRecords s i e (s.time.partTime - d) ++ goneRecords s i e left)
        conditions := { s.conditions with raises := s.conditions.raises ++ lateRaised s e (s.time.partTime - d) } }.putEntry i left)
  if e.late = .fireLate ∧ e.notifyFlag = true then
    u.setSession e.owner ((s.session e.owner).map fun x => { x with notices := x.notices ||| 0x10#8 })
  else u

theorem caughtLeaving_eq (s : State) (i : Fin 64) (e : Entry) (d : Nat) (left : Option Entry) :
    caughtLeaving s i e d left
      = s.worked i e.line
          { left := left
            act := lateActed e
            records := occurredRecords s i e (s.time.partTime - d) ++ goneRecords s i e left
            raises := lateRaised s e (s.time.partTime - d)
            ports := if e.late = .fireLate ∧ e.notifyFlag = true then noticeAt noticeEntry e.owner else fun x => x } := by
  unfold caughtLeaving State.worked
  by_cases hn : e.late = .fireLate ∧ e.notifyFlag = true
  · simp only [if_pos hn]
    cases e.line <;> rfl
  · simp only [if_neg hn]

/-- What the statements say of a late occurrence is the work it does. -/
theorem caughtUp_eq {e : Entry} {d : Nat} (hd : e.due = some d) (s : State) (i : Fin 64) :
    caughtUp s i e d = s.worked i e.line (.caught s s.time.partTime i e d) := by
  have hleaving : ∀ left, left = movedOn e (lateRunning e) (gridPoints e.period d s.time.partTime) d →
      caughtLeaving s i e d left = s.worked i e.line (.caught s s.time.partTime i e d) := fun left h => by
    rw [h, caughtLeaving_eq, caught_eq hd, lateActed_eq, occurredRecords_eq, lateRaised_eq]
    rfl
  unfold caughtUp
  extract_lets T fires k remaining next left own records acted conditions stored placed lined
  have hk : k = gridPoints e.period d s.time.partTime := rfl
  have hremaining : remaining = nextRemaining e k := rfl
  have hnext : next = nextDue e k d := by
    clear_value k
    dsimp only [next, remaining]
    unfold nextDue
    split
    · next h => simp only [h]; rfl
    · next q h => simp only [h]; rfl
  have hleft : left = movedOn e (lateRunning e) k d := by
    dsimp only [left, fires]
    rw [hremaining, hnext]
    unfold movedOn
    rw [lateRunning_eq]
    by_cases hf : e.late = .fireLate ∧ e.action = .pulse
    · rw [if_pos hf, if_pos hf]; rfl
    · rw [if_neg hf, if_neg hf]; rfl
  have hlined : lined = modOut e.line (lateActed e) placed := by
    dsimp only [lined, modOut]
    cases e.line <;> rfl
  rw [← hleaving left (hk ▸ hleft), hlined]
  rfl

end Sys2Proof.Machine
end

section
/-! SUPPORT. `lateTaken` is the work that `takeLate` does, and so is what a cancellation leaves; then what an entry does that fires, is
deferred, whose pulse ends, or that is cancelled (O36 to O38). -/

set_option Elab.async false

namespace Sys2Proof.Machine

/-! ### Late entries and cancellations as work -/

theorem deferredNow_iff (s : State) (e : Entry) : deferredNow s e = true ↔ s.permit.state = .held ∧ onGatedLine s e = true := by
  unfold deferredNow
  rw [Bool.and_eq_true, beq_iff_eq]

/-- What `lateTaken` says of a deferred entry is the work of its deferral. -/
theorem deferred_worked (s : State) (i : Fin 64) (e : Entry) :
    s.worked i e.line (.deferred e) = modOut e.line (pulseEnded e) (s.putEntry i (some { e with state := .deferred, running := none })) := by
  unfold State.worked Work.deferred
  rw [storing_nil]
  simp only [List.append_nil]

theorem lateTaken_eq {s : State} {i : Fin 64} {e : Entry} {d : Nat} (h : s.entry i = some e) (hd : e.due = some d) :
    lateTaken s i = s.worked i e.line (.late s s.time.partTime i e d) := by
  unfold lateTaken Work.late
  simp only [h]
  by_cases hn : deferredNow s e = true
  · rw [if_pos ((deferredNow_iff s e).mp hn), if_pos hn, deferred_worked]
    unfold modOut
    cases e.line <;> rfl
  · rw [if_neg (mt (deferredNow_iff s e).mpr hn), if_neg hn]
    simp only [hd]
    exact caughtUp_eq hd s i

theorem caught_records_length {e : Entry} {d : Nat} (hd : e.due = some d) (s : State) (T : Nat) (i : Fin 64) :
    (Work.caught s T i e d).records.length ≤ 2 := by
  rw [caught_eq hd]
  have h1 : (if e.late = .fireLate then firedRecords s i e (some (T - d)) else skippedRecords s i e).length ≤ 1 := by
    unfold firedRecords skippedRecords
    split <;> split <;> simp
  rw [List.length_append]
  refine Nat.le_trans (Nat.add_le_add_right h1 _) (Nat.add_le_add_left (m := 1) ?_ 1)
  split <;> simp

theorem late_records_length {e : Entry} {d : Nat} (hd : e.due = some d) (s : State) (T : Nat) (i : Fin 64) :
    (Work.late s T i e d).records.length ≤ 2 := by
  unfold Work.late
  split
  · exact Nat.zero_le _
  · exact caught_records_length hd s T i

/-- An entry taken late, where the journal has room for two records. -/
theorem takeLate_eq_lateTaken {s : State} {i : Fin 64} {e : Entry} {d : Nat} (h : s.entry i = some e) (hd : e.due = some d)
    (hr : RoomFor 2 s) : takeLate s.time.partTime s i = lateTaken s i := by
  rw [lateTaken_eq h hd]
  exact (works_takeLate h hd _).all (.inr (hr.mono (late_records_length hd _ _ _)))

/-- The work of a cancellation (R100). -/
def Work.cancelled (s : State) (i : Fin 64) (e : Entry) (cause : CancelCause) : Work :=
  { left := none, act := if handsTrailing cause then pulseEnded e else fun o => o
    records := [(.master e.owner, .entryCancelled (s.handle i) e.action e.line cause)], raises := [], ports := fun x => x }

theorem works_cancel {s : State} {i : Fin 64} {e : Entry} (h : s.entry i = some e) (cause : CancelCause) :
    Works s (cancel cause s i) i e.line (.cancelled s i e cause) := by
  have h1 := works_offer h e.line (.master e.owner) (.entryCancelled (s.handle i) e.action e.line cause)
  generalize hu : offer (.master e.owner) (.entryCancelled (s.handle i) e.action e.line cause) s = u at h1
  have e1 : u.entry i = some e := by rw [h1.entry, if_pos rfl]; rfl
  have hc : cancel cause s i = (if handsTrailing cause then endPulse i u else u).putEntry i none := by
    unfold cancel
    simp only [h, hu]
  rw [hc, Work.cancelled]
  cases handsTrailing cause with
  | true => exact (h1.trans (works_endPulse e1)).trans (works_put _ i e.line none)
  | false => exact h1.trans (works_put _ i e.line none)

/-! ### Responses beside work -/

/-- A response touches the ports only, so it can come before work that does not read the queue. -/
theorem respond_worked (s : State) (p : Port) (tag : Byte) (r : Reply) (i : Fin 64) (l : Option (Fin 8)) (w : Work)
    (h : (respond p tag r { s with ports := w.ports s.ports }).ports = w.ports (respond p tag r s).ports) :
    respond p tag r (s.worked i l w) = (respond p tag r s).worked i l w := by
  have hs : (respond p tag r s).worked i l w = { (respond p tag r s).worked i l w with ports := w.ports (respond p tag r s).ports } := by
    unfold State.worked modOut
    cases l <;> rfl
  rw [hs, ← h]
  unfold State.worked modOut
  cases l <;> rfl

/-! ### The lookup of a handle -/

theorem finOf?_eq_none {n x : Nat} (h : n ≤ x) : finOf? n x = none := dif_neg (Nat.not_lt.mpr h)

theorem finOf?_val {n : Nat} (k : Fin n) {x : Nat} (h : x = k.val) : finOf? n x = some k := by
  subst h
  exact dif_pos k.isLt

theorem slot_toNat (i : Fin 64) : (BitVec.ofNat 8 i.val).toNat = i.val := by
  rw [BitVec.toNat_ofNat]
  omega

theorem lookUp_outside {slot : Byte} (h : 64 ≤ slot.toNat) (generation : Byte) (s : State) : lookUp slot generation s = .outside := by
  unfold lookUp
  rw [finOf?_eq_none h]

theorem lookUp_stale {s : State} {i : Fin 64} {generation : Byte} (h : s.entry i = none ∨ (s.handle i).generation ≠ generation) :
    lookUp (BitVec.ofNat 8 i.val) generation s = .stale := by
  unfold lookUp
  rw [finOf?_val i (slot_toNat i)]
  cases he : s.entry i with
  | none => simp only [he]
  | some e => simp only [he, if_neg (h.resolve_left (by simp [he]))]

theorem lookUp_found {s : State} {i : Fin 64} {e : Entry} (h : s.entry i = some e) :
    lookUp (BitVec.ofNat 8 i.val) (s.handle i).generation s = .found i e := by
  unfold lookUp
  rw [finOf?_val i (slot_toNat i)]
  simp only [h, if_true]

section
variable {s : State} {p : Port} {slot generation : Byte}

theorem takeCancelEntry_outside (h : lookUp slot generation s = .outside) : takeCancelEntry p slot generation s = (s, refuse .badArg) := by
  unfold takeCancelEntry
  rw [h]

theorem takeCancelEntry_stale (h : lookUp slot generation s = .stale) : takeCancelEntry p slot generation s = (s, refuse .staleHandle) := by
  unfold takeCancelEntry
  rw [h]

theorem takeCancelEntry_found {i : Fin 64} {e : Entry} (h : lookUp slot generation s = .found i e) :
    takeCancelEntry p slot generation s = if e.owner = p then (cancel .owner s i, okay []) else (s, refuse .notHolder) := by
  unfold takeCancelEntry
  rw [h]

end

theorem exec_cancelEntry (p : Port) (tag slot generation : Byte) (s : State) :
    exec (.cancelEntry p tag slot generation) s = .next (onCommand p tag 2 .liveSession (takeCancelEntry p slot generation) s) := rfl

/-- Settles O36. A cancellation is one piece of work, done beside the answer. -/
theorem cancelEntryFrees : Obligations.CancelEntryFrees := by
  unfold Obligations.CancelEntryFrees
  intro s p tag x hr hl hx
  have found : ∀ i e, s.entry i = some e → lookUp (BitVec.ofNat 8 i.val) (s.handle i).generation (taken s p 2) = .found i e :=
    fun i e h => lookUp_found (s := taken s p 2) h
  refine ⟨fun slot g h => ?_, fun i g h => ?_, fun i e h ho => ?_, fun i e h ho hroom => ?_⟩
  · exact answers_of_live hr hx hl (r := refuse .badArg) rfl rfl (takeCancelEntry_outside (lookUp_outside h _ _))
  · exact answers_of_live hr hx hl (r := refuse .staleHandle) rfl rfl (takeCancelEntry_stale (lookUp_stale (s := taken s p 2) h))
  · refine answers_of_live hr hx hl (r := refuse .notHolder) rfl rfl ?_
    rw [takeCancelEntry_found (found i e h), if_neg ho]
  · intro u handed
    have hact : takeCancelEntry p (BitVec.ofNat 8 i.val) (s.handle i).generation (taken s p 2) = (cancel .owner (taken s p 2) i, okay []) := by
      rw [takeCancelEntry_found (found i e h), if_pos ho]
    have hwork : cancel .owner (taken s p 2) i = (taken s p 2).worked i e.line (.cancelled s i e .owner) :=
      (works_cancel (s := taken s p 2) h .owner).all (.inr (hroom.congr rfl rfl))
    have hleft : (answeredFrame s p 9 tag .ok []).worked i e.line (.cancelled s i e .owner) = handed.putEntry i none := by
      have hu : ({ answeredFrame s p 9 tag .ok [] with
          journal := s.journal.storing s.time.partTime (quality s)
            [(.master e.owner, .entryCancelled (s.handle i) e.action e.line .owner)] } : State) = u := by rw [ho]; rfl
      have hh : handed = modOut e.line (pulseEnded e) u := by
        dsimp only [handed]
        unfold modOut pulseEnded
        cases e.running with
        | none =>
          cases e.line with
          | none => rfl
          | some k => exact (setOut_out u k).symm
        | some r => cases e.line <;> rfl
      rw [hh, ← hu]
      unfold State.worked Work.cancelled modOut
      simp only [List.append_nil]
      cases e.line <;> rfl
    rw [exec_cancelEntry, onCommand_live hr hx, hact, hwork, respond_worked (h := rfl), respond_taken, okay, hleft]

end Sys2Proof.Machine
end

section
/-! SUPPORT. The events of an entry at a tick: it fires, is deferred, or its pulse ends (O37, O38). -/

set_option Elab.async false

namespace Sys2Proof.Machine

/-! ### What work leaves of the lines, the sessions and the other blocks -/

theorem out_modOut (l : Option (Fin 8)) (f : OutLine → OutLine) (s : State) (k : Fin 8) :
    (modOut l f s).out k = if l = some k then f (s.out k) else s.out k := by
  cases l with
  | none => simp [modOut]
  | some j =>
    simp only [modOut, Option.elim, out_setOut, Option.some.injEq, @eq_comm _ j k]
    split
    · next h => rw [h]
    · rfl

/-- Concluding an event changes of a line its driven level only. -/
theorem conclude_out (s : State) (k : Fin 8) : ∃ v, (conclude s).out k = { s.out k with driven := v } := by
  unfold State.out
  rw [conclude_outs]
  split
  · exact ⟨_, by rw [Fin.getElem_fin, Vector.getElem_map]; rfl⟩
  · exact ⟨_, rfl⟩

theorem unchanged_modOut (l : Option (Fin 8)) (f : OutLine → OutLine) (s : State) : Unchanged [.outs] s (modOut l f s) := by
  cases l with
  | none => exact (Kept.refl _ s).unchanged
  | some k => exact (kept_setOut s k _).unchanged

theorem unchanged_setPorts {bs : List Block} {s u : State} (h : Unchanged bs s u) (hb : Block.ports ∈ bs) (x : PerPort PortState) :
    Unchanged bs s { u with ports := x } := fun b hn => by
  cases b <;> first | exact absurd hb hn | exact h _ hn

/-- Work without raises leaves the conditions. -/
theorem unchanged_worked (s : State) (i : Fin 64) (l : Option (Fin 8)) {w : Work} (h : w.raises = []) :
    Unchanged [.journal, .schedule, .outs, .ports] s (s.worked i l w) := by
  unfold State.worked
  rw [h, List.append_nil]
  refine Unchanged.trans ?_ ((unchanged_modOut _ _ _).mono (sub_of_all rfl))
  refine Unchanged.trans ?_ ((kept_putEntry _ _ _).unchanged.mono (sub_of_all rfl))
  have hj := unchanged_storing (bs := [.journal, .schedule, .outs, .ports]) (Kept.refl _ s).unchanged (by decide)
    (s.journal.storing s.time.partTime (quality s) w.records)
  exact unchanged_setPorts hj (by decide) (w.ports s.ports)

theorem worked_journal (s : State) (i : Fin 64) (l : Option (Fin 8)) (w : Work) :
    (s.worked i l w).journal = s.journal.storing s.time.partTime (quality s) w.records := modOut_journal _ _ _

theorem worked_out (s : State) (i : Fin 64) (l : Option (Fin 8)) (w : Work) (k : Fin 8) :
    (s.worked i l w).out k = if l = some k then w.act (s.out k) else s.out k := out_modOut _ _ _ _

theorem worked_entry (s : State) (i : Fin 64) (l : Option (Fin 8)) (w : Work) (j : Fin 64) :
    (s.worked i l w).entry j = if j = i then w.left else s.entry j := by
  unfold State.worked
  rw [entry_congr (modOut_schedule _ _ _), entry_putEntry]
  rfl

theorem worked_handle (s : State) (i : Fin 64) (l : Option (Fin 8)) (w : Work) (j : Fin 64) : (s.worked i l w).handle j = s.handle j := by
  unfold State.worked
  rw [handle_congr (modOut_schedule _ _ _), handle_putEntry]
  rfl

theorem worked_ports (s : State) (i : Fin 64) (l : Option (Fin 8)) (w : Work) : (s.worked i l w).ports = w.ports s.ports := by
  cases l <;> rfl

/-- The session on a port once a latched member has been raised on one of them. -/
theorem session_of_noticeAt {s t : State} {n : Byte} {p : Port} (h : t.ports = noticeAt n p s.ports) (q : Port) :
    t.session q = if q = p then (s.session q).map (Session.notice n) else s.session q := by
  unfold State.session State.port
  rw [h, noticeAt, PerPort.get_set]
  split
  · next hq => rw [hq]
  · rfl

/-! ### Firing at a tick -/

/-- The work of a firing at a tick by what is left of the entry. -/
theorem atTick_eq {e : Entry} {d : Nat} (hd : e.due = some d) (s : State) (i : Fin 64) :
    Work.atTick s i e
      = { left := movedOn e (startedPulse { e with running := none }) 1 d
          act := fun o => fired e (pulseEnded e o)
          records := firedRecords s i e none ++ goneRecords s i e (movedOn e (startedPulse { e with running := none }) 1 d)
          raises := []
          ports := if e.notifyFlag then noticeAt noticeEntry e.owner else fun x => x } := by
  have hc : (({ e with running := startedPulse { e with running := none } } : Entry).advance 1).closed
      = movedOn e (startedPulse { e with running := none }) 1 d := closed_advance hd _ 1
  have hn : ∀ r, (({ e with running := r } : Entry).advance 1).owner = e.owner ∧ (({ e with running := r } : Entry).advance 1).action = e.action
      ∧ (({ e with running := r } : Entry).advance 1).line = e.line := fun r => by
    rw [advance_eq (e := { e with running := r }) hd]
    exact ⟨rfl, rfl, rfl⟩
  obtain ⟨ho, ha, hl⟩ := hn (startedPulse { e with running := none })
  unfold Work.atTick completedRecords goneRecords
  dsimp only
  rw [hc, ho, ha, hl]
  rfl

/-- Where an entry stands after firing once at its due time (R85, R87 to R89). -/
theorem movedOn_fired {e : Entry} (h : e.running = none ∨ e.action = .pulse) (d : Nat) :
    movedOn e (startedPulse { e with running := none }) 1 d
      = if e.action = .pulse then
          some
            { e with
              due := nextDue e 1 d, remaining := nextRemaining e 1, state := .pulsing
              running := some { left := e.width, trailing := if e.pulseLevel = .high then .low else .high } }
        else if (nextDue e 1 d).isSome then some { e with due := nextDue e 1 d, remaining := nextRemaining e 1, state := .pending }
        else if e.rearm then some { e with due := none, remaining := e.initial, state := .awaitingTrigger }
        else none := by
  rw [startedPulse_eq]
  unfold movedOn
  by_cases ha : e.action = .pulse
  · simp [ha]
  · have hr : e.running = none := h.resolve_right ha
    simp [ha, hr]

/-- An entry that fires leaves its slot only with no pulse, no next occurrence and no rearm flag (R88). -/
theorem movedOn_fired_none {e : Entry} (h : e.running = none ∨ e.action = .pulse) (d : Nat) :
    movedOn e (startedPulse { e with running := none }) 1 d = none ↔ e.action ≠ .pulse ∧ nextDue e 1 d = none ∧ e.rearm = false := by
  rw [movedOn_fired h]
  by_cases ha : e.action = .pulse
  · simp [ha]
  · cases hn : nextDue e 1 d <;> cases hr : e.rearm <;> simp [ha]

theorem fired_mark {e : Entry} (h : e.action = .mark) (o : OutLine) : fired e o = o := if_pos h

theorem fired_of_ne_mark {e : Entry} (h : e.action ≠ .mark) (o : OutLine) :
    fired e o = { o with commanded := levelFired e o.commanded, pulse := none } := if_neg h

/-- A PULSE is fired at its own level, whatever the level a running pulse of it left (R83, R86). -/
theorem levelFired_pulseEnded {e : Entry} (h : e.running = none ∨ e.action = .pulse) (o : OutLine) :
    levelFired e (pulseEnded e o).commanded = levelFired e o.commanded := by
  rcases h with h | h
  · unfold pulseEnded
    rw [h]
  · unfold levelFired
    rw [h]

theorem pulseEnded_of_none {e : Entry} (h : e.running = none) (o : OutLine) : pulseEnded e o = o := by
  unfold pulseEnded
  rw [h]

/-- The pulse and the commanded level of a line on which an entry fires (R83, R86). -/
theorem fired_pulseEnded {e : Entry} (h : e.running = none ∨ e.action = .pulse) (ha : e.action ≠ .mark) (o : OutLine) :
    fired e (pulseEnded e o) = { o with commanded := levelFired e o.commanded, pulse := none } := by
  rw [fired_of_ne_mark ha, levelFired_pulseEnded h]
  unfold pulseEnded
  cases e.running <;> rfl

/-- The event of an entry whose due time the tick made, where it is not deferred. -/
theorem entryComesDue_fires {s : State} {i : Fin 64} {e : Entry} (h : s.entry i = some e) (hs : e.state = .pending ∨ e.state = .pulsing)
    (hd : e.due = some s.time.partTime) (hn : deferredNow s e = false) : entryComesDue i s = fireAtTick i s := by
  have ho : e.inDueOrder = true := by
    unfold Entry.inDueOrder
    rcases hs with hs | hs <;> simp [hs, hd]
  unfold entryComesDue
  simp only [h, ho, hd, hn, beq_self_eq_true, Bool.and_self, if_true, Bool.false_eq_true, if_false]

theorem entryComesDue_defers {s : State} {i : Fin 64} {e : Entry} (h : s.entry i = some e) (hs : e.state = .pending ∨ e.state = .pulsing)
    (hd : e.due = some s.time.partTime) (hn : deferredNow s e = true) : entryComesDue i s = defer i s := by
  have ho : e.inDueOrder = true := by
    unfold Entry.inDueOrder
    rcases hs with hs | hs <;> simp [hs, hd]
  unfold entryComesDue
  simp only [h, ho, hd, hn, beq_self_eq_true, Bool.and_self, if_true]

theorem firedRecords_length (s : State) (i : Fin 64) (e : Entry) (late : Option Nat) : (firedRecords s i e late).length ≤ 1 := by
  unfold firedRecords
  split <;> simp

theorem goneRecords_length (s : State) (i : Fin 64) (e : Entry) (x : Option Entry) : (goneRecords s i e x).length ≤ 1 := by
  unfold goneRecords
  split <;> simp

/-- Settles O37. The firing is one piece of work, concluded. -/
theorem entryFires : Obligations.EntryFires := by
  unfold Obligations.EntryFires
  intro s i e hdue h hs hd hrun hn hroom remaining0 next remaining fired0 completed
  have hnext : next = nextDue e 1 s.time.partTime := by
    dsimp only [next, remaining0]
    unfold nextDue
    simp only [Nat.one_mul]
    cases e.period <;> rfl
  have hremaining : remaining = nextRemaining e 1 := rfl
  clear_value next remaining
  subst hnext hremaining
  let u := s.without (.entryDue i)
  have hrow : exec (.entryDue i) s = .next (conclude (entryComesDue i u)) := exec_tickRow_due hdue
  have hfit : (Work.atTick u i e).Fits u := by
    refine .inr (RoomFor.mono (RoomFor.congr (t := u) hroom rfl rfl) ?_)
    rw [atTick_eq hd, List.length_append]
    exact Nat.add_le_add (firedRecords_length _ _ _ _) (goneRecords_length _ _ _ _)
  have hwork : entryComesDue i u = u.worked i e.line (.atTick u i e) := by
    rw [entryComesDue_fires (s := u) h hs hd hn]
    exact (works_fireAtTick (s := u) h).all hfit
  rw [hwork, atTick_eq hd] at hrow
  have hout : ∀ k, ∃ v, (conclude (u.worked i e.line _)).out k
      = { (if e.line = some k then fired e (pulseEnded e (s.out k)) else s.out k) with driven := v } := fun k => by
    have ho := worked_out u i e.line
      { left := movedOn e (startedPulse { e with running := none }) 1 s.time.partTime
        act := fun o => fired e (pulseEnded e o)
        records := firedRecords u i e none ++ goneRecords u i e (movedOn e (startedPulse { e with running := none }) 1 s.time.partTime)
        raises := [], ports := if e.notifyFlag then noticeAt noticeEntry e.owner else fun x => x } k
    exact (conclude_out _ k).imp fun v hv => hv.trans (by rw [ho]; rfl)
  refine ⟨_, hrow, ?_, ?_, fun j hj => ?_, fun j => ?_, fun k hk ha => ?_, fun k hk => ?_, fun k => ?_, fun p => ?_, ?_, ?_, ?_⟩
  · rw [conclude_journal, worked_journal]
    refine congrArg _ (congrArg (fired0 ++ ·) ?_)
    unfold goneRecords
    rw [if_congr (movedOn_fired_none hrun _) rfl rfl]
    rfl
  · rw [entry_congr (conclude_schedule _), worked_entry, if_pos rfl]
    exact movedOn_fired hrun _
  · rw [entry_congr (conclude_schedule _), worked_entry, if_neg hj]
    rfl
  · rw [handle_congr (conclude_schedule _), worked_handle]
    rfl
  · obtain ⟨v, hv⟩ := hout k
    rw [hv, if_pos hk, fired_pulseEnded hrun ha]
    exact ⟨rfl, rfl⟩
  · obtain ⟨v, hv⟩ := hout k
    rw [hv]
    rcases hk with hk | ha
    · rw [if_neg hk]
      exact ⟨rfl, rfl⟩
    · rw [fired_mark ha, pulseEnded_of_none (hrun.resolve_right (by simp [ha])), ite_self]
      exact ⟨rfl, rfl⟩
  · obtain ⟨v, hv⟩ := hout k
    rw [hv]
    split
    · unfold fired pulseEnded
      cases e.running <;> split <;> exact ⟨rfl, rfl, rfl⟩
    · exact ⟨rfl, rfl, rfl⟩
  · rw [conclude_session]
    cases hf : e.notifyFlag with
    | false => exact session_of_ports (worked_ports _ _ _ _) p
    | true =>
      rw [session_of_noticeAt (s := s) (n := noticeEntry) (p := e.owner) (by rw [worked_ports]; rfl)]
      simp only [true_and]
      rfl
  · have hk : Kept ownBlocks s (conclude (entryComesDue i u)) :=
      Kept.after (kept_conclude _) <| Kept.after (kept_entryComesDue i u) <| Kept.after (kept_without s _) (.refl _ _)
    rw [hwork, atTick_eq hd] at hk
    exact hk.links
  · rw [conclude_tickWork]
    exact congrArg Prod.fst ((unchanged_worked u i e.line rfl) .tickWork (by decide))
  · refine Unchanged.trans ((kept_without s (.entryDue i)).unchanged.mono (sub_of_all rfl)) ?_
    exact ((unchanged_worked u i e.line rfl).mono (sub_of_all rfl)).trans ((kept_conclude _).unchanged.mono (sub_of_all rfl))

/-! ### Deferral and the end of a pulse -/

/-- The end of a schedule's pulse, as work (R85). -/
theorem works_pulseRunsOut {s : State} {i : Fin 64} {e : Entry} {r : RunningPulse} (h : s.entry i = some e) (hr : e.running = some r)
    (hl : r.left = 0) :
    Works s (pulseRunsOut i s) i e.line
      { left := ({ e with running := none } : Entry).closed, act := pulseEnded e
        records := completedRecords s i { e with running := none }, raises := [], ports := fun x => x } := by
  have hp : pulseRunsOut i s = closeOccurrence i (endPulse i s) := by
    unfold pulseRunsOut
    simp only [h, hr, hl, if_true]
  have h1 := works_endPulse h
  rw [hp]
  have h2 := h1.trans (works_closeOccurrence (e := { e with running := none }) (by rw [h1.entry, if_pos rfl]) e.line)
  convert h2 using 1
  unfold Work.close completedRecords
  rw [h1.handle]
  rfl

/-- Settles O38. -/
theorem entryDefersAndPulseEnds : Obligations.EntryDefersAndPulseEnds := by
  unfold Obligations.EntryDefersAndPulseEnds
  intro s i e h
  refine ⟨fun k hdue hs hd hheld hk hg => ?_, fun k trailing hdue hr hk => ?_⟩
  · have hn : deferredNow (s.without (.entryDue i)) e = true := by
      unfold deferredNow onGatedLine
      rw [hk]
      exact Bool.and_eq_true_iff.mpr ⟨beq_iff_eq.mpr hheld, hg⟩
    have hrow : exec (.entryDue i) s = .next (conclude (entryComesDue i (s.without (.entryDue i)))) := exec_tickRow_due hdue
    rw [hrow, entryComesDue_defers (s := s.without (.entryDue i)) h hs hd hn,
      (works_defer (s := s.without (.entryDue i)) h).all (.inl ⟨rfl, rfl⟩), deferred_worked, hk]
    rfl
  · intro u
    have hrow : exec (.pulseEnd i) s = .next (conclude (pulseRunsOut i (s.without (.pulseEnd i)))) := exec_tickRow_due hdue
    have hwork := works_pulseRunsOut (s := s.without (.pulseEnd i)) h hr rfl
    have hact : ∀ o, pulseEnded e o = { o with commanded := trailing, pulse := none } := fun o => by unfold pulseEnded; rw [hr]
    have hline : ∀ l j, ({ s.without (.pulseEnd i) with journal := j } : State).worked i e.line
        { left := l, act := pulseEnded e, records := [], raises := [], ports := fun x => x } = ({ u with journal := j } : State).putEntry i l :=
      fun l j => by
        unfold State.worked
        rw [hk, storing_nil]
        simp only [List.append_nil, modOut, Option.elim, hact]
        rfl
    have calm : ∀ l, ({ e with running := none } : Entry).closed = some l →
        exec (.pulseEnd i) s = .next (conclude (u.putEntry i (some l))) := fun l hl => by
      have hrec : completedRecords (s.without (.pulseEnd i)) i { e with running := none } = [] := by
        unfold completedRecords
        rw [if_neg (by simp [hl])]
      rw [hrec, hl] at hwork
      rw [hrow, hwork.all (.inl ⟨rfl, rfl⟩)]
      exact congrArg (fun x => Host.Outcome.next (conclude x)) (hline (some l) _)
    refine ⟨fun hd => calm _ ?_, fun hd ha => calm _ ?_, fun hd ha hroom => ?_⟩
    · obtain ⟨d, hd⟩ := Option.isSome_iff_exists.mp hd
      simp [Entry.closed, hd]
    · simp [Entry.closed, Entry.rearmed, hd, ha]
    · have hcl : ({ e with running := none } : Entry).closed = none := by simp [Entry.closed, hd, ha]
      have hrec : completedRecords (s.without (.pulseEnd i)) i { e with running := none }
          = [(.master e.owner, .entryCompleted (s.handle i) e.action e.line)] := if_pos hcl
      rw [hrec, hcl] at hwork
      rw [hrow, hwork.all (.inr (hroom.congr rfl rfl))]
      refine congrArg (fun x => Host.Outcome.next (conclude x)) (Eq.trans ?_ (hline none _))
      unfold State.worked
      rw [storing_nil]
      rfl

end Sys2Proof.Machine
end

section
/-! SUPPORT. Lists of slots in the order of a rule are the lists the model sorts; and work done on one slot after another, where the journal has
room for all of it: the cancellations of a list (R100), and the late entries of a list (R90, R93, R98). -/

set_option Elab.async false

namespace Sys2Proof.Machine

/-! ### Lists in order -/

/-- A strictly ordered list is the only ordered one with its members. -/
theorem eq_of_strictly_ordered {α : Type} {r lt : α → α → Prop} {L M : List α} (hL : L.Pairwise lt) (hlt : ∀ a b, lt a b → r a b ∧ ¬ r b a)
    (hM : M.Pairwise r) (hn : M.Nodup) (hm : ∀ a, a ∈ L ↔ a ∈ M) : L = M := by
  have hnL : L.Nodup := hL.imp fun h hab => by
    subst hab
    exact (hlt _ _ h).2 (hlt _ _ h).1
  have hr : L.Pairwise fun a b => ¬ (r a b ∧ r b a) := hL.imp fun {a b} h (hab : r a b ∧ r b a) => (hlt _ _ h).2 hab.2
  have hsym : Std.Symm fun a b => ¬ (r a b ∧ r b a) := ⟨fun a b h hab => h hab.symm⟩
  refine ((List.perm_ext_iff_of_nodup hnL hn).mpr hm).eq_of_pairwise (fun a b ha hb hab hba => ?_) (hL.imp fun h => (hlt _ _ h).1) hM
  by_contra hne
  exact hr.forall ha ((hm b).mpr hb) hne ⟨hab, hba⟩

theorem byAdmission_pairwise (s : State) (M : List (Fin 64)) : (byAdmission s M).Pairwise fun i j => admissionOf s i ≤ admissionOf s j := by
  have : Std.Total fun i j : Fin 64 => admissionOf s i ≤ admissionOf s j := ⟨fun i j => Nat.le_total _ _⟩
  have : IsTrans (Fin 64) fun i j => admissionOf s i ≤ admissionOf s j := ⟨fun _ _ _ => Nat.le_trans⟩
  exact List.pairwise_insertionSort _ _

theorem byDue_pairwise (s : State) (M : List (Fin 64)) : (byDue s M).Pairwise fun i j => dueOf s i < dueOf s j ∨ (dueOf s i = dueOf s j ∧ admissionOf s i ≤ admissionOf s j) := by
  have : Std.Total fun i j : Fin 64 => dueOf s i < dueOf s j ∨ (dueOf s i = dueOf s j ∧ admissionOf s i ≤ admissionOf s j) :=
    ⟨fun i j => by omega⟩
  have : IsTrans (Fin 64) fun i j => dueOf s i < dueOf s j ∨ (dueOf s i = dueOf s j ∧ admissionOf s i ≤ admissionOf s j) :=
    ⟨fun i j k h1 h2 => by omega⟩
  exact List.pairwise_insertionSort _ _

theorem admissionOf_of_entry {s : State} {i : Fin 64} {e : Entry} (h : s.entry i = some e) : admissionOf s i = e.admission := by
  unfold admissionOf
  rw [h]

theorem dueOf_of_entry {s : State} {i : Fin 64} {e : Entry} {d : Nat} (h : s.entry i = some e) (hd : e.due = some d) : dueOf s i = d := by
  unfold dueOf
  simp only [h, hd, Option.getD_some]

theorem byAdmission_nodup {s : State} {M : List (Fin 64)} (h : M.Nodup) : (byAdmission s M).Nodup :=
  (List.perm_insertionSort _ M).nodup_iff.mpr h

theorem byDue_nodup {s : State} {M : List (Fin 64)} (h : M.Nodup) : (byDue s M).Nodup := (List.perm_insertionSort _ M).nodup_iff.mpr h

/-- What is listed in admission order is what the model takes in admission order. -/
theorem Listed.byAdmission {s : State} {test : Entry → Prop} {L : List (Fin 64)} (h : Listed s test admittedBefore L) {t : Entry → Bool}
    (ht : ∀ e, t e = true ↔ test e) : byAdmission s (slotsWhere s t) = L := by
  obtain ⟨hmem, hord⟩ := h
  symm
  refine eq_of_strictly_ordered (lt := fun i j => admissionOf s i < admissionOf s j) ?_ (fun i j hij => by omega) (byAdmission_pairwise s _)
    (byAdmission_nodup (slotsWhere_nodup s t)) fun i => ?_
  · refine hord.imp_of_mem fun {i j} hi hj hij => ?_
    obtain ⟨e, he, _⟩ := (hmem i).mp hi
    obtain ⟨f, hf, _⟩ := (hmem j).mp hj
    rw [admissionOf_of_entry he, admissionOf_of_entry hf]
    exact hij e f he hf
  · rw [hmem, mem_byAdmission, mem_slotsWhere]
    simp only [ht]

/-- A list in strict due order is what the model makes of its members in due order. -/
theorem byDue_eq {s : State} {L M : List (Fin 64)} (hM : M.Nodup) (hm : ∀ i, i ∈ L ↔ i ∈ M)
    (hord : L.Pairwise fun i j => ∃ e f, s.entry i = some e ∧ s.entry j = some f ∧ dueBefore e f) : byDue s M = L := by
  symm
  refine eq_of_strictly_ordered (lt := fun i j => dueOf s i < dueOf s j ∨ (dueOf s i = dueOf s j ∧ admissionOf s i < admissionOf s j)) ?_
    (fun i j hij => by omega) (byDue_pairwise s M) (byDue_nodup hM) fun i => (hm i).trans mem_byDue.symm
  refine hord.imp fun {i j} h => ?_
  obtain ⟨e, f, he, hf, d, d', hd, hd', hlt⟩ := h
  rw [dueOf_of_entry he hd, dueOf_of_entry hf hd', admissionOf_of_entry he, admissionOf_of_entry hf]
  exact hlt

theorem Listed.byDue {s : State} {test : Entry → Prop} {L : List (Fin 64)} (h : Listed s test dueBefore L) {t : Entry → Bool}
    (ht : ∀ e, t e = true ↔ test e) : byDue s (slotsWhere s t) = L := by
  obtain ⟨hmem, hord⟩ := h
  refine byDue_eq (slotsWhere_nodup s t) (fun i => ?_) ?_
  · rw [hmem, mem_slotsWhere]
    simp only [ht]
  · refine hord.imp_of_mem fun {i j} hi hj hij => ?_
    obtain ⟨e, he, _⟩ := (hmem i).mp hi
    obtain ⟨f, hf, _⟩ := (hmem j).mp hj
    exact ⟨e, f, he, hf, hij e f he hf⟩

theorem Listed.nodup_admission {s : State} {test : Entry → Prop} {L : List (Fin 64)} (h : Listed s test admittedBefore L) : L.Nodup := by
  obtain ⟨hmem, hord⟩ := h
  refine hord.imp_of_mem fun {i j} hi _ hij heq => ?_
  subst heq
  obtain ⟨e, he, _⟩ := (hmem i).mp hi
  exact Nat.lt_irrefl _ (hij e e he he)

/-! ### States block by block, schedules slot by slot -/

/-- Two states that agree on every field are the same. -/
theorem state_ext {s t : State} (h : Unchanged [] s t) : t = s := by
  have htick : (t.tickWork, t.tickStage) = (s.tickWork, s.tickStage) := h .tickWork (by decide)
  have hall : ∀ b : Block, b.same s t := fun b => h b (by simp)
  have h1 : t.time = s.time := hall .time
  have h2 : t.evPins = s.evPins := hall .evPins
  have h3 : t.lines = s.lines := hall .lines
  have h4 : t.journal = s.journal := hall .journal
  have h5 : t.schedule = s.schedule := hall .schedule
  have h6 : t.outs = s.outs := hall .outs
  have h7 : t.claims = s.claims := hall .claims
  have h8 : t.permit = s.permit := hall .permit
  have h9 : t.conditions = s.conditions := hall .conditions
  have h10 : t.ports = s.ports := hall .ports
  have h11 : t.rstn = s.rstn := hall .rstn
  have h12 : t.freeUses = s.freeUses := hall .freeUses
  have h13 : t.pending = s.pending := hall .pending
  obtain ⟨hw, hs⟩ := Prod.mk.inj htick
  cases s
  cases t
  simp_all only

theorem schedule_ext {a b : Schedule} (hs : ∀ i : Fin 64, (a.slots[i]).entry = (b.slots[i]).entry ∧ (a.slots[i]).generation = (b.slots[i]).generation)
    (ha : a.admission = b.admission) (hq : a.quotas = b.quotas) (ht : a.tolerance = b.tolerance) : a = b := by
  obtain ⟨as, aa, aq, at_⟩ := a
  obtain ⟨bs, ba, bq, bt⟩ := b
  subst ha hq ht
  have : as = bs := Vector.ext fun i hi => by
    obtain ⟨he, hg⟩ := hs ⟨i, hi⟩
    rw [Fin.getElem_fin] at he hg
    cases hx : as[i] with
    | mk g e =>
      cases hy : bs[i] with
      | mk g' e' =>
        simp only [Fin.getElem_fin, hx, hy] at he hg
        rw [he, hg]
  rw [this]

/-- Two states that differ in journal, schedule and lines only are the same once these are given. -/
theorem worked_on {s u : State} (h : Unchanged [.journal, .schedule, .outs] s u) (j : Journal) (x : Schedule) (o : Vector OutLine 8) :
    ({ u with journal := j, schedule := x, outs := o } : State) = { s with journal := j, schedule := x, outs := o } := by
  refine state_ext fun b _ => ?_
  by_cases hb : b ∈ [Block.journal, .schedule, .outs]
  · simp only [List.mem_cons, List.not_mem_nil, or_false] at hb
    rcases hb with rfl | rfl | rfl <;> rfl
  · cases b <;> first | exact absurd (by decide) hb | exact h _ hb

theorem entry_mapEntries (s : State) (f : Entry → Option Entry) (i : Fin 64) : (s.mapEntries f).entry i = (s.entry i).bind f := by
  unfold State.mapEntries State.entry
  simp

theorem handle_mapEntries (s : State) (f : Entry → Option Entry) (i : Fin 64) : (s.mapEntries f).handle i = s.handle i := by
  unfold State.mapEntries State.handle
  simp

/-- A state whose slots a function has gone over, from what it does of each slot. -/
theorem mapEntries_schedule {s t : State} {f : Entry → Option Entry} (he : ∀ i, t.entry i = (s.entry i).bind f)
    (hh : ∀ i, t.handle i = s.handle i) (ha : t.schedule.admission = s.schedule.admission) (hq : t.schedule.quotas = s.schedule.quotas)
    (ht : t.schedule.tolerance = s.schedule.tolerance) : t.schedule = (s.mapEntries f).schedule := by
  refine schedule_ext (fun i => ⟨?_, ?_⟩) ha hq ht
  · exact (he i).trans (entry_mapEntries s f i).symm
  · exact congrArg Handle.generation ((hh i).trans (handle_mapEntries s f i).symm)

/-! ### The slots of a list emptied -/

/-- The slots of a list emptied. -/
def State.emptied (s : State) (L : List (Fin 64)) : State := L.foldl (fun u i => u.putEntry i none) s

theorem emptied_unchanged (L : List (Fin 64)) (s : State) : Unchanged [.schedule] s (s.emptied L) :=
  (Kept.foldl (fun u i => kept_putEntry u i none) L s).unchanged

theorem entry_emptied (L : List (Fin 64)) (s : State) (j : Fin 64) : (s.emptied L).entry j = if j ∈ L then none else s.entry j := by
  induction L generalizing s with
  | nil => simp [State.emptied]
  | cons i L ih =>
    have := ih (s.putEntry i none)
    rw [entry_putEntry] at this
    refine this.trans ?_
    by_cases h1 : j ∈ L <;> by_cases h2 : j = i <;> simp [h1, h2]

theorem handle_emptied (L : List (Fin 64)) (s : State) (j : Fin 64) : (s.emptied L).handle j = s.handle j := by
  induction L generalizing s with
  | nil => rfl
  | cons i L ih => exact (ih (s.putEntry i none)).trans (handle_putEntry s i j none)

theorem emptied_schedule (L : List (Fin 64)) (s : State) :
    (s.emptied L).schedule.admission = s.schedule.admission ∧ (s.emptied L).schedule.quotas = s.schedule.quotas
      ∧ (s.emptied L).schedule.tolerance = s.schedule.tolerance := by
  induction L generalizing s with
  | nil => exact ⟨rfl, rfl, rfl⟩
  | cons i L ih => exact ih (s.putEntry i none)

/-- The slots of the entries that meet a test emptied. -/
theorem emptied_eq_mapEntries {s : State} {L : List (Fin 64)} {t : Entry → Bool}
    (h : ∀ i, i ∈ L ↔ ∃ e, s.entry i = some e ∧ t e = true) :
    (s.emptied L).schedule = (s.mapEntries fun e => if t e then none else some e).schedule := by
  obtain ⟨ha, hq, ht⟩ := emptied_schedule L s
  refine mapEntries_schedule (fun i => ?_) (handle_emptied L s) ha hq ht
  rw [entry_emptied]
  cases he : s.entry i with
  | none => simp
  | some e =>
    have := h i
    rw [he] at this
    cases hte : t e <;> simp_all

/-! ### Cancelling a list -/

/-- A line once the entries of a list have been cancelled with their trailing levels, in order (R100). -/
def handedBy (s : State) (L : List (Fin 64)) (k : Fin 8) : OutLine :=
  L.foldl (init := s.out k) fun o i => (s.entry i).elim o fun e => if e.line = some k then pulseEnded e o else o

theorem outs_eq {s t : State} (h : ∀ k, t.out k = s.out k) : t.outs = s.outs := Vector.ext fun k hk => h ⟨k, hk⟩

theorem cancelRecords_congr {s t : State} {L : List (Fin 64)} (he : ∀ i ∈ L, t.entry i = s.entry i) (hh : ∀ i, t.handle i = s.handle i)
    (cause : CancelCause) : cancelRecords t cause L = cancelRecords s cause L := by
  unfold cancelRecords
  refine List.flatMap_congr fun i hi => ?_
  rw [he i hi, hh]

theorem cancelRecords_cons {s : State} {i : Fin 64} {e : Entry} (h : s.entry i = some e) (cause : CancelCause) (L : List (Fin 64)) :
    cancelRecords s cause (i :: L) = (.master e.owner, .entryCancelled (s.handle i) e.action e.line cause) :: cancelRecords s cause L := by
  unfold cancelRecords
  rw [List.flatMap_cons, h]
  rfl

theorem cancelRecords_length {s : State} {L : List (Fin 64)} (h : ∀ i ∈ L, (s.entry i).isSome = true) (cause : CancelCause) :
    (cancelRecords s cause L).length = L.length := by
  induction L with
  | nil => rfl
  | cons i L ih =>
    obtain ⟨e, he⟩ := Option.isSome_iff_exists.mp (h i (by simp))
    rw [cancelRecords_cons he, List.length_cons, List.length_cons, ih fun j hj => h j (List.mem_cons_of_mem i hj)]

/-- What cancelling the entries of a list leaves, where the journal has room for their records (R100). -/
def State.cancelled (s : State) (cause : CancelCause) (L : List (Fin 64)) : State :=
  { s with
    journal := s.journal.storing s.time.partTime (quality s) (cancelRecords s cause L)
    schedule := (s.emptied L).schedule
    outs := if handsTrailing cause then Vector.ofFn (handedBy s L) else s.outs }

theorem cancel_foldl {cause : CancelCause} {L : List (Fin 64)} (hn : L.Nodup) {s : State} (h : ∀ i ∈ L, (s.entry i).isSome = true)
    (hr : RoomFor L.length s) : L.foldl (cancel cause) s = s.cancelled cause L := by
  induction L generalizing s with
  | nil =>
    unfold State.cancelled cancelRecords
    have ho : Vector.ofFn (handedBy s []) = s.outs := Vector.ext fun k hk => by simp [handedBy, State.out]
    rw [List.flatMap_nil, storing_nil, ho, ite_self]
    rfl
  | cons i L ih =>
    obtain ⟨hi, hnL⟩ := List.nodup_cons.mp hn
    obtain ⟨e, he⟩ := Option.isSome_iff_exists.mp (h i (by simp))
    have hw := (works_cancel he cause).all (.inr (hr.mono (by simp [Work.cancelled])))
    generalize hu : s.worked i e.line (.cancelled s i e cause) = u at hw
    have eu : ∀ j ∈ L, u.entry j = s.entry j := fun j hj => by
      rw [← hu, worked_entry, if_neg (by rintro rfl; exact hi hj)]
    have hu2 : ∀ j, u.handle j = s.handle j := fun j => by rw [← hu, worked_handle]
    have hroom : RoomFor L.length u := by
      refine RoomFor.storing (s := s) (t := s.time.partTime) (q := quality s)
        (l := [(.master e.owner, .entryCancelled (s.handle i) e.action e.line cause)]) hr ?_ ?_
      · rw [← hu]; simp [State.worked]
      · rw [← hu, worked_journal]; rfl
    rw [List.foldl_cons, hw, ih hnL (fun j hj => by rw [eu j hj]; exact h j (List.mem_cons_of_mem i hj)) hroom]
    have hc := unchanged_worked s i e.line (w := .cancelled s i e cause) rfl
    rw [hu] at hc
    have hcond : u.conditions = s.conditions := hc .conditions (by decide)
    have hports : u.ports = s.ports := by rw [← hu, worked_ports]; rfl
    have htime : u.time = s.time := hc .time (by decide)
    have hjournal : u.journal.storing u.time.partTime (quality u) (cancelRecords u cause L)
        = s.journal.storing s.time.partTime (quality s) (cancelRecords s cause (i :: L)) := by
      have hq : quality u = quality s := by unfold quality; rw [htime]
      rw [cancelRecords_congr eu hu2, htime, hq, ← hu, worked_journal, storing_storing, cancelRecords_cons he]
      rfl
    have hschedule : (u.emptied L).schedule = (s.emptied (i :: L)).schedule := by
      obtain ⟨a1, a2, a3⟩ := emptied_schedule L u
      obtain ⟨b1, b2, b3⟩ := emptied_schedule (i :: L) s
      have hsch : u.schedule = (s.putEntry i none).schedule := by rw [← hu]; unfold State.worked; rw [modOut_schedule]; rfl
      refine schedule_ext (fun j => ⟨?_, ?_⟩) (by rw [a1, b1, hsch]; rfl) (by rw [a2, b2, hsch]; rfl) (by rw [a3, b3, hsch]; rfl)
      · show (u.emptied L).entry j = (s.emptied (i :: L)).entry j
        rw [entry_emptied, entry_emptied, entry_congr hsch, entry_putEntry]
        by_cases h1 : j ∈ L <;> by_cases h2 : j = i <;> simp [h1, h2]
      · exact congrArg Handle.generation ((handle_emptied L u j).trans ((hu2 j).trans (handle_emptied (i :: L) s j).symm))
    have houts : (if handsTrailing cause then Vector.ofFn (handedBy u L) else u.outs)
        = if handsTrailing cause then Vector.ofFn (handedBy s (i :: L)) else s.outs := by
      split
      · next ht =>
        refine congrArg Vector.ofFn (funext fun k => ?_)
        have ho : u.out k = if e.line = some k then pulseEnded e (s.out k) else s.out k := by
          rw [← hu, worked_out, Work.cancelled, if_pos ht]
        unfold handedBy
        rw [List.foldl_cons, he, ho]
        refine List.foldl_ext _ _ _ fun o j hj => ?_
        rw [eu j hj]
      · next ht =>
        refine outs_eq fun k => ?_
        rw [← hu, worked_out, Work.cancelled, if_neg ht, ite_self]
    unfold State.cancelled
    rw [hjournal, hschedule, houts]
    refine worked_on (fun b hb => ?_) _ _ _
    by_cases hp : b = .ports
    · rw [hp]
      exact hports
    · refine hc b fun hm => ?_
      simp only [List.mem_cons, List.not_mem_nil, or_false] at hb hm
      exact hb (by tauto)

end Sys2Proof.Machine
end

section
/-! SUPPORT. Late entries one after another (R90, R93, R98): where the journal has room for two records each, what the model does is what
`lateTaken` says of each in turn; and this is independent of the links, of the permit unit but for its state, and of the other slots. -/

set_option Elab.async false

namespace Sys2Proof.Machine

/-! ### One late entry -/

/-- The work that `lateTaken` says of an entry. -/
def lateWork (s : State) (i : Fin 64) (e : Entry) : Work :=
  if deferredNow s e then .deferred e else e.due.elim (.put (some e)) fun d => .caught s s.time.partTime i e d

theorem lateTaken_none {s : State} {i : Fin 64} (h : s.entry i = none) : lateTaken s i = s := by
  unfold lateTaken
  simp only [h]

theorem lateTaken_worked {s : State} {i : Fin 64} {e : Entry} (h : s.entry i = some e) :
    lateTaken s i = s.worked i e.line (lateWork s i e) := by
  cases hd : e.due with
  | some d =>
    rw [lateTaken_eq h hd, lateWork, hd]
    rfl
  | none =>
    unfold lateTaken lateWork
    simp only [h]
    by_cases hn : deferredNow s e = true
    · rw [if_pos ((deferredNow_iff s e).mp hn), if_pos hn, deferred_worked]
      unfold modOut
      cases e.line <;> rfl
    · rw [if_neg (mt (deferredNow_iff s e).mpr hn), if_neg hn, hd]
      simp only [Option.elim, worked_put]
      exact (putEntry_entry h).symm

theorem lateWork_records_length (s : State) (i : Fin 64) (e : Entry) : (lateWork s i e).records.length ≤ 2 := by
  unfold lateWork
  split
  · exact Nat.zero_le _
  · cases hd : e.due with
    | none => exact Nat.zero_le _
    | some d => exact caught_records_length hd _ _ _

theorem lateWork_ports (s : State) (i : Fin 64) (e : Entry) :
    (lateWork s i e).ports = (fun x => x) ∨ ∃ n q, (lateWork s i e).ports = noticeAt n q := by
  unfold lateWork
  split
  · exact .inl rfl
  · cases e.due with
    | none => exact .inl rfl
    | some d =>
      simp only [Option.elim, Work.caught]
      split
      · exact .inr ⟨_, _, rfl⟩
      · exact .inl rfl

/-- What a late entry does depends on part time, on the permit state, on which lines are gated, on the tolerance and on its own handle. -/
theorem lateWork_congr {s t : State} {i : Fin 64} (e : Entry) (ht : t.time = s.time) (hp : t.permit.state = s.permit.state)
    (ho : ∀ k, (t.out k).gated = (s.out k).gated) (hn : t.schedule.tolerance = s.schedule.tolerance) (hh : t.handle i = s.handle i) :
    lateWork t i e = lateWork s i e := by
  have hg : deferredNow t e = deferredNow s e := by
    unfold deferredNow onGatedLine
    rw [hp]
    cases e.line with
    | none => rfl
    | some k => simp only [ho]
  have hc : ∀ d, Work.caught t t.time.partTime i e d = Work.caught s s.time.partTime i e d := fun d => by
    unfold Work.caught firedRecords skippedRecords completedRecords lateRaises tooLate
    rw [hh, hn, ht]
  unfold lateWork
  rw [hg]
  cases e.due with
  | none => rfl
  | some d => simp only [Option.elim, hc]

/-! ### What late entries leave alone -/

/-- Work on an entry, whatever it raises. -/
theorem worked_unchanged (s : State) (i : Fin 64) (l : Option (Fin 8)) (w : Work) :
    Unchanged [.journal, .schedule, .outs, .ports, .conditions] s (s.worked i l w) := fun b hb => by
  have hm := (unchanged_modOut l w.act ({ s with
      journal := s.journal.storing s.time.partTime (quality s) w.records
      conditions := { s.conditions with raises := s.conditions.raises ++ w.raises }
      ports := w.ports s.ports }.putEntry i w.left)) b (by simp only [List.mem_cons, List.not_mem_nil, or_false] at hb ⊢; tauto)
  cases b <;> first | exact absurd (by decide) hb | exact hm

theorem lateTaken_unchanged (s : State) (i : Fin 64) : Unchanged [.journal, .schedule, .outs, .ports, .conditions] s (lateTaken s i) := by
  cases h : s.entry i with
  | none => rw [lateTaken_none h]; exact (Kept.refl _ s).unchanged
  | some e => rw [lateTaken_worked h]; exact worked_unchanged _ _ _ _

theorem lateTakens_unchanged (L : List (Fin 64)) (s : State) :
    Unchanged [.journal, .schedule, .outs, .ports, .conditions] s (L.foldl lateTaken s) := by
  induction L generalizing s with
  | nil => exact (Kept.refl _ s).unchanged
  | cons i L ih => exact (lateTaken_unchanged s i).trans (ih _)

theorem entry_lateTaken_of_ne {s : State} {i j : Fin 64} (h : j ≠ i) : (lateTaken s i).entry j = s.entry j := by
  cases he : s.entry i with
  | none => rw [lateTaken_none he]
  | some e => rw [lateTaken_worked he, worked_entry, if_neg h]

theorem entry_lateTakens_of_notMem {L : List (Fin 64)} {s : State} {i : Fin 64} (h : i ∉ L) : (L.foldl lateTaken s).entry i = s.entry i := by
  induction L generalizing s with
  | nil => rfl
  | cons j L ih =>
    obtain ⟨h1, h2⟩ := not_or.mp (mt List.mem_cons.mpr h)
    rw [List.foldl_cons, ih h2, entry_lateTaken_of_ne h1]

theorem handle_lateTaken (s : State) (i j : Fin 64) : (lateTaken s i).handle j = s.handle j := by
  cases he : s.entry i with
  | none => rw [lateTaken_none he]
  | some e => rw [lateTaken_worked he, worked_handle]

theorem worked_schedule (s : State) (i : Fin 64) (l : Option (Fin 8)) (w : Work) : (s.worked i l w).schedule = (s.putEntry i w.left).schedule := by
  unfold State.worked
  rw [modOut_schedule]
  rfl

theorem tolerance_lateTaken (s : State) (i : Fin 64) : (lateTaken s i).schedule.tolerance = s.schedule.tolerance := by
  cases he : s.entry i with
  | none => rw [lateTaken_none he]
  | some e => rw [lateTaken_worked he, worked_schedule]; rfl

/-- What an entry does to its line leaves the line's settings. -/
theorem lateWork_act (s : State) (i : Fin 64) (e : Entry) (o : OutLine) :
    ((lateWork s i e).act o).gated = o.gated ∧ ((lateWork s i e).act o).rest = o.rest ∧ ((lateWork s i e).act o).safe = o.safe := by
  have hp : ∀ o, (pulseEnded e o).gated = o.gated ∧ (pulseEnded e o).rest = o.rest ∧ (pulseEnded e o).safe = o.safe := fun o => by
    unfold pulseEnded
    split <;> exact ⟨rfl, rfl, rfl⟩
  have hf : ∀ f : Entry, ∀ o, (fired f o).gated = o.gated ∧ (fired f o).rest = o.rest ∧ (fired f o).safe = o.safe := fun f o => by
    unfold fired
    split <;> exact ⟨rfl, rfl, rfl⟩
  unfold lateWork
  split
  · exact hp o
  · cases e.due with
    | none => exact ⟨rfl, rfl, rfl⟩
    | some d =>
      simp only [Option.elim, Work.caught]
      split
      · obtain ⟨h1, h2, h3⟩ := hf { e with running := none } (pulseEnded e o)
        obtain ⟨k1, k2, k3⟩ := hp o
        exact ⟨h1.trans k1, h2.trans k2, h3.trans k3⟩
      · exact hp o

theorem gated_lateTaken (s : State) (i : Fin 64) (k : Fin 8) : ((lateTaken s i).out k).gated = (s.out k).gated := by
  cases he : s.entry i with
  | none => rw [lateTaken_none he]
  | some e =>
    rw [lateTaken_worked he, worked_out]
    split
    · exact (lateWork_act s i e _).1
    · rfl

theorem lateTaken_room {s : State} {n : Nat} (h : RoomFor (n + 2) s) (i : Fin 64) : RoomFor n (lateTaken s i) := by
  cases he : s.entry i with
  | none => rw [lateTaken_none he]; exact h.mono (Nat.le_add_right n 2)
  | some e =>
    rw [lateTaken_worked he]
    refine RoomFor.storing (s := s) (t := s.time.partTime) (q := quality s) (l := (lateWork s i e).records) ?_ ?_ (worked_journal _ _ _ _)
    · exact h.mono (Nat.add_le_add_left (lateWork_records_length s i e) n)
    · exact worked_unchanged s i e.line _ .rstn (by decide)

theorem lateTakens_room {n : Nat} {L : List (Fin 64)} {s : State} (h : RoomFor (n + 2 * L.length) s) : RoomFor n (L.foldl lateTaken s) := by
  induction L generalizing s with
  | nil => exact h
  | cons i L ih => exact ih (lateTaken_room (h.mono (by rw [List.length_cons]; omega)) i)

/-! ### The model's late entries -/

/-- The late entries of a list as the model takes them, where the journal has room. -/
theorem foldl_takeLate {L : List (Fin 64)} (hn : L.Nodup) {s : State} (h : ∀ i ∈ L, ∃ e d, s.entry i = some e ∧ e.due = some d)
    (hr : RoomFor (2 * L.length) s) : L.foldl (takeLate s.time.partTime) s = L.foldl lateTaken s := by
  induction L generalizing s with
  | nil => rfl
  | cons i L ih =>
    obtain ⟨hi, hnL⟩ := List.nodup_cons.mp hn
    obtain ⟨e, d, he, hd⟩ := h i (by simp)
    have ht : (lateTaken s i).time = s.time := lateTaken_unchanged s i .time (by decide)
    have hrest : ∀ j ∈ L, ∃ e d, (lateTaken s i).entry j = some e ∧ e.due = some d := fun j hj => by
      rw [entry_lateTaken_of_ne (by rintro rfl; exact hi hj)]
      exact h j (List.mem_cons_of_mem i hj)
    have hroom : RoomFor (2 * L.length) (lateTaken s i) := lateTaken_room (hr.mono (by rw [List.length_cons]; omega)) i
    rw [List.foldl_cons, List.foldl_cons, takeLate_eq_lateTaken he hd (hr.mono (by rw [List.length_cons]; omega))]
    have := ih hnL hrest hroom
    rwa [ht] at this

/-! ### Late entries beside other slots -/

theorem putEntry_comm (s : State) {i j : Fin 64} (h : i ≠ j) (x y : Option Entry) :
    (s.putEntry i x).putEntry j y = (s.putEntry j y).putEntry i x := by
  refine state_ext fun b _ => ?_
  cases b
  case schedule =>
    refine schedule_ext (fun k => ⟨?_, ?_⟩) rfl rfl rfl
    · show ((s.putEntry i x).putEntry j y).entry k = ((s.putEntry j y).putEntry i x).entry k
      simp only [entry_putEntry]
      by_cases h1 : k = i
      · simp [h1, h]
      · simp [h1]
    · have hk : ((s.putEntry i x).putEntry j y).handle k = ((s.putEntry j y).putEntry i x).handle k := by simp only [handle_putEntry]
      exact congrArg Handle.generation hk
  all_goals rfl

theorem modOut_putEntry (l : Option (Fin 8)) (f : OutLine → OutLine) (s : State) (i : Fin 64) (x : Option Entry) :
    modOut l f (s.putEntry i x) = (modOut l f s).putEntry i x := by cases l <;> rfl

theorem worked_putEntry (s : State) {i j : Fin 64} (h : i ≠ j) (x : Option Entry) (l : Option (Fin 8)) (w : Work) :
    (s.putEntry j x).worked i l w = (s.worked i l w).putEntry j x := by
  unfold State.worked
  rw [← modOut_putEntry, ← putEntry_comm _ h.symm]
  rfl

theorem lateWork_putEntry (s : State) {i : Fin 64} (j : Fin 64) (x : Option Entry) (e : Entry) :
    lateWork (s.putEntry j x) i e = lateWork s i e := lateWork_congr e rfl rfl (fun _ => rfl) rfl (handle_putEntry s j i x)

/-- A late entry and a change of another one can be taken in either order. -/
theorem lateTaken_modEntry (s : State) {i j : Fin 64} (h : i ≠ j) (f : Entry → Entry) :
    lateTaken (modEntry j f s) i = modEntry j f (lateTaken s i) := by
  have he : (modEntry j f s).entry i = s.entry i := by
    unfold modEntry
    rw [entry_putEntry, if_neg h]
  cases hs : s.entry i with
  | none => rw [lateTaken_none hs, lateTaken_none (he.trans hs)]
  | some e =>
    have hj : (lateTaken s i).entry j = s.entry j := entry_lateTaken_of_ne h.symm
    rw [lateTaken_worked (he.trans hs)]
    unfold modEntry
    rw [hj, lateWork_putEntry, worked_putEntry s h, lateTaken_worked hs]

theorem lateTakens_modEntry {L : List (Fin 64)} {j : Fin 64} (h : j ∉ L) (f : Entry → Entry) (s : State) :
    L.foldl lateTaken (modEntry j f s) = modEntry j f (L.foldl lateTaken s) := by
  induction L generalizing s with
  | nil => rfl
  | cons i L ih =>
    obtain ⟨h1, h2⟩ := not_or.mp (mt List.mem_cons.mpr h)
    rw [List.foldl_cons, List.foldl_cons, lateTaken_modEntry s (Ne.symm h1), ih h2]

/-- A change made to the entries of a list, one after another. -/
def State.modEntries (s : State) (f : Entry → Entry) (N : List (Fin 64)) : State := N.foldl (fun u j => modEntry j f u) s

theorem lateTakens_modEntries {L N : List (Fin 64)} (h : ∀ j ∈ N, j ∉ L) (f : Entry → Entry) (s : State) :
    L.foldl lateTaken (s.modEntries f N) = (L.foldl lateTaken s).modEntries f N := by
  induction N generalizing s with
  | nil => rfl
  | cons j N ih =>
    have h1 := ih (fun k hk => h k (List.mem_cons_of_mem j hk)) (modEntry j f s)
    refine h1.trans ?_
    rw [lateTakens_modEntry (h j (by simp))]
    rfl

theorem entry_modEntries {N : List (Fin 64)} (hn : N.Nodup) (f : Entry → Entry) (s : State) (j : Fin 64) :
    (s.modEntries f N).entry j = if j ∈ N then (s.entry j).map f else s.entry j := by
  induction N generalizing s with
  | nil => simp [State.modEntries]
  | cons i N ih =>
    obtain ⟨hi, hnN⟩ := List.nodup_cons.mp hn
    refine (ih hnN (modEntry i f s)).trans ?_
    unfold modEntry
    rw [entry_putEntry]
    by_cases h1 : j = i
    · subst h1
      simp [hi]
    · simp [h1]

theorem modEntries_unchanged (f : Entry → Entry) (N : List (Fin 64)) (s : State) : Unchanged [.schedule] s (s.modEntries f N) :=
  (Kept.foldl (fun u j => kept_modEntry j f u) N s).unchanged

theorem handle_modEntries (f : Entry → Entry) (N : List (Fin 64)) (s : State) (j : Fin 64) : (s.modEntries f N).handle j = s.handle j := by
  induction N generalizing s with
  | nil => rfl
  | cons i N ih => exact (ih (modEntry i f s)).trans (handle_putEntry s i j _)

theorem modEntries_schedule (f : Entry → Entry) (N : List (Fin 64)) (s : State) :
    (s.modEntries f N).schedule.admission = s.schedule.admission ∧ (s.modEntries f N).schedule.quotas = s.schedule.quotas
      ∧ (s.modEntries f N).schedule.tolerance = s.schedule.tolerance := by
  induction N generalizing s with
  | nil => exact ⟨rfl, rfl, rfl⟩
  | cons i N ih => exact ih (modEntry i f s)

theorem mapEntries_unchanged (s : State) (f : Entry → Option Entry) : Unchanged [.schedule] s (s.mapEntries f) := fun b hb => by
  cases b <;> first | exact absurd (by decide) hb | rfl

/-- A state that differs in its schedule only. -/
theorem eq_of_schedule {s t u : State} (ht : Unchanged [.schedule] s t) (hu : Unchanged [.schedule] s u) (h : t.schedule = u.schedule) : t = u := by
  refine state_ext fun b _ => ?_
  by_cases hb : b ∈ [Block.schedule]
  · obtain rfl := List.mem_singleton.mp hb
    exact h
  · have h1 := ht b hb
    have h2 := hu b hb
    cases b <;> exact h1.trans h2.symm

/-! ### The return from HELD -/

/-- An ordered list with a test that passes from later members to earlier ones falls in two. -/
theorem ordered_partition {α : Type} {r : α → α → Prop} {P : α → Bool} (hP : ∀ a b, r a b → P b = true → P a = true) :
    ∀ {S : List α}, S.Pairwise r → S = S.filter P ++ S.filter fun a => !P a
  | [], _ => rfl
  | a :: S, h => by
      obtain ⟨ha, hS⟩ := List.pairwise_cons.mp h
      have ih := ordered_partition hP hS
      cases hPa : P a with
      | true => simpa [hPa] using ih
      | false =>
        have hnone : S.filter P = [] := List.filter_eq_nil_iff.mpr fun b hb hPb => by
          rw [hP a b (ha b hb) hPb] at hPa
          cases hPa
        rw [hnone, List.nil_append] at ih
        simp only [List.filter_cons, hPa, Bool.false_eq_true, if_false, Bool.not_false, if_true, hnone, List.nil_append]
        rw [← ih]

/-- A DEFERRED entry at or below the resume time, and one above it, in RUNNING (R98). -/
theorem resumeEntry_late {s : State} {i : Fin 64} {e : Entry} {d : Nat} (h : s.entry i = some e) (hd : e.due = some d)
    (hl : d ≤ s.time.partTime) (hp : s.permit.state ≠ .held) (hr : RoomFor 2 s) : resumeEntry s.time.partTime s i = lateTaken s i := by
  have hn : deferredNow s e = false := by
    unfold deferredNow
    rw [beq_eq_false_iff_ne.mpr hp, Bool.false_and]
  rw [← takeLate_eq_lateTaken h hd hr]
  unfold resumeEntry takeLate
  simp only [h, hd, hn, Option.getD_some, if_pos hl, Bool.false_eq_true, if_false]

theorem resumeEntry_waits {s : State} {i : Fin 64} {e : Entry} {d R : Nat} (h : s.entry i = some e) (hd : e.due = some d) (hl : ¬ d ≤ R) :
    resumeEntry R s i = modEntry i (fun e => { e with state := .pending }) s := by
  unfold resumeEntry
  simp only [h, hd, Option.getD_some, if_neg hl]

theorem foldl_resume_late {L : List (Fin 64)} (hn : L.Nodup) {s : State}
    (h : ∀ i ∈ L, ∃ e d, s.entry i = some e ∧ e.due = some d ∧ d ≤ s.time.partTime) (hp : s.permit.state ≠ .held)
    (hr : RoomFor (2 * L.length) s) : L.foldl (resumeEntry s.time.partTime) s = L.foldl lateTaken s := by
  induction L generalizing s with
  | nil => rfl
  | cons i L ih =>
    obtain ⟨hi, hnL⟩ := List.nodup_cons.mp hn
    obtain ⟨e, d, he, hd, hl⟩ := h i (by simp)
    have ht : (lateTaken s i).time = s.time := lateTaken_unchanged s i .time (by decide)
    have hpm : (lateTaken s i).permit = s.permit := lateTaken_unchanged s i .permit (by decide)
    have hrest : ∀ j ∈ L, ∃ e d, (lateTaken s i).entry j = some e ∧ e.due = some d ∧ d ≤ (lateTaken s i).time.partTime := fun j hj => by
      rw [entry_lateTaken_of_ne (by rintro rfl; exact hi hj), ht]
      exact h j (List.mem_cons_of_mem i hj)
    have hroom : RoomFor (2 * L.length) (lateTaken s i) := lateTaken_room (hr.mono (by rw [List.length_cons]; omega)) i
    rw [List.foldl_cons, List.foldl_cons, resumeEntry_late he hd hl hp (hr.mono (by rw [List.length_cons]; omega))]
    have := ih hnL hrest (by rwa [hpm]) hroom
    rwa [ht] at this

theorem foldl_resume_waits {N : List (Fin 64)} (hn : N.Nodup) {R : Nat} {s : State}
    (h : ∀ i ∈ N, ∃ e d, s.entry i = some e ∧ e.due = some d ∧ ¬ d ≤ R) :
    N.foldl (resumeEntry R) s = s.modEntries (fun e => { e with state := .pending }) N := by
  induction N generalizing s with
  | nil => rfl
  | cons i N ih =>
    obtain ⟨hi, hnN⟩ := List.nodup_cons.mp hn
    obtain ⟨e, d, he, hd, hl⟩ := h i (by simp)
    rw [List.foldl_cons, resumeEntry_waits he hd hl]
    refine ih hnN fun j hj => ?_
    unfold modEntry
    rw [entry_putEntry, if_neg (by rintro rfl; exact hi hj)]
    exact h j (List.mem_cons_of_mem i hj)

/-- A DEFERRED entry that a resume does not take waits for its due time (R98). -/
def resumed (T : Nat) (e : Entry) : Entry := if e.state = .deferred ∧ e.lateAt T = false then { e with state := .pending } else e

theorem lateAt_iff {e : Entry} {d : Nat} (h : e.due = some d) (T : Nat) : e.lateAt T = true ↔ d ≤ T := by
  unfold Entry.lateAt
  rw [h]
  exact decide_eq_true_iff

/-- Making the waiting entries of a list PENDING is making every DEFERRED entry so that a resume does not take. -/
theorem modEntries_resumed {s : State} {N : List (Fin 64)} (hn : N.Nodup)
    (hN : ∀ i, i ∈ N ↔ ∃ e d, s.entry i = some e ∧ e.state = .deferred ∧ e.due = some d ∧ ¬ d ≤ s.time.partTime)
    (hd : ∀ i e, s.entry i = some e → e.state = .deferred → e.due.isSome = true) :
    s.modEntries (fun e => { e with state := .pending }) N = s.mapEntries fun e => some (resumed s.time.partTime e) := by
  obtain ⟨a1, a2, a3⟩ := modEntries_schedule (fun e => { e with state := .pending }) N s
  refine eq_of_schedule (modEntries_unchanged _ N s) (mapEntries_unchanged s _) (mapEntries_schedule (fun i => ?_) (handle_modEntries _ N s) a1 a2 a3)
  rw [entry_modEntries hn]
  cases he : s.entry i with
  | none => simp
  | some e =>
    simp only [Option.map_some, Option.bind_some, resumed]
    by_cases hi : i ∈ N
    · obtain ⟨e', d, he', hst, hed, hle⟩ := (hN i).mp hi
      rw [he] at he'
      obtain rfl := Option.some.inj he'
      rw [if_pos hi, if_pos ⟨hst, Bool.eq_false_iff.mpr (mt (lateAt_iff hed _).mp hle)⟩]
    · rw [if_neg hi, if_neg]
      rintro ⟨hst, hl⟩
      obtain ⟨d, hed⟩ := Option.isSome_iff_exists.mp (hd i e he hst)
      refine hi ((hN i).mpr ⟨e, d, he, hst, hed, fun hle => ?_⟩)
      rw [(lateAt_iff hed _).mpr hle] at hl
      cases hl

/-- The return from HELD, where the journal has room (R98): in due order the late entries first, then the others. -/
theorem resumeDeferred_eq {s : State} (hd : ∀ i e, s.entry i = some e → e.state = .deferred → e.due.isSome = true) {L : List (Fin 64)}
    (hL : Listed s (fun e => e.state = .deferred ∧ e.lateAt s.time.partTime = true) dueBefore L) (hp : s.permit.state ≠ .held)
    (hr : RoomFor (2 * L.length) s) :
    resumeDeferred s = L.foldl lateTaken (s.mapEntries fun e => some (resumed s.time.partTime e)) := by
  generalize hS : byDue s (slotsWhere s fun e => e.state == .deferred) = S
  have hSn : S.Nodup := hS ▸ byDue_nodup (slotsWhere_nodup s _)
  have hSm : ∀ i, i ∈ S ↔ ∃ e, s.entry i = some e ∧ e.state = .deferred := fun i => by
    rw [← hS, mem_byDue, mem_slotsWhere]
    simp only [beq_iff_eq]
  have hSp : S.Pairwise fun i j => dueOf s i ≤ dueOf s j := hS ▸ (byDue_pairwise s _).imp fun h => by omega
  have hsplit := ordered_partition (P := fun i => decide (dueOf s i ≤ s.time.partTime))
    (fun i j hij hj => decide_eq_true (Nat.le_trans hij (of_decide_eq_true hj))) hSp
  generalize hM : S.filter (fun i => decide (dueOf s i ≤ s.time.partTime)) = M at hsplit
  generalize hN : S.filter (fun i => !decide (dueOf s i ≤ s.time.partTime)) = N at hsplit
  have hlate : ∀ i, i ∈ M ↔ ∃ e d, s.entry i = some e ∧ e.state = .deferred ∧ e.due = some d ∧ d ≤ s.time.partTime := fun i => by
    rw [← hM, List.mem_filter, hSm, decide_eq_true_iff]
    constructor
    · rintro ⟨⟨e, he, hst⟩, hle⟩
      obtain ⟨d, hed⟩ := Option.isSome_iff_exists.mp (hd i e he hst)
      exact ⟨e, d, he, hst, hed, dueOf_of_entry he hed ▸ hle⟩
    · rintro ⟨e, d, he, hst, hed, hle⟩
      exact ⟨⟨e, he, hst⟩, (dueOf_of_entry he hed).symm ▸ hle⟩
  have hwait : ∀ i, i ∈ N ↔ ∃ e d, s.entry i = some e ∧ e.state = .deferred ∧ e.due = some d ∧ ¬ d ≤ s.time.partTime := fun i => by
    rw [← hN, List.mem_filter, hSm, Bool.not_eq_true', decide_eq_false_iff_not]
    constructor
    · rintro ⟨⟨e, he, hst⟩, hle⟩
      obtain ⟨d, hed⟩ := Option.isSome_iff_exists.mp (hd i e he hst)
      exact ⟨e, d, he, hst, hed, dueOf_of_entry he hed ▸ hle⟩
    · rintro ⟨e, d, he, hst, hed, hle⟩
      exact ⟨⟨e, he, hst⟩, (dueOf_of_entry he hed).symm ▸ hle⟩
  have hMn : M.Nodup := hM ▸ hSn.filter _
  have hNn : N.Nodup := hN ▸ hSn.filter _
  have hLM : M = L := by
    have hsub : (byDue s M) = L := byDue_eq hMn (fun i => by
      rw [hL.1, hlate]
      constructor
      · rintro ⟨e, he, hst, hl⟩
        obtain ⟨d, hed⟩ := Option.isSome_iff_exists.mp (hd i e he hst)
        exact ⟨e, d, he, hst, hed, (lateAt_iff hed _).mp hl⟩
      · rintro ⟨e, d, he, hst, hed, hle⟩
        exact ⟨e, he, hst, (lateAt_iff hed _).mpr hle⟩)
      (hL.2.imp_of_mem fun {i j} hi hj hij => by
        obtain ⟨e, he, _⟩ := (hL.1 i).mp hi
        obtain ⟨f, hf, _⟩ := (hL.1 j).mp hj
        exact ⟨e, f, he, hf, hij e f he hf⟩)
    have hsorted : M.Pairwise fun i j => dueOf s i < dueOf s j ∨ (dueOf s i = dueOf s j ∧ admissionOf s i ≤ admissionOf s j) :=
      hM ▸ (hS ▸ byDue_pairwise s _).filter _
    rw [← hsub]
    exact (hsorted.insertionSort_eq).symm
  subst hLM
  have hdisj : ∀ j ∈ N, j ∉ M := fun j hj hjM => by
    obtain ⟨e, d, he, _, hed, hle⟩ := (hwait j).mp hj
    obtain ⟨e', d', he', _, hed', hle'⟩ := (hlate j).mp hjM
    rw [he] at he'
    obtain rfl := Option.some.inj he'
    rw [hed] at hed'
    obtain rfl := Option.some.inj hed'
    exact hle hle'
  have hmap := modEntries_resumed hNn hwait hd
  have hfirst : M.foldl (resumeEntry s.time.partTime) s = M.foldl lateTaken s :=
    foldl_resume_late hMn (fun i hi => by
      obtain ⟨e, d, he, _, hed, hle⟩ := (hlate i).mp hi
      exact ⟨e, d, he, hed, hle⟩) hp hr
  have hsecond : N.foldl (resumeEntry s.time.partTime) (M.foldl lateTaken s)
      = (M.foldl lateTaken s).modEntries (fun e => { e with state := .pending }) N :=
    foldl_resume_waits hNn fun i hi => by
      obtain ⟨e, d, he, _, hed, hle⟩ := (hwait i).mp hi
      refine ⟨e, d, ?_, hed, hle⟩
      rw [entry_lateTakens_of_notMem (hdisj i hi), he]
  unfold resumeDeferred
  rw [hS, hsplit, List.foldl_append, hfirst, hsecond, ← lateTakens_modEntries hdisj, hmap]

end Sys2Proof.Machine
end

section
/-! SUPPORT. A change of permit state, where the journal has room, leaves what `permitChanged` says (R98, R99, R109 to R112, R142, R147, R157,
R158); and this is independent of the links of the ports. -/

set_option Elab.async false

namespace Sys2Proof.Machine

/-! ### Changes of the links -/

/-- A change of the ports that a change of sessions, where they are open, passes by. -/
structure Blind (g : PerPort PortState → PerPort PortState) : Prop where
  maps : ∀ (f : Port → Session → Session) x,
    g (x.mapIdx fun q y => { y with session := y.session.map (f q) }) = (g x).mapIdx fun q y => { y with session := y.session.map (f q) }

/-- The state with its ports so changed. -/
def State.linked (s : State) (g : PerPort PortState → PerPort PortState) : State := { s with ports := g s.ports }

/-- A change of one port that does not read its session. -/
theorem blind_set (p : Port) {h : PortState → PortState}
    (hh : ∀ y (f : Session → Session), h { y with session := y.session.map f } = { h y with session := (h y).session.map f }) :
    Blind fun x => x.set p (h (x.get p)) := by
  refine ⟨fun f x => PerPort.ext_get fun q => ?_⟩
  simp only [PerPort.get_mapIdx, PerPort.get_set]
  split
  · next hq => rw [hh, hq]
  · rfl

theorem Blind.noticeAt {g : PerPort PortState → PerPort PortState} (hg : Blind g) (n : Byte) (p : Port) (x : PerPort PortState) :
    g (noticeAt n p x) = noticeAt n p (g x) := by
  have hn : ∀ y : PerPort PortState, Machine.noticeAt n p y
      = y.mapIdx fun q z => { z with session := z.session.map (if q = p then Session.notice n else id) } := fun y => by
    refine PerPort.ext_get fun q => ?_
    rw [Machine.noticeAt, PerPort.get_set, PerPort.get_mapIdx]
    split
    · next hq => rw [hq]
    · rw [Option.map_id_fun, id]
  rw [hn, hn, hg.maps fun q => if q = p then Session.notice n else id]

theorem worked_linked {g : PerPort PortState → PerPort PortState} (s : State) (i : Fin 64) (l : Option (Fin 8)) {w : Work}
    (h : g (w.ports s.ports) = w.ports (g s.ports)) : (s.linked g).worked i l w = (s.worked i l w).linked g := by
  have hs : (s.linked g).worked i l w = { s.worked i l w with ports := w.ports (g s.ports) } := by
    unfold State.worked modOut State.linked
    cases l <;> rfl
  rw [hs, ← h]
  unfold State.worked modOut State.linked
  cases l <;> rfl

theorem lateTaken_linked {g : PerPort PortState → PerPort PortState} (hg : Blind g) (s : State) (i : Fin 64) :
    lateTaken (s.linked g) i = (lateTaken s i).linked g := by
  cases h : s.entry i with
  | none => rw [lateTaken_none h, lateTaken_none (s := s.linked g) h]
  | some e =>
    have hw : lateWork (s.linked g) i e = lateWork s i e := rfl
    rw [lateTaken_worked h, lateTaken_worked (s := s.linked g) h, hw, worked_linked]
    rcases lateWork_ports s i e with hp | ⟨n, q, hp⟩
    · rw [hp]
    · rw [hp, hg.noticeAt]

theorem lateTakens_linked {g : PerPort PortState → PerPort PortState} (hg : Blind g) (L : List (Fin 64)) (s : State) :
    L.foldl lateTaken (s.linked g) = (L.foldl lateTaken s).linked g := by
  induction L generalizing s with
  | nil => rfl
  | cons i L ih => rw [List.foldl_cons, List.foldl_cons, lateTaken_linked hg, ih]

/-! ### Late entries and the permit unit -/

theorem lateTaken_setPermit (s : State) {pm : Permit} (h : pm.state = s.permit.state) (i : Fin 64) :
    lateTaken (s.setPermit pm) i = (lateTaken s i).setPermit pm := by
  cases he : s.entry i with
  | none => rw [lateTaken_none he, lateTaken_none (s := s.setPermit pm) he]
  | some e =>
    rw [lateTaken_worked he, lateTaken_worked (s := s.setPermit pm) he, lateWork_congr (s := s) (t := s.setPermit pm) e rfl h (fun _ => rfl) rfl rfl]
    unfold State.worked modOut
    cases e.line <;> rfl

theorem lateTakens_setPermit (L : List (Fin 64)) (s : State) {pm : Permit} (h : pm.state = s.permit.state) :
    L.foldl lateTaken (s.setPermit pm) = (L.foldl lateTaken s).setPermit pm := by
  induction L generalizing s with
  | nil => rfl
  | cons i L ih =>
    have hp : (lateTaken s i).permit = s.permit := lateTaken_unchanged s i .permit (by decide)
    rw [List.foldl_cons, List.foldl_cons, lateTaken_setPermit s h, ih _ (by rw [hp]; exact h)]

/-! ### What `permitChanged` says, by the new state -/

/-- A change of the gated lines. -/
def State.gatedLines (s : State) (f : OutLine → OutLine) : State := { s with outs := s.outs.map fun o => if o.gated then f o else o }

/-- The state with PERMIT pending for every open session but a closing one (R142, R158). -/
def State.permitNoticed (s : State) (closing : Option Port) : State :=
  { s with
    ports := s.ports.mapIdx fun q (x : PortState) =>
      if closing = some q then x else { x with session := x.session.map fun z => { z with notices := z.notices ||| 0x04#8 } } }

/-- The state once the permit unit has changed, with the records given. -/
def State.permitted (s : State) (pm : Permit) (l : List (Origin × Body)) : State :=
  { s with permit := pm, journal := s.journal.storing s.time.partTime (quality s) l }

/-- The record of a change of permit state (R157). -/
def permitRecord (s : State) (pm : Permit) (cause : PermitCause) : Origin × Body := (.part, .permit s.permit.state pm.state cause)

section
variable {s : State} {pm : Permit} (cause : PermitCause) (closing : Option Port) (L : List (Fin 64))

theorem permitChanged_same (h : pm.state = s.permit.state) : permitChanged s pm cause closing L = s.setPermit pm := by
  unfold permitChanged
  rw [if_pos h]
  rfl

theorem permitChanged_stopped (h : pm.state = .stopped) (hs : s.permit.state ≠ .stopped) :
    permitChanged s pm cause closing L
      = ((((s.permitted pm (permitRecord s pm cause :: cancelRecords s .permitStop L)).gatedLines fun o =>
            { o with commanded := o.safe, driven := o.safe, pulse := none }).mapEntries
          fun e => if onGatedLine s e then none else some e).permitNoticed closing) := by
  unfold permitChanged permitRecord
  rw [if_neg (by rw [h]; exact hs.symm)]
  simp only [h, if_true]
  rfl

theorem permitChanged_arming (h : pm.state = .arming) (hs : s.permit.state ≠ .arming) :
    permitChanged s pm cause closing L
      = ((s.permitted pm [permitRecord s pm cause]).gatedLines fun o => { o with driven := o.safe }).permitNoticed closing := by
  unfold permitChanged permitRecord
  rw [if_neg (by rw [h]; exact hs.symm)]
  simp only [h, reduceCtorEq, if_false]
  rfl

theorem permitChanged_held (h : pm.state = .held) (hs : s.permit.state ≠ .held) :
    permitChanged s pm cause closing L = (s.permitted pm [permitRecord s pm cause]).permitNoticed closing := by
  unfold permitChanged permitRecord
  rw [if_neg (by rw [h]; exact hs.symm)]
  simp only [h, reduceCtorEq, if_false]
  rfl

theorem permitChanged_running (h : pm.state = .running) (hs : s.permit.state ≠ .running) (hh : s.permit.state ≠ .held) :
    permitChanged s pm cause closing L
      = ((s.permitted pm [permitRecord s pm cause]).gatedLines fun o => { o with driven := o.commanded }).permitNoticed closing := by
  unfold permitChanged permitRecord
  rw [if_neg (by rw [h]; exact hs.symm)]
  simp only [h, reduceCtorEq, if_false, hh]
  rfl

theorem permitChanged_resumed (h : pm.state = .running) (hh : s.permit.state = .held) :
    permitChanged s pm cause closing L
      = ((L.foldl lateTaken ((s.permitted pm [permitRecord s pm cause]).mapEntries fun e => some (resumed s.time.partTime e))).gatedLines fun o =>
          { o with driven := o.commanded }).permitNoticed closing := by
  unfold permitChanged permitRecord
  rw [if_neg (by rw [h, hh]; decide)]
  simp only [h, reduceCtorEq, if_false, hh, if_true]
  rfl

end

/-! ### The permit unit's own change -/

/-- The gated lines formed, by what the drive rule gives in a permit state (R109). -/
theorem formGatedDrives_eq {s : State} {f : OutLine → OutLine} (h : ∀ o : OutLine, o.gated = true → o.formed s.permit.state = f o) :
    formGatedDrives s = s.gatedLines f := by
  unfold formGatedDrives State.gatedLines
  have hv : (s.outs.map fun o => if o.gated then o.formed s.permit.state else o) = s.outs.map fun o => if o.gated then f o else o :=
    congrArg (Vector.map · s.outs) (funext fun o => by
      split
      · next hg => exact h o hg
      · rfl)
  rw [hv]

theorem gatedLines_gatedLines (s : State) {f : OutLine → OutLine} (h : OutLine → OutLine) (hf : ∀ o, (f o).gated = o.gated) :
    (s.gatedLines f).gatedLines h = s.gatedLines fun o => h (f o) := by
  have hv : ((s.outs.map fun o => if o.gated then f o else o).map fun o => if o.gated then h o else o)
      = s.outs.map fun o => if o.gated then h (f o) else o := by
    rw [Vector.map_map]
    refine congrArg (Vector.map · s.outs) (funext fun o => ?_)
    simp only [Function.comp]
    split
    · next hg => rw [hf, hg, if_pos rfl]
    · rfl
  exact congrArg (fun v => { s with outs := v }) hv

theorem gatedLines_id {s : State} {f : OutLine → OutLine} (h : ∀ o : OutLine, o.gated = true → f o = o) : s.gatedLines f = s := by
  have hv : (s.outs.map fun o => if o.gated then f o else o) = s.outs := by
    refine Vector.ext fun k hk => ?_
    rw [Vector.getElem_map]
    split
    · next hg => exact h _ hg
    · rfl
  exact congrArg (fun v => { s with outs := v }) hv

theorem RoomFor.permitted {s : State} {n : Nat} {l : List (Origin × Body)} (h : RoomFor (n + l.length) s) (pm : Permit) :
    RoomFor n (s.permitted pm l) := RoomFor.storing h rfl rfl

theorem permitted_permitted (s : State) (a b : Permit) (l m : List (Origin × Body)) :
    (s.permitted a l).permitted b m = s.permitted b (l ++ m) := by
  have hj := storing_storing s.journal s.time.partTime (quality s) l m
  unfold State.permitted
  simp only [quality] at hj ⊢
  rw [hj]

/-- Step 4 of a change of permit state, by the new state (R109 to R112, R147). -/
theorem permitToLines_stopped {s : State} (h : s.permit.state = .stopped) :
    permitToLines .stopped s = s.gatedLines fun o => { o with commanded := o.safe, driven := o.safe, pulse := none } := by
  have hf := formGatedDrives_eq (s := gatedLinesSafe s) (f := fun o => { o with driven := o.safe }) fun o hg => by
    rw [gatedLinesSafe_permit, h]
    unfold OutLine.formed OutLine.drive
    rw [if_pos hg]
  exact hf.trans (gatedLines_gatedLines s (f := fun o => { o with commanded := o.safe, pulse := none }) _ fun o => rfl)

theorem permitToLines_arming {s : State} (h : s.permit.state = .arming) :
    permitToLines .arming s = s.gatedLines fun o => { o with driven := o.safe } := formGatedDrives_eq (s := s) fun o hg => by
  rw [h]
  unfold OutLine.formed OutLine.drive
  rw [if_pos hg]

theorem permitToLines_running {s : State} (h : s.permit.state = .running) :
    permitToLines .running s = s.gatedLines fun o => { o with driven := o.commanded } := formGatedDrives_eq (s := s) fun o hg => by
  rw [h]
  unfold OutLine.formed OutLine.drive
  rw [if_pos hg]

theorem permitToLines_held {s : State} (h : s.permit.state = .held) : permitToLines .held s = s := by
  have hf : permitToLines .held s = s.gatedLines fun o => o := formGatedDrives_eq (s := s) fun o hg => by
    rw [h]
    unfold OutLine.formed OutLine.drive
    rw [if_pos hg]
  rw [hf, gatedLines_id fun _ _ => rfl]

/-- The permit unit pm is what a change of state makes of a, whose state is the one in force (R147, R148, R156). -/
structure Reached (s : State) (a pm : Permit) (cause : PermitCause) : Prop where
  old   : a.state = s.permit.state
  moved : pm.state ≠ s.permit.state
  pm_eq : pm = { a with
    state := pm.state, timer := if pm.state = .arming then some (1000 * a.startDelay) else none
    lastChange := some (s.time.partTime, cause), prun := levelOfBool (pm.state == .running), phold := levelOfBool (pm.state == .held) }

/-- The permit unit after step 1 of its change, its pins still as they were. -/
def entered (a pm : Permit) : Permit := { a with state := pm.state, timer := pm.timer, lastChange := pm.lastChange }

section
variable {s : State} {a pm : Permit} {cause : PermitCause} {closing : Option Port} {L : List (Fin 64)}

/-- The six steps, the schedule's part and the lines' part given (R147). -/
theorem changePermit_reached (h : Reached s a pm cause) (hr : RoomFor 1 s) {v u : State}
    (hv : permitToSchedule s.permit.state pm.state (s.permitted (entered a pm) [permitRecord s pm cause]) = v)
    (hu : permitToLines pm.state v = u) : changePermit pm.state cause closing (s.setPermit a) = (u.setPermit pm).permitNoticed closing := by
  have hmid : enterPermitState pm.state cause (s.setPermit a) = s.setPermit (entered a pm) := by
    have ht : pm.timer = if pm.state = .arming then some (1000 * a.startDelay) else none := congrArg Permit.timer h.pm_eq
    have hc : pm.lastChange = some (s.time.partTime, cause) := congrArg Permit.lastChange h.pm_eq
    unfold entered
    rw [ht, hc]
    rfl
  have ho : offer .part (.permit s.permit.state pm.state cause) (s.setPermit (entered a pm))
      = s.permitted (entered a pm) [permitRecord s pm cause] := offer_eq_storing (s := s.setPermit (entered a pm)) (hr.congr rfl rfl) _ _
  have hup : u.permit = entered a pm := by
    rw [← hu, (kept_permitToLines pm.state v).unchanged .permit (by decide), ← hv]
    exact (kept_permitToSchedule s.permit.state pm.state _).unchanged .permit (by decide)
  have hpins : setPermitPins u = u.setPermit pm := by
    unfold setPermitPins
    rw [hup]
    refine congrArg u.setPermit (Eq.trans ?_ h.pm_eq.symm)
    unfold entered
    rw [h.pm_eq]
  unfold changePermit
  dsimp only
  rw [State.setPermit_permit, h.old, hmid, ho, hv, hu, hpins]
  rfl

theorem changePermit_stopped (h : Reached s a pm cause) (hnew : pm.state = .stopped)
    (hL : Listed s (fun e => onGatedLine s e = true) admittedBefore L) (hr : RoomFor (1 + L.length) s) :
    changePermit pm.state cause closing (s.setPermit a) = permitChanged s pm cause closing L := by
  generalize hw : s.permitted (entered a pm) [permitRecord s pm cause] = w
  have hLw : Listed w (fun e => onGatedLine w e = true) admittedBefore L := by rw [← hw]; exact hL
  have hocc : ∀ i ∈ L, (w.entry i).isSome = true := fun i hi => by
    obtain ⟨e, he, _⟩ := (hLw.1 i).mp hi
    exact Option.isSome_iff_exists.mpr ⟨e, he⟩
  have hroom : RoomFor L.length w := hw ▸ RoomFor.permitted (by rw [List.length_singleton, Nat.add_comm]; exact hr) _
  have hcancel : permitToSchedule s.permit.state pm.state w = w.cancelled .permitStop L := by
    have hsch : permitToSchedule s.permit.state .stopped w = cancelWhere .permitStop (onGatedLine w) w := by
      unfold permitToSchedule
      cases s.permit.state <;> rfl
    rw [hnew, hsch, cancelWhere, hLw.byAdmission fun e => Iff.rfl]
    exact cancel_foldl hL.nodup_admission hocc hroom
  have hmap := emptied_eq_mapEntries hLw.1
  have hlines : permitToLines pm.state (w.cancelled .permitStop L) = (w.cancelled .permitStop L).gatedLines fun o =>
      { o with commanded := o.safe, driven := o.safe, pulse := none } := by
    rw [hnew]
    exact permitToLines_stopped (by rw [← hnew, ← hw]; rfl)
  have hrec : w.permitted pm (cancelRecords s .permitStop L) = s.permitted pm (permitRecord s pm cause :: cancelRecords s .permitStop L) := by
    rw [← hw, permitted_permitted]
    rfl
  rw [changePermit_reached h (hr.mono (Nat.le_add_right 1 _)) (hw ▸ hcancel) hlines,
    permitChanged_stopped cause closing L hnew (by rw [← hnew]; exact h.moved.symm), ← hrec]
  unfold State.cancelled
  rw [hmap, ← hw]
  rfl

theorem changePermit_arming (h : Reached s a pm cause) (hnew : pm.state = .arming) (hr : RoomFor 1 s) :
    changePermit pm.state cause closing (s.setPermit a) = permitChanged s pm cause closing L := by
  rw [permitChanged_arming cause closing L hnew (by rw [← hnew]; exact h.moved.symm)]
  refine changePermit_reached h hr ?_ ((congrArg (permitToLines · _) hnew).trans (permitToLines_arming (s := s.permitted (entered a pm) _) hnew))
  rw [hnew]
  unfold permitToSchedule
  cases s.permit.state <;> rfl

theorem changePermit_held (h : Reached s a pm cause) (hnew : pm.state = .held) (hr : RoomFor 1 s) :
    changePermit pm.state cause closing (s.setPermit a) = permitChanged s pm cause closing L := by
  rw [permitChanged_held cause closing L hnew (by rw [← hnew]; exact h.moved.symm)]
  refine changePermit_reached h hr ?_ ((congrArg (permitToLines · _) hnew).trans (permitToLines_held (s := s.permitted (entered a pm) _) hnew))
  rw [hnew]
  unfold permitToSchedule
  cases s.permit.state <;> rfl

theorem changePermit_running (h : Reached s a pm cause) (hnew : pm.state = .running) (hh : s.permit.state ≠ .held) (hr : RoomFor 1 s) :
    changePermit pm.state cause closing (s.setPermit a) = permitChanged s pm cause closing L := by
  rw [permitChanged_running cause closing L hnew (by rw [← hnew]; exact h.moved.symm) hh]
  refine changePermit_reached h hr ?_ ((congrArg (permitToLines · _) hnew).trans (permitToLines_running (s := s.permitted (entered a pm) _) hnew))
  rw [hnew]
  unfold permitToSchedule
  cases hst : s.permit.state
  case held => exact absurd hst hh
  all_goals rfl

theorem changePermit_resumed (h : Reached s a pm cause) (hnew : pm.state = .running) (hh : s.permit.state = .held)
    (hd : ∀ i e, s.entry i = some e → e.state = .deferred → e.due.isSome = true)
    (hL : Listed s (fun e => e.state = .deferred ∧ e.lateAt s.time.partTime = true) dueBefore L) (hr : RoomFor (1 + 2 * L.length) s) :
    changePermit pm.state cause closing (s.setPermit a) = permitChanged s pm cause closing L := by
  generalize hw : s.permitted (entered a pm) [permitRecord s pm cause] = w
  have hws : w.permit.state = .running := by rw [← hnew, ← hw]; rfl
  have hroom : RoomFor (2 * L.length) w := hw ▸ RoomFor.permitted (by rw [List.length_singleton, Nat.add_comm]; exact hr) _
  generalize hx : w.mapEntries (fun e => some (resumed w.time.partTime e)) = x
  have hxs : x.permit.state = .running := by rw [← hx]; exact hws
  have hsch : permitToSchedule s.permit.state pm.state w = L.foldl lateTaken x := by
    have hres : permitToSchedule s.permit.state pm.state w = resumeDeferred w := by
      rw [hnew, hh]
      rfl
    rw [hres, ← hx]
    refine resumeDeferred_eq (fun i e he => hd i e ?_) ?_ (by rw [hws]; decide) hroom
    · rw [← hw] at he; exact he
    · rw [← hw]; exact hL
  have hls : (L.foldl lateTaken x).permit = x.permit := lateTakens_unchanged L x .permit (by decide)
  have hlines := (congrArg (permitToLines · (L.foldl lateTaken x)) hnew).trans (permitToLines_running (by rw [hls, hxs]))
  have hxpm : (s.permitted pm [permitRecord s pm cause]).mapEntries (fun e => some (resumed s.time.partTime e)) = x.setPermit pm := by
    rw [← hx, ← hw]
    rfl
  rw [changePermit_reached h (hr.mono (Nat.le_add_right 1 _)) (hw ▸ hsch) hlines, permitChanged_resumed cause closing L hnew hh, hxpm,
    lateTakens_setPermit L x (by rw [hnew, hxs])]
  rfl

/-- A change of permit state leaves what `permitChanged` says, where the journal has room for its records. -/
theorem changePermit_eq (h : Reached s a pm cause) (hL : PermitTakes s pm L) (hr : RoomFor (1 + 2 * L.length) s) :
    changePermit pm.state cause closing (s.setPermit a) = permitChanged s pm cause closing L := by
  have hr1 : RoomFor 1 s := hr.mono (Nat.le_add_right 1 _)
  unfold PermitTakes at hL
  rw [if_neg h.moved] at hL
  cases hnew : pm.state with
  | stopped =>
    rw [if_pos hnew] at hL
    exact hnew ▸ changePermit_stopped h hnew hL (hr.mono (by omega))
  | arming => exact hnew ▸ changePermit_arming h hnew hr1
  | held => exact hnew ▸ changePermit_held h hnew hr1
  | running =>
    rw [if_neg (by rw [hnew]; decide)] at hL
    by_cases hh : s.permit.state = .held
    · rw [if_pos ⟨hh, hnew⟩] at hL
      exact hnew ▸ changePermit_resumed h hnew hh (fun i e he hst => (hL.1 i e he hst).1) hL.2 hr
    · exact hnew ▸ changePermit_running h hnew hh hr1

/-! ### The aggregate formed again -/

theorem reached_permitAfter (ha : a.state = s.permit.state) (hne : (permitAfter a s.time.partTime cause).state ≠ s.permit.state) :
    formAggregate a ≠ a.aggregate
      ∧ (permitAfter a s.time.partTime cause).state = nextPermitState a.state (formAggregate a) a.startDelay
      ∧ Reached s { a with aggregate := formAggregate a } (permitAfter a s.time.partTime cause) cause := by
  rw [← ha] at hne
  have h1 : formAggregate a ≠ a.aggregate := fun h => hne (by unfold permitAfter; simp only [h, if_true])
  have h2 : nextPermitState a.state (formAggregate a) a.startDelay ≠ a.state := fun h => hne (by
    unfold permitAfter
    simp only [h1, if_false, h, if_true])
  have hpm : permitAfter a s.time.partTime cause = { a with
      aggregate := formAggregate a, state := nextPermitState a.state (formAggregate a) a.startDelay
      timer := if nextPermitState a.state (formAggregate a) a.startDelay = .arming then some (1000 * a.startDelay) else none
      lastChange := some (s.time.partTime, cause)
      prun := levelOfBool (nextPermitState a.state (formAggregate a) a.startDelay == .running)
      phold := levelOfBool (nextPermitState a.state (formAggregate a) a.startDelay == .held) } := by
    unfold permitAfter
    simp only [h1, if_false, h2]
  exact ⟨h1, by rw [hpm], ha, by rw [← ha]; exact hne, by rw [hpm]⟩

/-- The aggregate formed again, with no change of permit state (R145, R146). -/
theorem takeAggregate_same (h : (permitAfter a s.time.partTime cause).state = s.permit.state) (ha : a.state = s.permit.state) :
    takeAggregate cause closing (s.setPermit a) = s.setPermit (permitAfter a s.time.partTime cause) := by
  have hp := takeAggregate_permit cause closing (s.setPermit a)
  unfold takeAggregate at hp ⊢
  unfold permitAfter at h ⊢
  by_cases h1 : formAggregate a = a.aggregate
  · simp only [State.setPermit_permit, h1, if_true]
  · by_cases h2 : nextPermitState a.state (formAggregate a) a.startDelay = a.state
    · simp only [State.setPermit_permit, h1, if_false, h2, if_true]
      rfl
    · simp only [h1, if_false, h2] at h
      exact absurd (h.trans ha.symm) h2

/-- The aggregate formed again, where the journal has room for all that follows (R144 to R147). -/
theorem takeAggregate_eq (ha : a.state = s.permit.state) (hL : PermitTakes s (permitAfter a s.time.partTime cause) L)
    (hr : RoomFor (1 + 2 * L.length) s) :
    takeAggregate cause closing (s.setPermit a) = permitChanged s (permitAfter a s.time.partTime cause) cause closing L := by
  by_cases hs : (permitAfter a s.time.partTime cause).state = s.permit.state
  · rw [permitChanged_same cause closing L hs, takeAggregate_same hs ha]
  · obtain ⟨h1, h2, hreached⟩ := reached_permitAfter ha hs
    have hne : nextPermitState a.state (formAggregate a) a.startDelay ≠ a.state := by rw [← h2, ha]; exact hs
    rw [← changePermit_eq hreached hL hr, h2]
    unfold takeAggregate
    simp only [State.setPermit_permit, h1, if_false, hne]
    rfl

end

/-! ### Changes of the permit beside the links -/

theorem permitNoticed_linked {g : PerPort PortState → PerPort PortState} (hg : Blind g) (s : State) (closing : Option Port) :
    (s.linked g).permitNoticed closing = (s.permitNoticed closing).linked g := by
  have hm : ∀ x : PerPort PortState, (x.mapIdx fun q (y : PortState) =>
      if closing = some q then y else { y with session := y.session.map fun z => { z with notices := z.notices ||| 0x04#8 } })
      = x.mapIdx fun q y => { y with
          session := y.session.map (if closing = some q then id else fun z => { z with notices := z.notices ||| 0x04#8 }) } := fun x => by
    refine PerPort.ext_get fun q => ?_
    rw [PerPort.get_mapIdx, PerPort.get_mapIdx]
    split
    · rw [Option.map_id_fun, id]
    · rfl
  unfold State.permitNoticed State.linked
  simp only [hm]
  rw [hg.maps fun q => if closing = some q then id else fun z => { z with notices := z.notices ||| 0x04#8 }]

theorem permitChanged_linked {g : PerPort PortState → PerPort PortState} (hg : Blind g) (s : State) (pm : Permit) (cause : PermitCause)
    (closing : Option Port) (L : List (Fin 64)) :
    permitChanged (s.linked g) pm cause closing L = (permitChanged s pm cause closing L).linked g := by
  by_cases hs : pm.state = s.permit.state
  · rw [permitChanged_same (s := s) cause closing L hs, permitChanged_same (s := s.linked g) cause closing L hs]
    rfl
  · cases hnew : pm.state with
    | stopped =>
      rw [permitChanged_stopped (s := s) cause closing L hnew (by rw [← hnew]; exact Ne.symm hs),
        permitChanged_stopped (s := s.linked g) cause closing L hnew (by rw [← hnew]; exact Ne.symm hs), ← permitNoticed_linked hg]
      rfl
    | arming =>
      rw [permitChanged_arming (s := s) cause closing L hnew (by rw [← hnew]; exact Ne.symm hs),
        permitChanged_arming (s := s.linked g) cause closing L hnew (by rw [← hnew]; exact Ne.symm hs), ← permitNoticed_linked hg]
      rfl
    | held =>
      rw [permitChanged_held (s := s) cause closing L hnew (by rw [← hnew]; exact Ne.symm hs),
        permitChanged_held (s := s.linked g) cause closing L hnew (by rw [← hnew]; exact Ne.symm hs), ← permitNoticed_linked hg]
      rfl
    | running =>
      by_cases hh : s.permit.state = .held
      · rw [permitChanged_resumed (s := s) cause closing L hnew hh, permitChanged_resumed (s := s.linked g) cause closing L hnew hh,
          ← permitNoticed_linked hg]
        refine congrArg (State.permitNoticed · closing) ?_
        have hl := lateTakens_linked hg L ((s.permitted pm [permitRecord s pm cause]).mapEntries fun e => some (resumed s.time.partTime e))
        exact congrArg (State.gatedLines · _) hl
      · rw [permitChanged_running (s := s) cause closing L hnew (by rw [← hnew]; exact Ne.symm hs) hh,
          permitChanged_running (s := s.linked g) cause closing L hnew (by rw [← hnew]; exact Ne.symm hs) hh, ← permitNoticed_linked hg]
        rfl

end Sys2Proof.Machine
end

section
/-! SUPPORT. The commands and events that move the permit: ENROLL, LEAVE and VOTE, a stop by a vote, the end of the start delay and a change of
the part vote (O46 to O48). -/

set_option Elab.async false

namespace Sys2Proof.Machine

/-! ### Rows whose act changes more than the ports -/

/-- The queue after a row whose act left the links alone. -/
theorem queue_answered {bs : List Block} {s u : State} {p : Port} {n : Nat} (h : Kept bs (taken s p n) u) (tag : Byte) (r : Reply) :
    ((conclude (respond p tag r u)).port p).queue = (s.port p).queue ++ [{ tag := tag, status := r.status, payload := r.payload }] := by
  obtain ⟨_, _, hq, _⟩ := h.links p
  rw [conclude_port, respond_port, if_pos rfl]
  dsimp only
  rw [hq, port_taken, if_pos rfl]

/-- A row that concludes with a response to what it did. -/
theorem unchanged_responded {bs : List Block} {s u : State} (h : Unchanged bs s u) (hp : Block.ports ∈ bs) (ho : Block.outs ∈ bs) (p : Port)
    (tag : Byte) (r : Reply) : Unchanged bs s (conclude (respond p tag r u)) := by
  have h2 : Unchanged bs u (respond p tag r u) := (respond_unchanged p tag r u).mono fun _ hb => by
    obtain rfl := List.mem_singleton.mp hb
    exact hp
  have h3 : Unchanged bs (respond p tag r u) (conclude (respond p tag r u)) := (kept_conclude _).unchanged.mono fun b hb => by
    simp only [List.mem_cons, List.not_mem_nil, or_false] at hb
    rcases hb with rfl | rfl
    · exact ho
    · exact hp
  exact (h.trans h2).trans h3

theorem unchanged_row {bs : List Block} {s u : State} {p : Port} {n : Nat} (h : Unchanged bs (taken s p n) u) (hp : Block.ports ∈ bs)
    (ho : Block.outs ∈ bs) (tag : Byte) (r : Reply) : Unchanged bs s (conclude (respond p tag r u)) := by
  have h1 : Unchanged bs s (taken s p n) := (kept_taken s p n).mono fun _ hb => by
    obtain rfl := List.mem_singleton.mp hb
    exact hp
  exact unchanged_responded (h1.trans h) hp ho p tag r

theorem session_taken_heard (s : State) (p q : Port) (n : Nat) : (taken s p n).session q = heard s p q := session_taken s p q n

/-- The state that an answer alone leaves has its levels formed. -/
theorem conclude_answered {s : State} {p : Port} {n : Nat} (h : LevelsFormed s) (tag : Byte) (r : Reply) :
    conclude (answeredFrame s p (n + 7) tag r.status r.payload) = answeredFrame s p (n + 7) tag r.status r.payload := by
  rw [← conclude_respond_taken h tag r]
  exact conclude_eq_self (conclude_formed _)

/-- A response is a change of a link. -/
theorem respond_linked (p : Port) (tag : Byte) (r : Reply) :
    ∃ g, Blind g ∧ ∀ s, respond p tag r s = s.linked g :=
  ⟨_, blind_set p (h := fun x => { x with queue := x.queue ++ [{ tag := tag, status := r.status, payload := r.payload }] }) fun _ _ => rfl,
    fun _ => rfl⟩

theorem respond_permitChanged (p : Port) (tag : Byte) (r : Reply) (s : State) (pm : Permit) (cause : PermitCause) (closing : Option Port)
    (L : List (Fin 64)) : respond p tag r (permitChanged s pm cause closing L) = permitChanged (respond p tag r s) pm cause closing L := by
  obtain ⟨g, hg, hr⟩ := respond_linked p tag r
  rw [hr, hr, permitChanged_linked hg]

/-- The levels are formed from the permit state alone of the permit unit. -/
theorem conclude_setPermit (s : State) {pm : Permit} (h : pm.state = s.permit.state) :
    conclude (s.setPermit pm) = (conclude s).setPermit pm := by
  have ht : tickOpen (s.setPermit pm) = tickOpen s := rfl
  unfold conclude
  rw [ht, State.setPermit_rstn]
  split
  · unfold formDrives
    rw [State.setPermit_permit, h]
    rfl
  · rfl

/-! ### What a change of permit state leaves -/

theorem out_gatedLines (s : State) (f : OutLine → OutLine) (k : Fin 8) :
    (s.gatedLines f).out k = if (s.out k).gated then f (s.out k) else s.out k := by
  unfold State.gatedLines State.out
  rw [Fin.getElem_fin, Vector.getElem_map]
  rfl

theorem session_permitNoticed (s : State) (q : Port) :
    (s.permitNoticed none).session q = (s.session q).map fun z => { z with notices := z.notices ||| 0x04#8 } := by
  unfold State.permitNoticed State.session State.port
  rw [PerPort.get_mapIdx, if_neg (by simp)]

theorem permitNoticed_none (s : State) : s.permitNoticed none = { s with ports := noticed 0x04#8 s.ports } := by
  have hn : (s.ports.mapIdx fun q (x : PortState) =>
      if (none : Option Port) = some q then x else { x with session := x.session.map fun z => { z with notices := z.notices ||| 0x04#8 } })
      = noticed 0x04#8 s.ports := PerPort.ext_get fun q => by
    unfold noticed
    rw [PerPort.get_mapIdx, PerPort.get_map, if_neg (by simp)]
  exact congrArg (fun x => { s with ports := x }) hn

/-- A change of permit state that takes no entry. -/
theorem permitChanged_nil {s : State} {pm : Permit} (h : pm.state ≠ s.permit.state) (cause : PermitCause) :
    (permitChanged s pm cause none []).journal = s.journal.storing s.time.partTime (quality s) [permitRecord s pm cause]
      ∧ (∀ q, (permitChanged s pm cause none []).session q = (s.session q).map fun z => { z with notices := z.notices ||| 0x04#8 })
      ∧ ∀ k, ((permitChanged s pm cause none []).out k).commanded
          = if pm.state = .stopped ∧ (s.out k).gated = true then (s.out k).safe else (s.out k).commanded := by
  cases hnew : pm.state with
  | stopped =>
    rw [permitChanged_stopped cause none [] hnew (by rw [← hnew]; exact h.symm)]
    refine ⟨rfl, fun q => session_permitNoticed _ q, fun k => ?_⟩
    have ho := out_gatedLines (s.permitted pm [permitRecord s pm cause]) (fun o => { o with commanded := o.safe, driven := o.safe, pulse := none }) k
    have hk : (s.permitted pm [permitRecord s pm cause]).out k = s.out k := rfl
    rw [hk] at ho
    refine (congrArg OutLine.commanded ho).trans ?_
    simp only [true_and]
    split <;> rfl
  | arming =>
    rw [permitChanged_arming cause none [] hnew (by rw [← hnew]; exact h.symm)]
    refine ⟨rfl, fun q => session_permitNoticed _ q, fun k => ?_⟩
    rw [if_neg (by simp)]
    refine (congrArg OutLine.commanded (out_gatedLines _ _ k)).trans ?_
    split <;> rfl
  | held =>
    rw [permitChanged_held cause none [] hnew (by rw [← hnew]; exact h.symm)]
    refine ⟨rfl, fun q => session_permitNoticed _ q, fun k => ?_⟩
    rw [if_neg (by simp)]
    rfl
  | running =>
    by_cases hh : s.permit.state = .held
    · rw [permitChanged_resumed cause none [] hnew hh]
      refine ⟨rfl, fun q => session_permitNoticed _ q, fun k => ?_⟩
      rw [if_neg (by simp)]
      refine (congrArg OutLine.commanded (out_gatedLines _ _ k)).trans ?_
      split <;> rfl
    · rw [permitChanged_running cause none [] hnew (by rw [← hnew]; exact h.symm) hh]
      refine ⟨rfl, fun q => session_permitNoticed _ q, fun k => ?_⟩
      rw [if_neg (by simp)]
      refine (congrArg OutLine.commanded (out_gatedLines _ _ k)).trans ?_
      split <;> rfl

/-- With no entry in the schedule a change of permit state takes none. -/
theorem permitTakes_nil {s : State} (h : ∀ i, s.entry i = none) (pm : Permit) : PermitTakes s pm [] := by
  have hl : ∀ test before, Listed s test before [] := fun test before => ⟨fun i => by simp [h i], List.Pairwise.nil⟩
  unfold PermitTakes
  split
  · rfl
  · split
    · exact hl _ _
    · split
      · exact ⟨fun i e he => by rw [h i] at he; exact absurd he (by simp), hl _ _⟩
      · rfl

/-! ### ENROLL, LEAVE and VOTE -/

theorem voteOf?_of_code {b : Byte} {w : Vote} (h : b.toNat = voteCode w) : voteOf? b = some w := by
  cases w
  · obtain rfl : b = 0#8 := by simp only [voteCode] at h; bv_omega
    rfl
  · obtain rfl : b = 1#8 := by simp only [voteCode] at h; bv_omega
    rfl
  · obtain rfl : b = 2#8 := by simp only [voteCode] at h; bv_omega
    rfl

theorem voteOf?_eq_none {b : Byte} (h : 3 ≤ b.toNat) : voteOf? b = none := by
  unfold voteOf?
  rw [if_neg (by bv_omega), if_neg (by bv_omega), if_neg (by bv_omega)]

section
variable {s : State} {p : Port}

theorem isElector_iff : isElector s p = true ↔ (s.permit.electors.get p).isSome = true := Iff.rfl

theorem takeEnroll_elector (h : (s.permit.electors.get p).isSome = true) (v : Option Byte) : takeEnroll p v s = (s, refuse .wrongState) :=
  if_pos h

theorem takeEnroll_enters (h : s.permit.electors.get p = none) {v : Option Byte} {w : Vote} (hv : enrollVote? v = some w) :
    takeEnroll p v s = permitReply (setElector p (some { vote := w, forced := false }) .electorate none s) := by
  unfold takeEnroll isElector
  rw [h, hv]
  rfl

theorem takeEnroll_badArg (h : s.permit.electors.get p = none) {v : Option Byte} (hv : enrollVote? v = none) :
    takeEnroll p v s = (s, refuse .badArg) := by
  unfold takeEnroll isElector
  rw [h, hv]
  rfl

theorem takeLeave_elector (h : (s.permit.electors.get p).isSome = true) :
    takeLeave p s = permitReply (setElector p none .electorate none s) := if_pos h

theorem takeLeave_other (h : s.permit.electors.get p = none) : takeLeave p s = (s, refuse .wrongState) := by
  unfold takeLeave isElector
  rw [h]
  rfl

theorem takeVote_elector (h : (s.permit.electors.get p).isSome = true) {v : Byte} {w : Vote} (hv : voteOf? v = some w) :
    takeVote p v s = permitReply (setElector p (some { vote := w, forced := false }) (.vote p w) none s) := by
  unfold takeVote
  rw [if_pos (isElector_iff.mpr h), hv]

theorem takeVote_badArg (h : (s.permit.electors.get p).isSome = true) {v : Byte} (hv : voteOf? v = none) :
    takeVote p v s = (s, refuse .badArg) := by
  unfold takeVote
  rw [if_pos (isElector_iff.mpr h), hv]

theorem takeVote_other (h : s.permit.electors.get p = none) (v : Byte) : takeVote p v s = (s, refuse .wrongState) := by
  unfold takeVote isElector
  rw [h]
  rfl

end

/-- A row of the electorate: its act sets the elector record, and the answer is the permit state reached. -/
def ElectorRow (s : State) (p : Port) (tag : Byte) (row : Instr × Option Elector × PermitCause) : Prop :=
  ∃ n, exec row.1 s
      = .next (conclude (respond p tag (okay (code (permitStateCode (setElector p row.2.1 row.2.2 none (taken s p n)).permit.state)))
          (setElector p row.2.1 row.2.2 none (taken s p n))))
    ∧ ∀ st payload, answeredOnly s row.1 st payload = answeredFrame s p (n + 7) tag st payload

theorem electorRow_enroll {s : State} {p : Port} {x : Session} (hr : Ready s p) (hx : OpenLive s p x) (tag : Byte)
    (h : s.permit.electors.get p = none) {v : Option Byte} {w : Vote} (hv : enrollVote? v = some w) :
    ElectorRow s p tag (.enroll p tag v, some { vote := w, forced := false }, .electorate) := by
  refine ⟨v.toList.length, ?_, fun _ _ => rfl⟩
  have hrow : exec (.enroll p tag v) s = .next (onCommand p tag v.toList.length .liveSession (takeEnroll p v) s) := rfl
  rw [hrow, onCommand_live hr hx, takeEnroll_enters (s := taken s p _) h hv]
  rfl

theorem electorRow_leave {s : State} {p : Port} {x : Session} (hr : Ready s p) (hx : OpenLive s p x) (tag : Byte)
    (h : (s.permit.electors.get p).isSome = true) : ElectorRow s p tag (.leave p tag, none, .electorate) := by
  refine ⟨0, ?_, fun _ _ => rfl⟩
  have hrow : exec (.leave p tag) s = .next (onCommand p tag 0 .liveSession (takeLeave p) s) := rfl
  rw [hrow, onCommand_live hr hx, takeLeave_elector (s := taken s p _) h]
  rfl

theorem electorRow_vote {s : State} {p : Port} {x : Session} (hr : Ready s p) (hx : OpenLive s p x) (tag : Byte)
    (h : (s.permit.electors.get p).isSome = true) {b : Byte} {w : Vote} (hv : voteOf? b = some w) :
    ElectorRow s p tag (.vote p tag b, some { vote := w, forced := false }, .vote p w) := by
  refine ⟨1, ?_, fun _ _ => rfl⟩
  have hrow : exec (.vote p tag b) s = .next (onCommand p tag 1 .liveSession (takeVote p b) s) := rfl
  rw [hrow, onCommand_live hr hx, takeVote_elector (s := taken s p _) h hv]
  rfl

/-- In a quiet part with RSTn HIGH a state with lines driving their commanded levels concludes so in RUNNING. -/
theorem conclude_running {s : State} (ht : s.tickWork = []) (hr : s.rstn = .high) (hp : s.permit.state = .running) :
    conclude s = formAtn { s with outs := s.outs.map fun o => { o with driven := o.commanded } } := by
  have hd : formDrives s = { s with outs := s.outs.map fun o => { o with driven := o.commanded } } := by
    unfold formDrives
    rw [hp]
    refine congrArg (fun v => { s with outs := v }) (congrArg (Vector.map · s.outs) (funext fun o => ?_))
    unfold OutLine.formed OutLine.drive
    split <;> rfl
  unfold conclude
  rw [tickOpen_of_nil ht, if_pos (by rw [hr]; rfl), hd]

theorem driven_gatedLines (s : State) :
    (s.gatedLines fun o => { o with driven := o.commanded }).outs.map (fun o => { o with driven := o.commanded })
      = s.outs.map fun o => { o with driven := o.commanded } := by
  unfold State.gatedLines
  rw [Vector.map_map]
  refine congrArg (Vector.map · s.outs) (funext fun o => ?_)
  simp only [Function.comp]
  split <;> rfl

/-- Settles O46. A row of the electorate is a change of the permit unit beside its answer. -/
theorem electorateMovesThePermit : Obligations.ElectorateMovesThePermit := by
  unfold Obligations.ElectorateMovesThePermit
  intro s p tag b x hr hl hx
  refine ⟨fun h v => ?_, fun h => ⟨?_, ?_⟩, fun hb => ⟨fun h => ?_, fun h => ?_⟩, fun row hrow => ?_⟩
  · exact answers_of_live hr hx hl (r := refuse .wrongState) rfl rfl (takeEnroll_elector (s := taken s p _) h v)
  · exact answers_of_live hr hx hl (r := refuse .wrongState) rfl rfl (takeLeave_other (s := taken s p _) h)
  · exact answers_of_live hr hx hl (r := refuse .wrongState) rfl rfl (takeVote_other (s := taken s p _) h b)
  · exact answers_of_live hr hx hl (r := refuse .badArg) rfl rfl (takeEnroll_badArg (s := taken s p _) h (voteOf?_eq_none hb))
  · exact answers_of_live hr hx hl (r := refuse .badArg) rfl rfl (takeVote_badArg (s := taken s p _) h (voteOf?_eq_none hb))
  · have helector : ElectorRow s p tag row := by
      rcases hrow with ⟨h, rfl⟩ | ⟨w, h, hw, rfl⟩ | ⟨h, rfl⟩ | ⟨w, h, hw, rfl⟩
      · exact electorRow_enroll hr hx tag h rfl
      · exact electorRow_enroll hr hx tag h (voteOf?_of_code hw)
      · exact electorRow_leave hr hx tag h
      · exact electorRow_vote hr hx tag h (voteOf?_of_code hw)
    clear hrow
    obtain ⟨i, e, cause⟩ := row
    obtain ⟨n, hexec, hout⟩ := helector
    intro pm answer record
    dsimp only at hexec hout
    have hpm : (setElector p e cause none (taken s p n)).permit = pm := setElector_permit p e cause none (taken s p n)
    rw [hpm] at hexec
    have hkept : Kept permitBlocks (taken s p n) (setElector p e cause none (taken s p n)) := kept_setElector p e cause none _
    have hchanged : ∀ L, PermitTakes s pm L → RoomFor (1 + 2 * L.length) s →
        conclude (respond p tag (okay answer) (setElector p e cause none (taken s p n)))
          = conclude (permitChanged (answeredOnly s i .ok answer) pm cause none L) := fun L hL hroom => by
      have ht : setElector p e cause none (taken s p n) = permitChanged (taken s p n) pm cause none L :=
        takeAggregate_eq (s := taken s p n) (a := { s.permit with electors := s.permit.electors.set p e }) rfl hL (hroom.congr rfl rfl)
      rw [ht, respond_permitChanged, respond_taken, hout]
      rfl
    have hframe : conclude (answeredFrame s p (n + 7) tag .ok answer) = answeredFrame s p (n + 7) tag .ok answer :=
      conclude_answered hl tag (okay answer)
    refine ⟨_, hexec, ?_, queue_answered hkept tag _, ?_, fun hs => ?_, fun hs hnone hroom => ?_, hchanged, fun hh hnew hdef L hL hroom => ?_⟩
    · rw [conclude_permit, respond_permit, hpm]
    · exact unchanged_row (hkept.unchanged.mono (sub_of_all rfl)) (by decide) (by decide) tag _
    · have ht : setElector p e cause none (taken s p n) = (taken s p n).setPermit pm :=
        takeAggregate_same (s := taken s p n) (a := { s.permit with electors := s.permit.electors.set p e }) hs rfl
      have hrs : respond p tag (okay answer) ((taken s p n).setPermit pm) = (answeredFrame s p (n + 7) tag .ok answer).setPermit pm := by
        have h1 : respond p tag (okay answer) ((taken s p n).setPermit pm) = (respond p tag (okay answer) (taken s p n)).setPermit pm := rfl
        rw [h1, respond_taken]
        rfl
      rw [ht, hrs, conclude_setPermit _ (by exact hs), hframe, hout]
      rfl
    · rw [hchanged [] (permitTakes_nil hnone pm) hroom, hout]
      obtain ⟨hj, hses, hlines⟩ := permitChanged_nil (s := answeredFrame s p (n + 7) tag .ok answer) (pm := pm) hs cause
      refine ⟨?_, fun q => ?_, fun k => ?_⟩
      · unfold Stored
        rw [conclude_journal, hj]
        rfl
      · rw [conclude_session, hses]
        have hq : (answeredFrame s p (n + 7) tag .ok answer).session q = heard s p q := by
          have h1 := respond_taken s p n tag (okay answer)
          have h2 : (respond p tag (okay answer) (taken s p n)).session q = (taken s p n).session q := session_respond _ _ _ _ _
          rw [h1] at h2
          exact h2.trans (session_taken_heard s p q n)
        rw [hq]
      · obtain ⟨v, hv⟩ := conclude_out (permitChanged (answeredFrame s p (n + 7) tag .ok answer) pm cause none []) k
        rw [hv]
        exact hlines k
    · intro u0 u1 u
      have htakes : PermitTakes s pm L := by
        unfold PermitTakes
        rw [if_neg (by rw [hnew, hh]; decide), if_neg (by rw [hnew]; decide), if_pos ⟨hh, hnew⟩]
        exact ⟨hdef, hL⟩
      have hv := permitChanged_resumed (s := answeredFrame s p (n + 7) tag .ok answer) cause none L hnew hh
      have hu : L.foldl lateTaken (((answeredFrame s p (n + 7) tag .ok answer).permitted pm
          [permitRecord (answeredFrame s p (n + 7) tag .ok answer) pm cause]).mapEntries fun e => some (resumed s.time.partTime e)) = u := by
        dsimp only [u, u1, u0]
        rw [hout]
        rfl
      have hkeep : Unchanged [.journal, .schedule, .outs, .ports, .conditions] u1 u := lateTakens_unchanged L u1
      have htick : u.tickWork = u1.tickWork := congrArg Prod.fst (hkeep .tickWork (by decide))
      have hrstn : u.rstn = u1.rstn := hkeep .rstn (by decide)
      have hperm : u.permit = u1.permit := hkeep .permit (by decide)
      have hu1 : u1.tickWork = [] ∧ u1.rstn = .high ∧ u1.permit = pm := by
        dsimp only [u1, u0]
        rw [hout]
        exact ⟨tickWork_of_quiet (s := s) hr.calm, hr.rstn, rfl⟩
      obtain ⟨h1, h2, h3⟩ := hu1
      rw [hchanged L htakes hroom, hout, hv]
      have htime : (answeredFrame s p (n + 7) tag .ok answer).time = s.time := rfl
      rw [htime, hu, conclude_running (by exact htick.trans h1) (by exact hrstn.trans h2) (by rw [← hnew, ← h3, ← hperm]; rfl)]
      rw [permitNoticed_none]
      exact congrArg (fun v => formAtn { u with outs := v, ports := noticed 0x04#8 u.ports }) (driven_gatedLines u)

end Sys2Proof.Machine
end

section
/-! SUPPORT. The end of the start delay, a change of the part vote, and the raise and the clearing of a condition (O48 to O50). -/

set_option Elab.async false

namespace Sys2Proof.Machine

/-! ### Changes beside the journal -/

/-- A change of the state that the journal's decisions neither read nor touch. -/
structure BesideJournal (f : State → State) : Prop where
  rstn    : ∀ s, (f s).rstn = s.rstn
  time    : ∀ s, (f s).time = s.time
  journal : ∀ s, (f s).journal = s.journal
  pinned  : ∀ s, oldestPinned (f s) = oldestPinned s
  stores  : ∀ s j, f (s.setJournal j) = (f s).setJournal j
  retires : ∀ s, f (retireOldest s) = retireOldest (f s)
  raises  : ∀ c s, f (handRaise c s) = handRaise c (f s)

theorem BesideJournal.offer {f : State → State} (h : BesideJournal f) (o : Origin) (b : Body) (s : State) :
    f (offer o b s) = offer o b (f s) := by
  have hq : quality (f s) = quality s := by unfold quality; rw [h.time]
  have hstore : ∀ u t q, f (storeRecord t q o b u) = storeRecord t q o b (f u) := fun u t q => by
    unfold storeRecord
    rw [h.stores, h.journal]
  unfold Machine.offer offerAs
  rw [h.rstn, h.journal, h.time, hq, h.pinned]
  split
  · rfl
  · split
    · unfold withhold
      rw [h.stores, h.journal]
    · split
      · exact hstore _ _ _
      · split
        · unfold enterWithholding
          rw [h.raises, h.stores, h.journal]
        · rw [hstore, h.retires]

theorem oldestPinned_of_readers {s t : State} (hj : t.journal = s.journal)
    (hr : ∀ q, (t.session q).map Session.reader = (s.session q).map Session.reader) : oldestPinned t = oldestPinned s := by
  have hp : ∀ x q, pinsRecord t x q = pinsRecord s x q := fun x q => by
    have hq := hr q
    unfold pinsRecord
    cases ht : t.session q <;> cases hs : s.session q <;> rw [ht, hs] at hq
    · exact absurd hq (by simp)
    · exact absurd hq (by simp)
    · next y z =>
      have hy : y.reader = z.reader := by simpa using hq
      show y.pins x = z.pins x
      unfold Session.pins
      rw [hy]
  unfold oldestPinned pinned
  rw [hj]
  split
  · rfl
  · exact congrArg allPorts.any (funext (hp _))

/-- Attention for all is beside the journal: readers are as they were. -/
theorem beside_raiseForAll (n : Byte) (e : Option Port) : BesideJournal (raiseForAll n e) where
  rstn _ := rfl
  time _ := rfl
  journal _ := rfl
  pinned s := oldestPinned_of_readers rfl fun q => by
    rw [session_raiseForAll, Option.map_map]
    refine congrArg (Option.map · _) (funext fun x => ?_)
    simp only [Function.comp]
    split <;> rfl
  stores _ _ := rfl
  retires s := by
    cases hs : s.journal.store with
    | nil =>
      unfold retireOldest raiseForAll
      simp only [hs]
    | cons r rest =>
      have hv : (s.ports.map fun x => { x with session := x.session.map (Session.pushPast r) }).mapIdx (fun p (x : PortState) =>
            if e = some p then x else { x with session := x.session.map (Session.notice n) })
          = (s.ports.mapIdx fun p (x : PortState) => if e = some p then x else { x with session := x.session.map (Session.notice n) }).map
              fun x => { x with session := x.session.map (Session.pushPast r) } := PerPort.ext_get fun q => by
        rw [PerPort.get_mapIdx, PerPort.get_map, PerPort.get_map, PerPort.get_mapIdx]
        split
        · rfl
        · dsimp only
          rw [Option.map_map, Option.map_map]
          rfl
      unfold retireOldest raiseForAll
      simp only [hs]
      exact congrArg (fun x => { s with journal := { s.journal with store := rest }, ports := x }) hv
  raises c s := by
    unfold handRaise
    rw [apply_ite (raiseForAll n e)]
    rfl

/-- The part vote is beside the journal: raises waiting do not enter it. -/
theorem beside_formPartVoteAgain : BesideJournal formPartVoteAgain where
  rstn _ := rfl
  time _ := rfl
  journal _ := rfl
  pinned _ := rfl
  stores _ _ := rfl
  retires s := by
    unfold retireOldest formPartVoteAgain
    cases s.journal.store <;> rfl
  raises c s := by
    unfold handRaise
    rw [apply_ite formPartVoteAgain]
    rfl

theorem raiseForAll_none (n : Byte) (s : State) : raiseForAll n none s = { s with ports := noticed n s.ports } := by
  have hn : (s.ports.mapIdx fun p (x : PortState) => if none = some p then x else { x with session := x.session.map (Session.notice n) })
      = noticed n s.ports := PerPort.ext_get fun q => by
    unfold noticed
    rw [PerPort.get_mapIdx, PerPort.get_map, if_neg (by simp)]
    rfl
  exact congrArg (fun x => { s with ports := x }) hn

/-! ### Condition records -/

/-- The conditions but for the raises that wait. -/
def SameLatches (s t : State) : Prop := t.conditions = { s.conditions with raises := t.conditions.raises }

theorem SameLatches.refl (s : State) : SameLatches s s := rfl

theorem SameLatches.trans {s t u : State} (h : SameLatches s t) (k : SameLatches t u) : SameLatches s u := by
  unfold SameLatches at h k ⊢
  rw [k, h]

theorem SameLatches.of_eq {s t : State} (h : t.conditions = s.conditions) : SameLatches s t := by
  unfold SameLatches
  rw [h]

theorem SameLatches.partVote {s t : State} (h : SameLatches s t) : t.conditions.partVote = s.conditions.partVote := by
  unfold SameLatches at h
  rw [h]

theorem SameLatches.condition {s t : State} (h : SameLatches s t) (c : Condition) : t.condition c = s.condition c := by
  unfold SameLatches at h
  unfold State.condition
  rw [h]
  cases c <;> rfl

theorem handRaise_latches (c : Condition) (s : State) : SameLatches s (handRaise c s) := by
  unfold handRaise
  split <;> rfl

theorem entryMove_latches {s t : State} (m : EntryMove s t) : SameLatches s t := by
  cases m with
  | offer t q o b =>
    rcases offerAs_cases t q o b s with ⟨_, e⟩ | ⟨_, _, e⟩ | ⟨_, _, _, e⟩ | ⟨_, _, _, _, e⟩ | ⟨_, _, _, _, e⟩ <;> rw [e]
    · rfl
    · rfl
    · rfl
    · exact handRaise_latches .journalWithheld _
    · exact .of_eq (retireOldest_conditions s)
  | raise => exact handRaise_latches _ _
  | _ => rfl

theorem looseMoves_latches {s t : State} (m : LooseMoves s t) : SameLatches s t := by
  refine Moves.keeps (P := fun u => SameLatches s u) (fun u v m h => h.trans ?_) m (.refl s)
  cases m with
  | entry m => exact entryMove_latches m
  | _ => rfl

theorem offer_latches (o : Origin) (b : Body) (s : State) : SameLatches s (offer o b s) := looseMoves_latches (loose_of_entry (moves_offer o b s))

theorem formPartVote_of_latches {s t : State} (h : SameLatches s t) : formPartVote t.conditions = formPartVote s.conditions := by
  unfold SameLatches at h
  rw [h]
  rfl

/-! ### The part vote taken -/

/-- The permit unit once it has taken a part vote (R143). -/
def votedPermit (pm : Permit) (vote : Vote) (time : Nat) : Permit :=
  if vote = pm.partVote then pm else permitAfter { pm with partVote := vote } time .partVote

theorem takePartVote_same {s : State} (h : (votedPermit s.permit s.conditions.partVote s.time.partTime).state = s.permit.state) :
    takePartVote s = s.setPermit (votedPermit s.permit s.conditions.partVote s.time.partTime) := by
  unfold votedPermit at h ⊢
  unfold takePartVote
  split
  · rfl
  · next hv =>
    rw [if_neg hv] at h
    exact takeAggregate_same (a := { s.permit with partVote := s.conditions.partVote }) h rfl

theorem takePartVote_eq {s : State} {L : List (Fin 64)}
    (hL : PermitTakes s (votedPermit s.permit s.conditions.partVote s.time.partTime) L) (hr : RoomFor (1 + 2 * L.length) s) :
    takePartVote s = permitChanged s (votedPermit s.permit s.conditions.partVote s.time.partTime) .partVote none L := by
  unfold votedPermit at hL ⊢
  unfold takePartVote
  split
  · exact (permitChanged_same .partVote none L rfl).symm
  · next hv =>
    rw [if_neg hv] at hL
    exact takeAggregate_eq (a := { s.permit with partVote := s.conditions.partVote }) rfl hL hr

theorem nextEvent_partVote {s : State} (hu : unfinished? s = none) (h : s.conditions.partVote ≠ s.permit.partVote) :
    nextEvent s = some .partVote := by
  unfold nextEvent
  rw [hu]
  exact if_pos h

theorem nextEvent_raise {s : State} (hu : unfinished? s = none) (h : s.conditions.partVote = s.permit.partVote) {c : Condition}
    {rest : List Condition} (hr : s.conditions.raises = c :: rest) : nextEvent s = some .raise := by
  unfold nextEvent
  rw [hu]
  simp only
  rw [if_neg (by rw [h]; simp), if_pos (by rw [hr]; simp)]

/-! ### The events of the permit unit -/

/-- The end of the start delay, with room for its record (R148). -/
theorem armingExpires_eq {s : State} (hs : s.permit.state = .arming) (ht : s.permit.timer = some 0) (hr : RoomFor 1 s) :
    armingExpires s
      = { s with
          permit :=
            { s.permit with
              state := .running, timer := none, lastChange := some (s.time.partTime, .delayExpired), prun := .high, phold := .low }
          journal := s.journal.storing s.time.partTime (quality s) [(.part, .permit .arming .running .delayExpired)]
          outs := s.outs.map fun o => if o.gated then { o with driven := o.commanded } else o
          ports := noticed 0x04#8 s.ports } := by
  have hreached : Reached s s.permit
      { s.permit with
        state := .running, timer := none, lastChange := some (s.time.partTime, .delayExpired), prun := .high, phold := .low } .delayExpired :=
    ⟨rfl, by rw [hs]; simp, rfl⟩
  have hexp : armingExpires s = changePermit .running .delayExpired none s := by
    unfold armingExpires
    rw [hs, ht]
    rfl
  rw [hexp]
  refine (changePermit_running (closing := none) (L := []) hreached rfl (by rw [hs]; decide) hr).trans ?_
  rw [permitChanged_running _ _ _ rfl (by rw [hs]; decide) (by rw [hs]; decide)]
  unfold permitRecord
  rw [hs]
  exact raiseForAll_none 0x04#8 _

/-- Settles O48. -/
theorem permitEvents : Obligations.PermitEvents := by
  unfold Obligations.PermitEvents
  intro s
  refine ⟨fun hd hs ht hr => ?_, fun hu hv => ?_⟩
  · have hrow : exec .delayExpired s = .next (conclude (armingExpires (s.without .delayExpired))) := exec_tickRow_due hd
    rw [hrow, armingExpires_eq (s := s.without .delayExpired) hs ht (hr.congr rfl rfl)]
    rfl
  · intro pm
    have hdrain : drainBelow 1 s = s := drain_of_not_below (nextEvent_partVote hu hv) (Nat.le_refl 1) _
    have hrow : exec .partVoteChange s = .next (conclude (takePartVote s)) := by
      have h : exec .partVoteChange s = execPartVoteChange s := rfl
      rw [h, execPartVoteChange, if_pos hv, hdrain]
    have hpm : votedPermit s.permit s.conditions.partVote s.time.partTime = pm := if_neg hv
    refine ⟨_, hrow, ?_, ?_, fun h => ?_, fun L hL hr => ?_⟩
    · rw [conclude_permit, takePartVote_permit, if_neg hv]
    · refine Unchanged.trans ((kept_takePartVote s).unchanged.mono (sub_of_all rfl)) ((kept_conclude _).unchanged.mono (sub_of_all rfl))
    · rw [takePartVote_same (by rw [hpm]; exact h), hpm]
      rfl
    · rw [takePartVote_eq (by rw [hpm]; exact hL) hr, hpm]

/-! ### The raise of a condition -/

/-- The latch of a condition, before its record is offered (R164). -/
def latched (c : Condition) (s : State) : State :=
  s.setCondition c { s.condition c with active := (s.condition c).active || isLevelCondition c, firstLatched := some s.time.partTime }

/-- A raise that latches offers its record once all else of it is done (R164). -/
theorem raiseCondition_latches {c : Condition} {s : State} (h : (s.condition c).firstLatched = none) :
    raiseCondition c s
      = offer .part (.conditionRaised c)
          (if (s.condition c).action = .stop then formPartVoteAgain (raiseForAll noticeCondition none (latched c s))
          else raiseForAll noticeCondition none (latched c s)) := by
  unfold raiseCondition
  dsimp only
  rw [if_neg (by rw [h]; simp), (beside_raiseForAll _ _).offer, beside_formPartVoteAgain.offer, ← apply_ite]
  rfl

theorem raiseCondition_again {c : Condition} {s : State} (h : (s.condition c).firstLatched.isSome = true) :
    raiseCondition c s = s.setCondition c { s.condition c with active := (s.condition c).active || isLevelCondition c } := if_pos h

theorem exec_conditionRaise {s : State} {c : Condition} {rest : List Condition} (hu : unfinished? s = none)
    (hv : s.conditions.partVote = s.permit.partVote) (hr : s.conditions.raises = c :: rest) :
    exec (.conditionRaise c) s = .next (conclude (raiseCondition c { s with conditions := { s.conditions with raises := rest } })) := by
  have hdrain : drainBelow 2 s = s := drain_of_not_below (nextEvent_raise hu hv hr) (Nat.le_refl 2) _
  have hone : takeOneRaise s = conclude (raiseCondition c { s with conditions := { s.conditions with raises := rest } }) := by
    unfold takeOneRaise takeFirstRaise
    rw [hdrain, hr]
  have hrow : exec (.conditionRaise c) s = execConditionRaise c s := rfl
  rw [hrow, execConditionRaise, if_pos (by rw [hr]; exact List.mem_cons_self), hr, List.takeWhile_cons]
  simp only [ne_eq, not_true_eq_false, decide_false, Bool.false_eq_true, if_false, List.length_nil]
  exact congrArg Host.Outcome.next hone

/-- Settles O49. -/
theorem conditionLatches : Obligations.ConditionLatches := by
  unfold Obligations.ConditionLatches
  intro s c rest hu hv hr r active taken
  have hrow := exec_conditionRaise hu hv hr
  have hactive : active = ((s.condition c).active || isLevelCondition c) := by cases c <;> rfl
  have hcond : ({ s with conditions := taken } : State).condition c = r := by cases c <;> rfl
  have hlatches : r.firstLatched = none →
      raiseCondition c { s with conditions := taken }
        = offer .part (.conditionRaised c)
            { s with
              conditions :=
                if r.action = .stop then
                  { taken.set c { r with active := active, firstLatched := some s.time.partTime } with
                    partVote := formPartVote (taken.set c { r with active := active, firstLatched := some s.time.partTime }) }
                else taken.set c { r with active := active, firstLatched := some s.time.partTime }
              ports := noticed 0x20#8 s.ports } := fun hn => by
    rw [raiseCondition_latches (by rw [hcond]; exact hn), raiseForAll_none, hactive, hcond]
    unfold latched
    rw [hcond]
    refine congrArg (offer .part (.conditionRaised c)) ?_
    split <;> rfl
  refine ⟨fun hl => ?_, fun hn hroom => ?_, fun hn => ?_, nextEvent_raise hu hv hr⟩
  · rw [hrow]
    rw [raiseCondition_again (s := { s with conditions := taken }) (by rw [hcond]; exact hl), hcond, hactive]
    rfl
  · intro latched
    rw [hrow, hlatches hn]
    exact congrArg (fun u => Host.Outcome.next (conclude u)) 
      (offer_eq_storing (s := { s with conditions := _, ports := noticed 0x20#8 s.ports }) (hroom.congr rfl rfl) _ _)
  · intro latched u
    refine ⟨by rw [hrow, hlatches hn], fun hrst hst hw => ?_⟩
    have hcount : withhold u = { u with journal := { s.journal with withheld := s.journal.withheld + 1 } } :=
      congrArg (fun n => u.setJournal { s.journal with withheld := n }) (satSucc_of_lt hw)
    rw [← hcount, ← offer_of_withholding (s := u) hrst hst, hrow, hlatches hn]

end Sys2Proof.Machine
end

section
/-! SUPPORT. The clearing of a condition (O50). -/

set_option Elab.async false

namespace Sys2Proof.Machine

theorem conditionOf?_of_code {x : Nat} {c : Condition} (h : x = conditionCode c) : conditionOf? x = some c := by
  subst h
  cases c <;> rfl

theorem conditionOf?_eq_none {x : Nat} (h : 4 ≤ x) : conditionOf? x = none := by
  unfold conditionOf?
  rw [if_neg (by omega), if_neg (by omega), if_neg (by omega), if_neg (by omega)]

theorem isLevelCondition_iff {c : Condition} : isLevelCondition c = true ↔ c = .timeInvalid ∨ c = .refLost := by cases c <;> simp [isLevelCondition]

section
variable {s : State} {p : Port} {b : Byte}

theorem mayClear_iff : (!isElector s p && !s.holds p .config) = true ↔ ¬ ((s.permit.electors.get p).isSome = true ∨ s.holds p .config = true) := by
  unfold isElector
  cases (s.permit.electors.get p).isSome <;> cases s.holds p .config <;> simp

theorem takeClearCondition_notHolder (h : ¬ ((s.permit.electors.get p).isSome = true ∨ s.holds p .config = true)) :
    takeClearCondition p b s = (s, refuse .notHolder) := if_pos (mayClear_iff.mpr h)

variable (may : (s.permit.electors.get p).isSome = true ∨ s.holds p .config = true)
include may

theorem takeClearCondition_badArg (h : 4 ≤ b.toNat) : takeClearCondition p b s = (s, refuse .badArg) := by
  unfold takeClearCondition
  rw [if_neg (fun h => mayClear_iff.mp h may), conditionOf?_eq_none h]

theorem takeClearCondition_of {c : Condition} (h : b.toNat = conditionCode c) :
    takeClearCondition p b s = if isLevelCondition c && (s.condition c).active then (s, refuse .wrongState)
      else if (s.condition c).firstLatched.isSome then clearReply (clearLatch p c s) else clearReply s := by
  unfold takeClearCondition
  rw [if_neg (fun h => mayClear_iff.mp h may), conditionOf?_of_code h]

end

/-! ### What a cleared latch leaves -/

/-- The conditions once a latch is cleared and the part vote formed again (R165, R168). -/
def clearedConditions (c : Condition) (x : Conditions) : Conditions :=
  { x.set c { x.get c with firstLatched := none } with
    partVote := formPartVote (x.set c { x.get c with firstLatched := none }) }

/-- The state of which the permit unit takes the changed part vote. -/
def unlatched (p : Port) (c : Condition) (s : State) : State :=
  formPartVoteAgain (offer (.master p) (.conditionCleared c) (s.setCondition c { s.condition c with firstLatched := none }))

section
variable (s : State) (p : Port) (c : Condition)

theorem clearLatch_eq : clearLatch p c s = takePartVote (unlatched p c s) := rfl

theorem kept_unlatched : Kept offerBlocks s (unlatched p c s) :=
  Kept.after (kept_formPartVoteAgain _) <| Kept.after (kept_offer _ _ _) <| Kept.after (kept_setCondition s _ _) (.refl _ _)

theorem conditions_unlatched :
    (unlatched p c s).conditions = { clearedConditions c s.conditions with raises := (unlatched p c s).conditions.raises } := by
  have h := offer_latches (.master p) (.conditionCleared c) (s.setCondition c { s.condition c with firstLatched := none })
  have hf := formPartVote_of_latches h
  unfold SameLatches at h
  unfold unlatched formPartVoteAgain
  generalize offer (.master p) (.conditionCleared c) (s.setCondition c { s.condition c with firstLatched := none }) = u at h hf
  dsimp only
  rw [hf, h]
  rfl

theorem conditions_clearLatch :
    (clearLatch p c s).conditions = { clearedConditions c s.conditions with raises := (clearLatch p c s).conditions.raises } := by
  have h := looseMoves_latches (loose_takePartVote (unlatched p c s))
  rw [← clearLatch_eq] at h
  unfold SameLatches at h
  rw [h, conditions_unlatched]

theorem permit_clearLatch :
    (clearLatch p c s).permit = votedPermit s.permit (formPartVote (clearedConditions c s.conditions)) s.time.partTime := by
  have hv : (unlatched p c s).conditions.partVote = formPartVote (clearedConditions c s.conditions) := by rw [conditions_unlatched]; rfl
  have hp : (unlatched p c s).permit = s.permit := (kept_unlatched s p c).unchanged .permit (by decide)
  have ht : (unlatched p c s).time = s.time := (kept_unlatched s p c).unchanged .time (by decide)
  rw [clearLatch_eq, takePartVote_permit, hv, hp, ht]
  rfl

variable {s}

theorem unlatched_of_room (hr : RoomFor 1 s) :
    unlatched p c s
      = { s with
          conditions := clearedConditions c s.conditions
          journal := s.journal.storing s.time.partTime (quality s) [(.master p, .conditionCleared c)] } := by
  unfold unlatched
  rw [offer_eq_storing (s := s.setCondition c _) (hr.congr rfl rfl)]
  rfl

end

/-- A row whose act leaves the lines, and the permit state, as they were. -/
theorem Unchanged.answered_state {bs : List Block} {s u : State} {p : Port} (h : Unchanged bs s u) (hr : Ready s p) (hl : LevelsFormed s)
    (hb : Block.ports ∈ bs ∧ Block.outs ∉ bs) (hp : u.permit.state = s.permit.state) (tag : Byte) (r : Reply) :
    Unchanged bs s (conclude (respond p tag r u)) := by
  have ho : u.outs = s.outs := h .outs hb.2
  have hc := conclude_outs_same (t := respond p tag r u) hl hr.rstn (tickWork_of_quiet hr.calm) ho (by rw [respond_permit, hp])
  have h1 : Unchanged (.outs :: bs) s (conclude (respond p tag r u)) :=
    unchanged_responded (h.mono (List.subset_cons_self _ _)) (List.mem_cons_of_mem _ hb.1) List.mem_cons_self p tag r
  intro b hn
  by_cases hbo : b = .outs
  · subst hbo
    exact hc
  · exact h1 b (by simp [hbo, hn])

theorem respond_conditions (p : Port) (tag : Byte) (r : Reply) (s : State) : (respond p tag r s).conditions = s.conditions := rfl

/-- Settles O50. The record of the command comes first, then what a changed part vote brings. -/
theorem conditionClears : Obligations.ConditionClears := by
  unfold Obligations.ConditionClears
  intro s p tag b x hr hl hx may
  have hrow : exec (.clearCondition p tag b) s = .next (onCommand p tag 1 .liveSession (takeClearCondition p b) s) := rfl
  refine ⟨fun h => ?_, fun h hb => ?_, fun h c hb => ?_⟩
  · exact answers_of_live hr hx hl (r := refuse .notHolder) hrow rfl (takeClearCondition_notHolder (s := taken s p _) h)
  · exact answers_of_live hr hx hl (r := refuse .badArg) hrow rfl (takeClearCondition_badArg (s := taken s p _) h hb)
  · have hact := takeClearCondition_of (s := taken s p 1) h hb
    intro r level cleared vote pm
    have hlevel : level ↔ isLevelCondition c = true := isLevelCondition_iff.symm
    refine ⟨fun h1 h2 => ?_, fun h1 h2 => ?_, fun h1 h2 => ?_⟩
    · refine answers_of_live hr hx hl (r := refuse .wrongState) hrow rfl (hact.trans (if_pos ?_))
      rw [Bool.and_eq_true]
      exact ⟨hlevel.mp h1, h2⟩
    · refine answers_of_live hr hx hl (r := okay _) hrow rfl (hact.trans ((if_neg ?_).trans (if_neg ?_)))
      · rw [Bool.and_eq_true, ← hlevel]
        exact h1
      · exact (by rw [show ((taken s p 1).condition c).firstLatched = none from h2]; decide)
    · have hclear : takeClearCondition p b (taken s p 1) = clearReply (clearLatch p c (taken s p 1)) := by
        refine hact.trans ((if_neg ?_).trans (if_pos h2))
        rw [Bool.and_eq_true, ← hlevel]
        exact h1
      have hkept : Kept permitBlocks (taken s p 1) (clearLatch p c (taken s p 1)) := kept_clearLatch p c _
      have hcond := conditions_clearLatch (taken s p 1) p c
      have hpermit : (clearLatch p c (taken s p 1)).permit = pm := permit_clearLatch (taken s p 1) p c
      have hvote : (clearLatch p c (taken s p 1)).conditions.partVote = vote := by rw [hcond]; rfl
      have hstate : exec (.clearCondition p tag b) s
          = .next (conclude (respond p tag (okay (code (voteCode vote) ++ code (permitStateCode pm.state))) (clearLatch p c (taken s p 1)))) := by
        rw [hrow, onCommand_live hr hx, hclear, clearReply, hvote, hpermit]
      refine ⟨_, hstate, fun c' => ?_, ?_, ?_, queue_answered hkept tag _, ?_, fun hs hroom => ?_, fun L hL hroom => ?_⟩
      · unfold State.condition
        rw [conclude_conditions, respond_conditions, hcond]
        cases c <;> cases c' <;> rfl
      · rw [conclude_conditions, respond_conditions, hvote]
      · rw [conclude_permit, respond_permit, hpermit]
      · exact unchanged_row (hkept.unchanged.mono (sub_of_all rfl)) (by decide) (by decide) tag _
      · have hu := unlatched_of_room (s := taken s p 1) p c (hroom.congr rfl rfl)
        have hv : votedPermit (unlatched p c (taken s p 1)).permit (unlatched p c (taken s p 1)).conditions.partVote
            (unlatched p c (taken s p 1)).time.partTime = pm := by rw [hu]; rfl
        have he : clearLatch p c (taken s p 1) = (unlatched p c (taken s p 1)).setPermit pm := by
          rw [clearLatch_eq, takePartVote_same (by rw [hv, hu]; exact hs), hv]
        rw [hu] at he
        have hun : Unchanged [.journal, .permit, .conditions, .ports] s (clearLatch p c (taken s p 1)) := by
          rw [he]
          exact (kept_taken s p 1).mono (sub_of_all rfl) |>.trans fun b hn => by cases b <;> first | rfl | exact absurd hn (by decide)
        refine ⟨?_, fun q => ?_, hun.answered_state hr hl (by decide) (by rw [hpermit]; exact hs) tag _⟩
        · unfold Stored
          rw [conclude_journal, respond_journal, he]
          rfl
        · rw [conclude_session, session_respond, he]
          exact session_taken_heard s p q 1
      · intro u
        have hu := unlatched_of_room (s := taken s p 1) p c ((hroom.mono (by omega)).congr rfl rfl)
        have hv : votedPermit (unlatched p c (taken s p 1)).permit (unlatched p c (taken s p 1)).conditions.partVote
            (unlatched p c (taken s p 1)).time.partTime = pm := by rw [hu]; rfl
        have hroom' : RoomFor (1 + 2 * L.length) (unlatched p c (taken s p 1)) := by
          rw [hu]
          exact RoomFor.storing (s := s) (t := s.time.partTime) (q := quality s) (l := [(.master p, .conditionCleared c)])
            (hroom.mono (by rw [List.length_singleton]; omega)) rfl rfl
        have he : clearLatch p c (taken s p 1) = permitChanged (unlatched p c (taken s p 1)) pm .partVote none L := by
          rw [clearLatch_eq, takePartVote_eq (by rw [hv, hu]; exact hL) hroom', hv]
        have hans := respond_taken s p 1 tag (okay (code (voteCode vote) ++ code (permitStateCode pm.state)))
        rw [he, respond_permitChanged, hu]
        refine congrArg (fun y => conclude (permitChanged y pm .partVote none L)) ?_
        exact congrArg (fun y : State => { y with
          conditions := clearedConditions c s.conditions
          journal := s.journal.storing s.time.partTime (quality s) [(.master p, .conditionCleared c)] }) hans

end Sys2Proof.Machine
end

section
/-! SUPPORT. What a stop leaves of entries and lines, whatever the journal does with its records, and a stop by a vote (O47). -/

set_option Elab.async false

namespace Sys2Proof.Machine

/-! ### Cancellations that hand no level -/

theorem offer_outs (o : Origin) (b : Body) (s : State) : (offer o b s).outs = s.outs := (kept_offer o b s).unchanged .outs (by decide)

/-- A cancellation whose cause hands no trailing level leaves the lines alone (R100). -/
theorem outs_cancel {cause : CancelCause} (h : handsTrailing cause = false) (s : State) (i : Fin 64) : (cancel cause s i).outs = s.outs := by
  unfold cancel
  split
  · rfl
  · simp only [h, Bool.false_eq_true, if_false]
    exact offer_outs _ _ _

theorem outs_cancels {cause : CancelCause} (h : handsTrailing cause = false) :
    ∀ (L : List (Fin 64)) (s : State), (L.foldl (cancel cause) s).outs = s.outs
  | [], _ => rfl
  | i :: L, s => (outs_cancels h L (cancel cause s i)).trans (outs_cancel h s i)

theorem outs_cancelWhere {cause : CancelCause} (h : handsTrailing cause = false) (test : Entry → Bool) (s : State) :
    (cancelWhere cause test s).outs = s.outs := outs_cancels h _ s

/-! ### A change to STOPPED -/

section
variable (c : PermitCause) (x : Option Port) (s : State)

/-- The schedule and the lines of a stop are those of its third and fourth step. -/
theorem changePermit_stopped_steps :
    ∃ u : State, u.schedule = s.schedule ∧ u.outs = s.outs ∧ u.permit.state = .stopped
      ∧ (changePermit .stopped c x s).schedule = (cancelWhere .permitStop (onGatedLine s) u).schedule
      ∧ (changePermit .stopped c x s).outs = (permitToLines .stopped (cancelWhere .permitStop (onGatedLine s) u)).outs := by
  have hk := kept_offer .part (.permit s.permit.state .stopped c) (enterPermitState .stopped c s)
  refine ⟨offer .part (.permit s.permit.state .stopped c) (enterPermitState .stopped c s), hk.unchanged .schedule (by decide),
    hk.unchanged .outs (by decide), congrArg Permit.state (hk.unchanged .permit (by decide)), ?_, ?_⟩ <;>
    (unfold changePermit
     dsimp only
     generalize hu : offer .part (.permit s.permit.state .stopped c) (enterPermitState .stopped c s) = u at hk
     have hg : onGatedLine u = onGatedLine s := funext fun e => onGatedLine_congr
       (fun k => by unfold State.out; rw [show u.outs = s.outs from hk.unchanged .outs (by decide)]) rfl
     rw [permitToSchedule_stopped, hg])
  · exact (kept_permitToLines _ _).unchanged .schedule (by decide)
  · rfl

theorem entry_changePermit_stopped (i : Fin 64) : (changePermit .stopped c x s).entry i = (s.entry i).filter fun e => !onGatedLine s e := by
  obtain ⟨u, hu, _, _, hs, _⟩ := changePermit_stopped_steps c x s
  rw [entry_congr hs, entry_cancelWhere, entry_congr hu]

theorem out_changePermit_stopped (k : Fin 8) :
    (changePermit .stopped c x s).out k
      = if (s.out k).gated then { s.out k with commanded := (s.out k).safe, driven := (s.out k).safe, pulse := none } else s.out k := by
  obtain ⟨u, hu, hou, hst, _, ho⟩ := changePermit_stopped_steps c x s
  have hk : u.out k = s.out k := by unfold State.out; rw [hou]
  have hp : (cancelWhere .permitStop (onGatedLine s) u).permit.state = .stopped := by
    rw [(kept_cancelWhere .permitStop (onGatedLine s) u).unchanged .permit (by decide)]
    exact hst
  have h1 : (changePermit .stopped c x s).out k = (permitToLines .stopped (cancelWhere .permitStop (onGatedLine s) u)).out k := by
    unfold State.out; rw [ho]
  rw [h1, permitToLines_stopped hp, out_gatedLines]
  have hc : (cancelWhere .permitStop (onGatedLine s) u).out k = s.out k := by
    unfold State.out at hk ⊢
    rw [outs_cancelWhere rfl, hk]
  rw [hc]

end

/-- An aggregate of STOP where it was another stops the permit (R144, R146, R150). -/
theorem takeAggregate_stops {s : State} (hf : formAggregate s.permit = .stop) (ha : s.permit.aggregate ≠ .stop)
    (hs : s.permit.state ≠ .stopped) (c : PermitCause) (x : Option Port) :
    takeAggregate c x s = changePermit .stopped c x (s.setPermit { s.permit with aggregate := .stop }) := by
  have hn : nextPermitState s.permit.state .stop s.permit.startDelay = .stopped := by cases s.permit.state <;> rfl
  unfold takeAggregate
  dsimp only
  simp only [hf, State.setPermit_permit]
  rw [if_neg ha.symm, hn, if_neg hs.symm]

/-- The permit unit that a stop leaves (R147, R156). -/
theorem permitAfter_stops {pm : Permit} (hf : formAggregate pm = .stop) (ha : pm.aggregate ≠ .stop) (hs : pm.state ≠ .stopped) (time : Nat)
    (c : PermitCause) :
    permitAfter pm time c
      = { pm with aggregate := .stop, state := .stopped, timer := none, lastChange := some (time, c), prun := .low, phold := .low } := by
  have hn : nextPermitState pm.state .stop pm.startDelay = .stopped := by cases pm.state <;> rfl
  unfold permitAfter
  dsimp only
  rw [hf, if_neg ha.symm, hn, if_neg hs.symm]
  rfl

theorem entry_responded (p : Port) (tag : Byte) (r : Reply) (s : State) (i : Fin 64) : (conclude (respond p tag r s)).entry i = s.entry i :=
  entry_congr (s := s) (conclude_schedule (respond p tag r s)) i

/-- Settles O47. -/
theorem stopEndsGatedWork : Obligations.StopEndsGatedWork := by
  unfold Obligations.StopEndsGatedWork
  intro s p tag x hr hl hx he ha hs
  have hf : formAggregate { s.permit with electors := s.permit.electors.set p (some { vote := .stop, forced := false }) } = .stop :=
    formAggregate_stop_of_elector (p := p) (e := { vote := .stop, forced := false }) (by rw [PerPort.get_set, if_pos rfl]) rfl
  have hset : setElector p (some { vote := .stop, forced := false }) (.vote p .stop) none (taken s p 1)
      = changePermit .stopped (.vote p .stop) none ((taken s p 1).setPermit
          { s.permit with electors := s.permit.electors.set p (some { vote := .stop, forced := false }), aggregate := .stop }) :=
    takeAggregate_stops (s := (taken s p 1).setPermit _) hf ha hs _ _
  have hpm := setElector_permit p (some { vote := .stop, forced := false }) (.vote p .stop) none (taken s p 1)
  have hpm := hpm.trans (permitAfter_stops hf ha hs _ _)
  have hrow : exec (.vote p tag 0#8) s = .next (onCommand p tag 1 .liveSession (takeVote p 0#8) s) := rfl
  rw [onCommand_live hr hx, takeVote_elector (s := taken s p 1) he (w := .stop) rfl, permitReply] at hrow
  refine ⟨_, hrow, ?_⟩
  dsimp only
  rw [conclude_permit, respond_permit, hpm]
  generalize hw : (taken s p 1).setPermit { s.permit with
    electors := s.permit.electors.set p (some { vote := .stop, forced := false }), aggregate := .stop } = w at hset
  have hout : ∀ k, w.out k = s.out k := fun k => by rw [← hw]; rfl
  have hgates : ∀ e, onGatedLine w e = onGatedLine s e := fun e => by rw [← hw]; rfl
  have hentry : ∀ i, w.entry i = s.entry i := fun i => by rw [← hw]; rfl
  generalize hrep : okay (code (permitStateCode _)) = r
  generalize hu : setElector p (some { vote := .stop, forced := false }) (.vote p .stop) none (taken s p 1) = u at hset hpm
  have hentries : ∀ i, (conclude (respond p tag r u)).entry i = (s.entry i).filter fun e => !onGatedLine s e := fun i => by
    rw [entry_responded, hset, entry_changePermit_stopped, hentry]
    simp only [hgates]
  have hlines : ∀ k, u.out k
      = if (s.out k).gated then { s.out k with commanded := (s.out k).safe, driven := (s.out k).safe, pulse := none } else s.out k := fun k => by
    rw [hset, out_changePermit_stopped, hout]
  have hdriven : ∀ k, ((conclude (respond p tag r u)).out k).driven = ((conclude (respond p tag r u)).out k).drive .stopped := fun k => by
    have hkept : Kept permitBlocks (taken s p 1) u := hu ▸ kept_setElector p _ _ none _
    have hrstn : (conclude (respond p tag r u)).rstn = .high := by
      rw [conclude_rstn, respond_rstn]
      exact (hkept.unchanged .rstn (by decide)).trans hr.rstn
    have hwork : (conclude (respond p tag r u)).tickWork = [] := by
      rw [conclude_tickWork, respond_tickWork]
      exact (congrArg Prod.fst (hkept.unchanged .tickWork (by decide))).trans (tickWork_of_quiet (s := s) hr.calm)
    have h := (conclude_formed (respond p tag r u)).driven hrstn (.inr fun e he => by rw [hwork] at he; exact absurd he (by simp)) k
    rw [conclude_permit, respond_permit, hpm] at h
    exact h
  have hline : ∀ k, ∃ v, (conclude (respond p tag r u)).out k = { u.out k with driven := v } := fun k => conclude_out (respond p tag r u) k
  refine ⟨rfl, rfl, rfl, rfl, fun i e hi hg => ?_, fun i e hi hg => ?_, fun k hk => ?_, fun k hk => ?_, fun L hL hroom => ?_⟩
  · rw [hentries, hi, Option.filter_some, hg]
    rfl
  · rw [hentries, hi, Option.filter_some, hg]
    rfl
  · obtain ⟨v, hv⟩ := hline k
    have hd := hdriven k
    rw [hlines, if_pos hk] at hv
    rw [hv] at hd ⊢
    have : v = (s.out k).safe := hd.trans (if_pos hk)
    rw [this]
  · obtain ⟨v, hv⟩ := hline k
    have hd := hdriven k
    have hg : ¬ (s.out k).gated = true := by rw [hk]; simp
    rw [hlines, if_neg hg] at hv
    rw [hv] at hd ⊢
    have hs := hl.driven hr.rstn (.inr fun e he => by rw [tickWork_of_quiet hr.calm] at he; exact absurd he (by simp)) k
    have : v = (s.out k).driven := (hd.trans (if_neg hg)).trans (hs.trans (if_neg hg)).symm
    rw [this]
  · have hstopped := permitAfter_stops hf ha hs (taken s p 1).time.partTime (.vote p .stop)
    have hreached := (reached_permitAfter (s := taken s p 1) (cause := .vote p .stop)
      (a := { s.permit with electors := s.permit.electors.set p (some { vote := .stop, forced := false }) }) rfl (by rw [hstopped]; exact hs.symm)).2.2
    have hj := changePermit_stopped (s := taken s p 1) (closing := none) hreached (by rw [hstopped]) hL (hroom.congr rfl rfl)
    rw [hf, hstopped] at hj
    unfold Stored
    rw [conclude_journal, respond_journal, hset, ← hw]
    refine (congrArg State.journal hj).trans ?_
    rw [permitChanged_stopped (s := taken s p 1) _ _ _ rfl hs]
    rfl

end Sys2Proof.Machine
end

section
/-! SUPPORT. The hand-over of a resource, and RELEASE (O42). -/

set_option Elab.async false

namespace Sys2Proof.Machine

/-! ### The claim passed on -/

/-- A claim record once its holder has gone and the first waiter has taken its place (R125). -/
def ClaimRecord.passed (c : ClaimRecord) : ClaimRecord := { holder := c.waiters.head?, waiters := c.waiters.tail }

/-- The record of the grant to the first waiter (R125). -/
def grantRecords (r : Resource) (waiters : List Port) : List (Origin × Body) :=
  waiters.head?.elim [] fun w => [(.master w, .claimGranted r .fromWait)]

/-- The ports once the first waiter has GRANT pending (R125). -/
def grantNoticed (waiters : List Port) (x : PerPort PortState) : PerPort PortState := waiters.head?.elim x fun w => noticeAt noticeGrant w x

theorem grantRecords_length (r : Resource) (waiters : List Port) : (grantRecords r waiters).length ≤ 1 := by
  unfold grantRecords
  cases waiters <;> simp

theorem passOn_claims (r : Resource) (s : State) : (passOn r s).claims = (s.setClaim r (s.claimOf r).passed).claims := by
  unfold passOn ClaimRecord.passed
  split
  · next h => rw [h]; rfl
  · next w rest h =>
    rw [h]
    exact (kept_offer (.master w) (.claimGranted r .fromWait) (s.setClaim r { holder := some w, waiters := rest })).unchanged .claims (by decide)

theorem passOn_eq {r : Resource} {s : State} (h : RoomFor 1 s) :
    passOn r s
      = { s.setClaim r (s.claimOf r).passed with
          journal := s.journal.storing s.time.partTime (quality s) (grantRecords r (s.claimOf r).waiters)
          ports := grantNoticed (s.claimOf r).waiters s.ports } := by
  unfold passOn ClaimRecord.passed grantRecords grantNoticed
  split
  · next h => rw [h]; simp [storing_nil]; rfl
  · next w rest hw =>
    rw [hw]
    exact congrArg (raiseNotice noticeGrant w) (offer_eq_storing (s := s.setClaim r { holder := some w, waiters := rest }) (h.congr rfl rfl) _ _)

/-! ### The line of a claim that ends -/

/-- A line whose claim has ended: at its rest level, its immediate pulse ended, its drive formed (R116). -/
def OutLine.released (o : OutLine) (permit : PermitState) : OutLine := ({ o with commanded := o.rest, pulse := none } : OutLine).formed permit

section
variable {p : Port} {k : Fin 8} {s : State}

theorem clearLine_after {u : State} (ho : u.outs = s.outs) (hp : u.permit = s.permit) :
    (let v := handLevel k (u.out k).rest u; v.setOut k ((v.out k).formed v.permit.state))
      = { u with outs := s.outs.set k ((s.out k).released s.permit.state) } := by
  have hk : u.out k = s.out k := by unfold State.out; rw [ho]
  unfold handLevel
  dsimp only
  rw [out_setOut_same, setOut_setOut, hk, State.setOut_permit, congrArg Permit.state hp]
  unfold State.setOut
  rw [ho]
  rfl

/-- The line unit's part of a hand-over comes after the cancellations, which leave the lines alone. -/
theorem clearLine_eq_after (p : Port) (k : Fin 8) (s : State) :
    clearLine p k s
      = { cancelWhere .released (fun e => e.owner == p && e.line == some k) s with
          outs := s.outs.set k ((s.out k).released s.permit.state) } :=
  clearLine_after (outs_cancelWhere rfl _ s) ((kept_cancelWhere .released (fun e => e.owner == p && e.line == some k) s).unchanged .permit (by decide))

theorem out_clearLine (j : Fin 8) :
    (clearLine p k s).out j = if j = k then (s.out k).released s.permit.state else s.out j := by
  rw [clearLine_eq_after]
  exact out_setOut s k j _

theorem entry_clearLine (i : Fin 64) : (clearLine p k s).entry i = (s.entry i).filter fun e => !(e.owner == p && e.line == some k) := by
  rw [clearLine_eq_after]
  exact entry_cancelWhere .released _ s i

theorem clearLine_eq {L : List (Fin 64)} (hL : Listed s (fun e => e.owner = p ∧ e.line = some k) admittedBefore L) (hr : RoomFor L.length s) :
    clearLine p k s
      = { s with
          journal := s.journal.storing s.time.partTime (quality s) (cancelRecords s .released L)
          schedule := (s.emptied L).schedule
          outs := s.outs.set k ((s.out k).released s.permit.state) } := by
  have hocc : ∀ i ∈ L, (s.entry i).isSome = true := fun i hi => by
    obtain ⟨e, he, _⟩ := (hL.1 i).mp hi
    exact Option.isSome_iff_exists.mpr ⟨e, he⟩
  have hc : cancelWhere .released (fun e => e.owner == p && e.line == some k) s = s.cancelled .released L := by
    rw [cancelWhere, hL.byAdmission (fun e => by simp)]
    exact cancel_foldl hL.nodup_admission hocc hr
  rw [clearLine_eq_after, hc]
  rfl

end

/-! ### The hand-over -/

/-- The entries that a master's loss of a resource ends (R102). -/
def OnResource (p : Port) (r : Resource) (e : Entry) : Prop := ∃ k, r = .out k ∧ e.owner = p ∧ e.line = some k

theorem onResource_out {p : Port} {k : Fin 8} {e : Entry} : OnResource p (.out k) e ↔ e.owner = p ∧ e.line = some k :=
  ⟨fun ⟨_, hk, h⟩ => by cases hk; exact h, fun h => ⟨k, rfl, h⟩⟩

theorem not_onResource {p : Port} {r : Resource} (h : ∀ k, r ≠ .out k) (e : Entry) : ¬ OnResource p r e := fun ⟨k, hk, _⟩ => h k hk

/-- The line of a resource, if it is one. -/
def Resource.line? : Resource → Option (Fin 8)
  | .time => none
  | .config => none
  | .out k => some k

theorem line?_iff {r : Resource} {k : Fin 8} : r.line? = some k ↔ r = .out k := by
  cases r <;> simp [Resource.line?]

/-- The second step of a hand-over: the line of the resource is cleared, if it is one. -/
def clearedOf (p : Port) (r : Resource) (s : State) : State := r.line?.elim s fun k => clearLine p k s

theorem handOver_steps (p : Port) (cause : ClaimCause) (r : Resource) (s : State) :
    handOver p cause r s = passOn r (clearedOf p r (offer (.master p) (.claimReleased r cause) s)) := by cases r <;> rfl

section
variable (p : Port) (cause : ClaimCause) (r : Resource) (s : State)

theorem kept_clearedOf : Kept entryBlocks s (clearedOf p r s) := by
  unfold clearedOf
  cases r.line? with
  | none => exact .refl _ _
  | some k => exact kept_clearLine p k s

theorem claims_handOver : (handOver p cause r s).claims = (s.setClaim r (s.claimOf r).passed).claims := by
  have hk : Kept entryBlocks s (clearedOf p r (offer (.master p) (.claimReleased r cause) s)) :=
    Kept.after (kept_clearedOf p r _) <| Kept.after (kept_offer _ _ _) (.refl _ _)
  generalize hu : clearedOf p r (offer (.master p) (.claimReleased r cause) s) = u at hk
  have hc : u.claims = s.claims := hk.unchanged .claims (by decide)
  have hr : u.claimOf r = s.claimOf r := claimOf_of_claims hc r
  rw [handOver_steps, hu, passOn_claims, hr]
  unfold State.setClaim
  rw [hc]

theorem claimOf_handOver (q : Resource) : (handOver p cause r s).claimOf q = if q = r then (s.claimOf r).passed else s.claimOf q :=
  (claimOf_of_claims (claims_handOver p cause r s) q).trans (claimOf_setClaim s r q _)

theorem passOn_schedule_outs : (passOn r s).schedule = s.schedule ∧ (passOn r s).outs = s.outs := by
  have h := (kept_passOn r s).unchanged
  unfold passOn
  split
  · exact ⟨rfl, rfl⟩
  · exact ⟨(kept_offer _ _ _).unchanged .schedule (by decide), offer_outs _ _ _⟩

theorem out_handOver (k : Fin 8) :
    (handOver p cause r s).out k = if r = .out k then (s.out k).released s.permit.state else s.out k := by
  have ho : ∀ k, (offer (.master p) (.claimReleased r cause) s).out k = s.out k := fun k => by unfold State.out; rw [offer_outs]
  have hm : (offer (.master p) (.claimReleased r cause) s).permit = s.permit := (kept_offer _ _ _).unchanged .permit (by decide)
  have hp := (passOn_schedule_outs r (clearedOf p r (offer (.master p) (.claimReleased r cause) s))).2
  have h1 : (handOver p cause r s).out k = (clearedOf p r (offer (.master p) (.claimReleased r cause) s)).out k := by
    rw [handOver_steps]
    unfold State.out
    rw [hp]
  rw [h1, clearedOf]
  cases r with
  | out j =>
    rw [show (Resource.out j).line? = some j from rfl, Option.elim, out_clearLine, ho, ho, hm]
    by_cases hkj : k = j
    · rw [hkj, if_pos rfl, if_pos rfl]
    · rw [if_neg hkj, if_neg fun h => hkj (Resource.out.inj h).symm]
  | time => rw [if_neg (by simp)]; exact ho k
  | config => rw [if_neg (by simp)]; exact ho k

theorem entry_handOver {i : Fin 64} {e : Entry} (h : s.entry i = some e) :
    (OnResource p r e → (handOver p cause r s).entry i = none) ∧ (¬ OnResource p r e → (handOver p cause r s).entry i = some e) := by
  have hp := (passOn_schedule_outs r (clearedOf p r (offer (.master p) (.claimReleased r cause) s))).1
  have h1 : (handOver p cause r s).entry i = (clearedOf p r (offer (.master p) (.claimReleased r cause) s)).entry i := by
    rw [handOver_steps, entry_congr hp]
  rw [h1, clearedOf]
  cases r with
  | out j =>
    rw [show (Resource.out j).line? = some j from rfl, Option.elim, entry_clearLine, entry_offer, h, Option.filter_some, onResource_out]
    by_cases ho : e.owner = p ∧ e.line = some j <;> simp [ho]
  | time => exact ⟨fun h => absurd h (not_onResource (by simp) e), fun _ => (entry_offer _ _ _ _).trans h⟩
  | config => exact ⟨fun h => absurd h (not_onResource (by simp) e), fun _ => (entry_offer _ _ _ _).trans h⟩

end

/-- Slots are emptied in place, whatever else of the state changed. -/
theorem emptied_congr {s t : State} (h : t.schedule = s.schedule) (L : List (Fin 64)) : (t.emptied L).schedule = (s.emptied L).schedule := by
  induction L generalizing s t with
  | nil => exact h
  | cons i L ih => exact ih (s := s.putEntry i none) (t := t.putEntry i none) (by unfold State.putEntry; rw [h])

/-- The lines once the claim on a resource has ended. -/
def releasedOuts (s : State) (r : Resource) : Vector OutLine 8 :=
  r.line?.elim s.outs fun k => s.outs.set k ((s.out k).released s.permit.state)

theorem clearedOf_eq {p : Port} {r : Resource} {s : State} {L : List (Fin 64)} (hL : Listed s (OnResource p r) admittedBefore L)
    (hr : RoomFor L.length s) :
    clearedOf p r s
      = { s with
          journal := s.journal.storing s.time.partTime (quality s) (cancelRecords s .released L)
          schedule := (s.emptied L).schedule
          outs := releasedOuts s r } := by
  have hnone : (∀ k, r ≠ .out k) → L = [] := fun hk => List.eq_nil_iff_forall_not_mem.mpr fun i hi => by
    obtain ⟨e, _, he⟩ := (hL.1 i).mp hi
    exact not_onResource hk e he
  have hrest : L = [] → r.line? = none → clearedOf p r s
      = { s with
          journal := s.journal.storing s.time.partTime (quality s) (cancelRecords s .released L)
          schedule := (s.emptied L).schedule
          outs := releasedOuts s r } := fun h1 h2 => by
    subst h1
    unfold clearedOf releasedOuts
    rw [h2]
    have hj : s.journal.storing s.time.partTime (quality s) (cancelRecords s .released []) = s.journal := storing_nil _ _ _
    rw [hj]
    rfl
  cases r with
  | out k =>
    have hL' : Listed s (fun e => e.owner = p ∧ e.line = some k) admittedBefore L :=
      ⟨fun i => (hL.1 i).trans (exists_congr fun e => and_congr_right fun _ => onResource_out), hL.2⟩
    exact clearLine_eq hL' hr
  | time => exact hrest (hnone (by simp)) rfl
  | config => exact hrest (hnone (by simp)) rfl

/-- A hand-over, where the journal has room for its records (R125). -/
theorem handOver_eq {p : Port} {r : Resource} {s : State} {L : List (Fin 64)} (cause : ClaimCause)
    (hL : Listed s (OnResource p r) admittedBefore L) (hr : RoomFor (2 + L.length) s) :
    handOver p cause r s
      = { s.setClaim r (s.claimOf r).passed with
          journal := s.journal.storing s.time.partTime (quality s)
            ((.master p, .claimReleased r cause) :: (cancelRecords s .released L ++ grantRecords r (s.claimOf r).waiters))
          schedule := (s.emptied L).schedule
          outs := releasedOuts s r
          ports := grantNoticed (s.claimOf r).waiters s.ports } := by
  have h1 := offer_eq_storing (hr.mono (by omega)) (.master p) (.claimReleased r cause)
  generalize hu : offer (.master p) (.claimReleased r cause) s = u at h1
  have hroom1 : RoomFor (1 + L.length) u := RoomFor.storing (s := s) (t := s.time.partTime) (q := quality s)
    (l := [(.master p, .claimReleased r cause)]) (hr.mono (by rw [List.length_singleton]; omega)) (by rw [h1]) (by rw [h1])
  have h2 := clearedOf_eq (s := u) (p := p) (r := r) (L := L) (by rw [h1]; exact hL) (hroom1.mono (by omega))
  generalize hv : clearedOf p r u = v at h2
  have hocc : ∀ i ∈ L, (u.entry i).isSome = true := fun i hi => by
    obtain ⟨e, he, _⟩ := (hL.1 i).mp hi
    have he' : u.entry i = some e := by rw [h1]; exact he
    exact Option.isSome_iff_exists.mpr ⟨e, he'⟩
  have hroom2 : RoomFor 1 v := RoomFor.storing (s := u) (t := u.time.partTime) (q := quality u) (l := cancelRecords u .released L)
    (by rw [cancelRecords_length hocc]; exact hroom1) (by rw [h2]) (by rw [h2])
  rw [handOver_steps, hu, hv, passOn_eq hroom2, h2]
  have hj : s.journal.storing s.time.partTime (quality s)
      ((.master p, .claimReleased r cause) :: (cancelRecords s .released L ++ grantRecords r (s.claimOf r).waiters))
      = ((s.journal.storing s.time.partTime (quality s) [(.master p, .claimReleased r cause)]).storing s.time.partTime (quality s)
          (cancelRecords s .released L)).storing s.time.partTime (quality s) (grantRecords r (s.claimOf r).waiters) := by
    rw [storing_storing, storing_storing]
    rfl
  have he : (u.emptied L).schedule = (s.emptied L).schedule := emptied_congr (by rw [h1]) L
  rw [hj, he, h1]
  rfl

/-! ### RELEASE -/

theorem session_grantNoticed {s t : State} {waiters : List Port} (h : t.ports = grantNoticed waiters s.ports) (q : Port) :
    t.session q = if waiters.head? = some q then (s.session q).map (Session.notice noticeGrant) else s.session q := by
  unfold grantNoticed at h
  cases waiters with
  | nil =>
    rw [if_neg (by simp)]
    exact session_of_ports h q
  | cons w rest =>
    rw [session_of_noticeAt (n := noticeGrant) (p := w) h]
    by_cases hq : q = w
    · rw [if_pos hq, if_pos (by rw [hq]; rfl)]
    · rw [if_neg hq, if_neg (by simpa using fun h => hq h.symm)]

/-- A line that is as it was stays so when the levels are formed, in the same permit state. -/
theorem conclude_out_same {s t : State} {k : Fin 8} (hl : LevelsFormed s) (hr : s.rstn = .high) (ht : s.tickWork = []) (ho : t.out k = s.out k)
    (hp : t.permit.state = s.permit.state) : (conclude t).out k = s.out k := by
  have hf : (s.out k).formed s.permit.state = s.out k := by
    have h := hl.driven hr (.inr fun e he => by rw [ht] at he; exact absurd he (by simp)) k
    unfold OutLine.formed
    rw [← h]
  have hv : (conclude t).out k = if !tickOpen t && t.rstn == .high then (t.out k).formed t.permit.state else t.out k := by
    unfold State.out
    rw [conclude_outs]
    split
    · rw [Fin.getElem_fin, Vector.getElem_map]
      rfl
    · rfl
  rw [hv, ho, hp, hf, ite_self]

section
variable {s : State} {p : Port} {b : Byte}

theorem takeRelease_badArg (h : resourceOf? b = none) : takeRelease p b s = (s, refuse .badArg) := by
  unfold takeRelease
  rw [h]

theorem takeRelease_notHolder {r : Resource} (h : resourceOf? b = some r) (hh : s.holds p r = false) :
    takeRelease p b s = (s, refuse .notHolder) := by
  unfold takeRelease
  rw [h]
  simp only [hh, Bool.false_eq_true, if_false]

theorem takeRelease_held {r : Resource} (h : resourceOf? b = some r) (hh : s.holds p r = true) :
    takeRelease p b s = (handOver p .command r s, okay []) := by
  unfold takeRelease
  rw [h]
  simp only [hh, if_true]

end

/-- Settles O42. -/
theorem releaseHandsOver : Obligations.ReleaseHandsOver := by
  unfold Obligations.ReleaseHandsOver
  intro s p tag b x hr hl hx
  have hrow : exec (.release p tag b) s = .next (onCommand p tag 1 .liveSession (takeRelease p b) s) := rfl
  refine ⟨fun h => ?_, fun r h => ⟨fun hh => ?_, fun hh => ?_⟩⟩
  · exact answers_of_live hr hx hl (r := refuse .badArg) hrow rfl (takeRelease_badArg h)
  · exact answers_of_live hr hx hl (r := refuse .notHolder) hrow rfl (takeRelease_notHolder (s := taken s p _) h hh)
  · rw [onCommand_live hr hx, takeRelease_held (s := taken s p 1) h hh] at hrow
    have hkept := kept_handOver p .command r (taken s p 1)
    have hclaims : ∀ q, (conclude (respond p tag (okay []) (handOver p .command r (taken s p 1)))).claimOf q
        = if q = r then (s.claimOf r).passed else s.claimOf q := fun q =>
      (claimOf_of_claims (conclude_claims _) q).trans (claimOf_handOver p .command r (taken s p 1) q)
    have hperm : (handOver p .command r (taken s p 1)).permit = s.permit := hkept.unchanged .permit (by decide)
    refine ⟨_, hrow, queue_answered hkept tag _, ?_, fun r' hr' => ?_, fun i e he ho => ?_, fun i e he ho => ?_, fun k hk => ?_, fun k hk => ?_,
      ?_, fun L hL hroom => ?_⟩
    · exact (hclaims r).trans (if_pos rfl)
    · exact (hclaims r').trans (if_neg hr')
    · exact (entry_responded p tag (okay []) _ i).trans ((entry_handOver p .command r (taken s p 1) he).1 ho)
    · exact (entry_responded p tag (okay []) _ i).trans ((entry_handOver p .command r (taken s p 1) he).2 ho)
    · obtain ⟨v, hv⟩ := conclude_out (respond p tag (okay []) (handOver p .command r (taken s p 1))) k
      have ho : (respond p tag (okay []) (handOver p .command r (taken s p 1))).out k = (s.out k).released s.permit.state :=
        (out_handOver p .command r (taken s p 1) k).trans (if_pos hk)
      dsimp only
      rw [hv, ho]
      exact ⟨rfl, rfl, rfl, rfl, rfl⟩
    · exact conclude_out_same hl hr.rstn (tickWork_of_quiet hr.calm) ((out_handOver p .command r (taken s p 1) k).trans (if_neg hk))
        (by rw [respond_permit, hperm])
    · exact (unchanged_row (hkept.unchanged.mono (cs := [.journal, .schedule, .outs, .claims, .conditions, .ports]) (sub_of_all rfl))
        (by decide) (by decide) tag _)
    · have he := handOver_eq (s := taken s p 1) (p := p) (r := r) .command hL (hroom.congr rfl rfl)
      refine ⟨?_, fun q => ?_⟩
      · unfold Stored
        rw [conclude_journal, respond_journal]
        dsimp only
        rw [he]
        refine congrArg (s.journal.storing s.time.partTime (quality s)) ?_
        unfold grantRecords
        show _ :: (_ ++ Option.elim (s.claimOf r).waiters.head? _ _) = _
        cases (s.claimOf r).waiters <;> rfl
      · rw [conclude_session, session_respond]
        have hs := session_grantNoticed (s := taken s p 1) (t := handOver p .command r (taken s p 1)) (waiters := (s.claimOf r).waiters)
          (by rw [he]; rfl) q
        refine hs.trans ?_
        rw [session_taken_heard]
        rfl

end Sys2Proof.Machine
end

section
/-! SUPPORT. Several hand-overs in a row, and the lapse of a session (O51). -/

set_option Elab.async false

namespace Sys2Proof.Machine

/-! ### The terms of a session -/

/-- What a session keeps while records are offered, attention is raised and readers are pushed. -/
def Session.terms (x : Session) : Liveness × Option Nat × Nat × Byte × Filter × ReaderMode :=
  (x.liveness, x.deadline, x.window, x.mask, x.reader.filter, x.reader.mode)

/-- Every session has the terms it had. -/
def SameTerms (s t : State) : Prop := ∀ q, (t.session q).map Session.terms = (s.session q).map Session.terms

theorem SameTerms.trans {s t u : State} (h : SameTerms s t) (k : SameTerms t u) : SameTerms s u := fun q => (k q).trans (h q)

theorem SameTerms.of_ports {s t : State} (h : t.ports = s.ports) : SameTerms s t := fun q => by rw [session_of_ports h]

theorem SameTerms.of_map {s t : State} {f : Port → Session → Session} (hf : ∀ q x, (f q x).terms = x.terms)
    (h : ∀ q, t.session q = (s.session q).map (f q)) : SameTerms s t := fun q => by
  rw [h, Option.map_map]
  exact congrArg (Option.map · _) (funext (hf q))

theorem terms_retireOldest (s : State) : SameTerms s (retireOldest s) :=
  .of_map (f := fun _ => s.journal.store.head?.elim id Session.pushPast) (fun _ x => by cases s.journal.store.head? <;> rfl)
    fun q => session_retireOldest s q

theorem terms_offerAs (t : Nat) (q : Quality) (o : Origin) (b : Body) (s : State) : SameTerms s (offerAs t q o b s) := by
  rcases offerAs_cases t q o b s with ⟨_, e⟩ | ⟨_, _, e⟩ | ⟨_, _, _, e⟩ | ⟨_, _, _, _, e⟩ | ⟨_, _, _, _, e⟩ <;> rw [e]
  · exact .of_ports rfl
  · exact .of_ports rfl
  · exact .of_ports rfl
  · exact .of_ports (handRaise_ports _ _)
  · exact (terms_retireOldest s).trans (.of_ports rfl)

theorem terms_offer (o : Origin) (b : Body) (s : State) : SameTerms s (offer o b s) := terms_offerAs _ _ o b s

theorem terms_reexamine (s : State) : SameTerms s (reexamine s) := by
  unfold reexamine
  split
  · exact .of_ports rfl
  · split
    · exact .of_ports rfl
    · exact (terms_retireOldest s).trans (.of_ports rfl)

theorem terms_raiseNotice (n : Byte) (p : Port) (s : State) : SameTerms s (raiseNotice n p s) :=
  .of_map (f := fun q => if q = p then Session.notice n else id) (fun q x => by split <;> rfl) fun q => session_modSession s p q _

theorem terms_looseMoves {s t : State} (m : LooseMoves s t) : SameTerms s t := by
  refine Moves.keeps (P := SameTerms s) (fun u v m h => h.trans ?_) m (.of_ports rfl)
  cases m with
  | entry m =>
    cases m with
    | offer t q o b => exact terms_offerAs t q o b u
    | raise c => exact .of_ports (handRaise_ports c u)
    | notice n p => exact terms_raiseNotice n p u
    | _ => exact .of_ports rfl
  | noticeAll n e =>
    exact .of_map (f := fun q => if e = some q then id else Session.notice n) (fun q x => by split <;> rfl) fun q => session_raiseForAll n e u q
  | _ => exact .of_ports rfl

theorem terms_passOn (r : Resource) (s : State) : SameTerms s (passOn r s) := by
  unfold passOn
  split
  · exact .of_ports rfl
  · next w rest _ =>
    exact .trans (t := s.setClaim r { holder := some w, waiters := rest }) (.of_ports rfl)
      ((terms_offer _ _ _).trans (terms_raiseNotice _ _ _))

theorem terms_clearLine (p : Port) (k : Fin 8) (s : State) : SameTerms s (clearLine p k s) := by
  rw [clearLine_eq_after]
  exact (terms_looseMoves (loose_of_entry (moves_cancelWhere _ _ s))).trans (.of_ports rfl)

theorem terms_handOverIfHeld (p : Port) (cause : ClaimCause) (s : State) (r : Resource) : SameTerms s (handOverIfHeld p cause s r) := by
  unfold handOverIfHeld
  split
  · rw [handOver_steps]
    have hclear : ∀ u : State, SameTerms u (clearedOf p r u) := fun u => by
      unfold clearedOf
      cases r.line? with
      | none => exact .of_ports rfl
      | some k => exact terms_clearLine p k u
    exact ((terms_offer (.master p) (.claimReleased r cause) s).trans (hclear _)).trans (terms_passOn r _)
  · exact .of_ports rfl

/-! ### Several hand-overs in a row -/

theorem claims_ext {s t : State} (h : ∀ r, t.claimOf r = s.claimOf r) : t.claims = s.claims := Vector.ext fun i hi => by
  by_cases h0 : i = 0
  · subst h0; exact h .time
  · by_cases h1 : i = 1
    · subst h1; exact h .config
    · have := h (.out ⟨i - 2, by omega⟩)
      unfold State.claimOf resourceIndex at this
      simpa [show i - 2 + 2 = i by omega] using this

theorem holds_of_claimOf {s t : State} {r : Resource} (h : (t.claimOf r).holder = (s.claimOf r).holder) (p : Port) : t.holds p r = s.holds p r := by
  unfold State.holds
  rw [h]

section
variable (p : Port) (cause : ClaimCause)

theorem claimOf_handOverIfHeld (s : State) (r q : Resource) :
    (handOverIfHeld p cause s r).claimOf q = if q = r ∧ s.holds p q = true then (s.claimOf q).passed else s.claimOf q := by
  unfold handOverIfHeld
  by_cases hq : q = r
  · subst hq
    by_cases hh : s.holds p q = true
    · rw [if_pos hh, claimOf_handOver, if_pos rfl, if_pos ⟨rfl, hh⟩]
    · rw [if_neg hh, if_neg fun h => hh h.2]
  · rw [if_neg (c := q = r ∧ s.holds p q = true) fun h => hq h.1]
    split
    · rw [claimOf_handOver, if_neg hq]
    · rfl

theorem claimOf_handOvers (R : List Resource) (s : State) (hR : R.Nodup) (q : Resource) :
    (R.foldl (handOverIfHeld p cause) s).claimOf q = if q ∈ R ∧ s.holds p q = true then (s.claimOf q).passed else s.claimOf q := by
  induction R generalizing s with
  | nil => simp
  | cons r R ih =>
    obtain ⟨hr, hR⟩ := List.nodup_cons.mp hR
    have hc := claimOf_handOverIfHeld p cause s r q
    rw [List.foldl_cons, ih _ hR]
    by_cases hq : q = r
    · subst hq
      rw [if_neg fun h => hr h.1, hc]
      simp
    · rw [if_neg fun h => hq h.1] at hc
      rw [holds_of_claimOf (s := s) (by rw [hc]), hc]
      simp [hq]

end

/-- The records of a hand-over of a resource, none where it is not held (R125). -/
def heldRecords (s : State) (p : Port) (cause : ClaimCause) (r : Resource) : List (Origin × Body) :=
  if s.holds p r = true then (.master p, .claimReleased r cause) :: grantRecords r (s.claimOf r).waiters else []

theorem heldRecords_length (s : State) (p : Port) (cause : ClaimCause) (r : Resource) : (heldRecords s p cause r).length ≤ 2 := by
  unfold heldRecords
  split
  · have := grantRecords_length r (s.claimOf r).waiters
    simp only [List.length_cons]
    omega
  · simp

/-- Whether a port's session has GRANT pending from hand-overs of these resources. -/
def grantedOf (s : State) (p : Port) (R : List Resource) (q : Port) : Bool :=
  R.any fun r => s.holds p r && (s.claimOf r).waiters.head? == some q

/-- What hand-overs of a list of resources leave, where no entry of the master is on a line and the journal has room (R125). -/
structure HandedOver (s t : State) (p : Port) (cause : ClaimCause) (R : List Resource) : Prop where
  journal : t.journal = s.journal.storing s.time.partTime (quality s) (R.flatMap (heldRecords s p cause))
  outs    : ∀ k, t.out k = if .out k ∈ R ∧ s.holds p (.out k) = true then (s.out k).released s.permit.state else s.out k
  ports   : t.ports = s.ports.mapIdx fun q x =>
    if grantedOf s p R q then { x with session := x.session.map (Session.notice noticeGrant) } else x
  rest    : Unchanged [.journal, .outs, .claims, .ports] s t

theorem notice_notice (n : Byte) (x : Session) : (x.notice n).notice n = x.notice n := by
  unfold Session.notice
  simp [BitVec.or_assoc]

theorem handOver_plain {p : Port} {r : Resource} {s : State} (cause : ClaimCause) (hno : ∀ i e, s.entry i = some e → ¬ OnResource p r e)
    (hr : RoomFor 2 s) :
    handOver p cause r s
      = { s.setClaim r (s.claimOf r).passed with
          journal := s.journal.storing s.time.partTime (quality s) ((.master p, .claimReleased r cause) :: grantRecords r (s.claimOf r).waiters)
          outs := releasedOuts s r
          ports := grantNoticed (s.claimOf r).waiters s.ports } :=
  handOver_eq (L := []) cause ⟨fun i => ⟨fun h => absurd h (by simp), fun ⟨e, he, ho⟩ => absurd ho (hno i e he)⟩, List.Pairwise.nil⟩ hr

theorem handedOver_one {p : Port} {r : Resource} {s : State} (cause : ClaimCause) (hno : ∀ i e, s.entry i = some e → ¬ OnResource p r e)
    (hr : RoomFor 2 s) : HandedOver s (handOverIfHeld p cause s r) p cause [r] := by
  unfold handOverIfHeld
  by_cases hh : s.holds p r = true
  · rw [if_pos hh]
    have ho := out_handOver p cause r s
    rw [handOver_plain cause hno hr] at ho ⊢
    refine ⟨?_, fun k => ?_, ?_, fun b hb => ?_⟩
    · simp [heldRecords, hh]
    · rw [ho]
      by_cases hk : r = .out k
      · subst hk
        rw [if_pos rfl, if_pos ⟨List.mem_singleton_self _, hh⟩]
      · rw [if_neg hk, if_neg fun h => hk (List.mem_singleton.mp h.1).symm]
    · refine PerPort.ext_get fun q => ?_
      rw [PerPort.get_mapIdx]
      unfold grantNoticed grantedOf
      cases hw : (s.claimOf r).waiters with
      | nil => simp [hh, hw]
      | cons w rest =>
        simp only [List.head?_cons, Option.elim, noticeAt, PerPort.get_set, List.any_cons, List.any_nil, Bool.or_false, hh, hw, Bool.true_and,
          beq_iff_eq, Option.some.injEq]
        by_cases hq : q = w
        · rw [if_pos hq, if_pos hq.symm, hq]
        · rw [if_neg hq, if_neg fun h => hq h.symm]
    · cases b <;> first | rfl | exact absurd (by decide) hb
  · rw [if_neg hh]
    refine ⟨?_, fun k => ?_, ?_, fun b hb => by cases b <;> rfl⟩
    · simp [heldRecords, hh, storing_nil]
    · rw [if_neg]
      rintro ⟨h1, h2⟩
      rw [List.mem_singleton.mp h1] at h2
      exact hh h2
    · refine PerPort.ext_get fun q => ?_
      simp [grantedOf, hh]

theorem HandedOver.cons {s t u : State} {p : Port} {cause : ClaimCause} {r : Resource} {R : List Resource} (hr : r ∉ R)
    (ht : t = handOverIfHeld p cause s r) (h : HandedOver s t p cause [r]) (k : HandedOver t u p cause R) : HandedOver s u p cause (r :: R) := by
  have hclaim : ∀ q, q ≠ r → t.claimOf q = s.claimOf q := fun q hq => by
    rw [ht, claimOf_handOverIfHeld, if_neg fun h => hq h.1]
  have hheld : ∀ q, q ≠ r → t.holds p q = s.holds p q := fun q hq => holds_of_claimOf (by rw [hclaim q hq]) p
  have htime : t.time = s.time := h.rest .time (by decide)
  have hquality : quality t = quality s := by unfold quality; rw [htime]
  have hpermit : t.permit = s.permit := h.rest .permit (by decide)
  have hne : ∀ q ∈ R, q ≠ r := fun q hq he => hr (he ▸ hq)
  refine ⟨?_, fun j => ?_, ?_, h.rest.trans k.rest⟩
  · have hrec : R.flatMap (heldRecords t p cause) = R.flatMap (heldRecords s p cause) := List.flatMap_congr fun q hq => by
      unfold heldRecords
      rw [hheld q (hne q hq), hclaim q (hne q hq)]
    rw [k.journal, h.journal, htime, hquality, hrec, storing_storing, List.flatMap_cons, List.flatMap_cons, List.flatMap_nil, List.append_nil]
  · rw [k.outs, h.outs, hpermit]
    by_cases hj : Resource.out j = r
    · have hjR : ¬ Resource.out j ∈ R := by rw [hj]; exact hr
      rw [if_neg fun h => hjR h.1]
      simp [hj]
    · rw [hheld _ hj, if_neg (c := Resource.out j ∈ [r] ∧ _) fun h => hj (List.mem_singleton.mp h.1)]
      simp [hj]
  · have hg : ∀ q, grantedOf t p R q = grantedOf s p R q := fun q => by
      unfold grantedOf
      rw [Bool.eq_iff_iff, List.any_eq_true, List.any_eq_true]
      refine exists_congr fun r' => and_congr_right fun hr' => ?_
      rw [hheld r' (hne r' hr'), hclaim r' (hne r' hr')]
    rw [k.ports, h.ports]
    refine PerPort.ext_get fun q => ?_
    rw [PerPort.get_mapIdx, PerPort.get_mapIdx, PerPort.get_mapIdx, hg]
    have hcons : grantedOf s p (r :: R) q = (grantedOf s p [r] q || grantedOf s p R q) := by simp [grantedOf]
    rw [hcons]
    cases grantedOf s p [r] q <;> cases grantedOf s p R q <;> simp [Function.comp_def, notice_notice]

theorem handedOver_foldl {p : Port} {cause : ClaimCause} (R : List Resource) {s : State} (hR : R.Nodup)
    (hno : ∀ r ∈ R, ∀ i e, s.entry i = some e → ¬ OnResource p r e) (hr : RoomFor (2 * R.length) s) :
    HandedOver s (R.foldl (handOverIfHeld p cause) s) p cause R := by
  induction R generalizing s with
  | nil =>
    refine ⟨by simp [storing_nil], fun k => by simp, PerPort.ext_get fun q => ?_, fun b _ => by cases b <;> rfl⟩
    simp [grantedOf]
  | cons r R ih =>
    obtain ⟨hrR, hR⟩ := List.nodup_cons.mp hR
    have hone := handedOver_one cause (hno r List.mem_cons_self) (hr.mono (by simp))
    generalize ht : handOverIfHeld p cause s r = t at hone
    have hsch : t.schedule = s.schedule := hone.rest .schedule (by decide)
    have hroom : RoomFor (2 * R.length) t := by
      refine RoomFor.storing (s := s) (t := s.time.partTime) (q := quality s) (l := heldRecords s p cause r) (hr.mono ?_)
        (hone.rest .rstn (by decide)) (by rw [hone.journal, List.flatMap_singleton])
      have := heldRecords_length s p cause r
      simp only [List.length_cons]
      omega
    rw [List.foldl_cons, ht]
    exact hone.cons hrR ht.symm (ih hR (fun q hq i e he => hno q (List.mem_cons_of_mem r hq) i e (entry_congr hsch i ▸ he)) hroom)

end Sys2Proof.Machine
end

section
/-! SUPPORT. The lapse of a session (O51). -/

set_option Elab.async false

namespace Sys2Proof.Machine

/-! ### The forced STOP -/

/-- The permit unit once a lapse has forced an elector's vote to STOP (R141). -/
def forcedPermit (pm : Permit) (p : Port) (time : Nat) : Permit :=
  if (pm.electors.get p).isSome = true then
    permitAfter { pm with electors := pm.electors.set p (some { vote := .stop, forced := true }) } time (.vote p .stop)
  else pm

theorem permit_forceStop (p : Port) (s : State) : (forceStop p s).permit = forcedPermit s.permit p s.time.partTime := by
  unfold forceStop forcedPermit
  cases h : s.permit.electors.get p with
  | none => rfl
  | some e => exact setElector_permit p (some { vote := .stop, forced := true }) (.vote p .stop) none s

theorem loose_forceStop (p : Port) (s : State) : LooseMoves s (forceStop p s) := by
  unfold forceStop
  split
  · exact .refl
  · exact loose_setElector _ _ _ _ s

/-- A forced STOP that changes the permit state stops it (R146, R150). -/
theorem forcedPermit_stops {pm : Permit} {p : Port} {time : Nat} (h : (forcedPermit pm p time).state ≠ pm.state) :
    (forcedPermit pm p time).state = .stopped := by
  unfold forcedPermit at h ⊢
  split
  · next he =>
    rw [if_pos he, permitAfter_state] at h
    rw [permitAfter_state]
    have hf : formAggregate { pm with electors := pm.electors.set p (some { vote := .stop, forced := true }) } = .stop :=
      formAggregate_stop_of_elector (p := p) (e := { vote := .stop, forced := true }) (by rw [PerPort.get_set, if_pos rfl]) rfl
    rw [hf] at h ⊢
    split
    · next ha =>
      rw [if_pos ha] at h
      exact absurd rfl h
    · dsimp only
      cases pm.state <;> rfl
  · next he =>
    rw [if_neg he] at h
    exact absurd rfl h

theorem forceStop_eq {p : Port} {s : State} {L : List (Fin 64)} (hL : Listed s (fun e => onGatedLine s e = true) admittedBefore L)
    (hr : RoomFor (1 + L.length) s) :
    forceStop p s = permitChanged s (forcedPermit s.permit p s.time.partTime) (.vote p .stop) none L := by
  have hstops := forcedPermit_stops (pm := s.permit) (p := p) (time := s.time.partTime)
  unfold forceStop
  unfold forcedPermit at hstops ⊢
  cases he : s.permit.electors.get p with
  | none =>
    rw [if_neg (by simp)]
    exact (permitChanged_same _ _ _ rfl).symm
  | some e =>
    rw [he] at hstops
    simp only [Option.isSome_some, if_true] at hstops ⊢
    by_cases hs : (permitAfter { s.permit with electors := s.permit.electors.set p (some { vote := .stop, forced := true }) } s.time.partTime
        (.vote p .stop)).state = s.permit.state
    · rw [permitChanged_same _ _ _ hs]
      exact takeAggregate_same (a := { s.permit with electors := s.permit.electors.set p (some { vote := .stop, forced := true }) }) hs rfl
    · obtain ⟨h1, h2, hreached⟩ := reached_permitAfter (s := s) (cause := .vote p .stop)
        (a := { s.permit with electors := s.permit.electors.set p (some { vote := .stop, forced := true }) }) rfl hs
      rw [← changePermit_stopped hreached (hstops hs) hL hr, h2]
      have hne : nextPermitState s.permit.state
          (formAggregate { s.permit with electors := s.permit.electors.set p (some { vote := .stop, forced := true }) }) s.permit.startDelay
          ≠ s.permit.state := by
        rw [h2] at hs
        exact hs
      unfold setElector takeAggregate
      simp only [State.setPermit_permit, h1, if_false, hne]
      rfl

/-- What a forced STOP leaves, where the journal has room (R99, R111, R141). -/
structure ForcedStop (s t : State) (pm : Permit) (cause : PermitCause) (L : List (Fin 64)) : Prop where
  journal  : t.journal = s.journal.storing s.time.partTime (quality s)
    (if pm.state ≠ s.permit.state then (.part, .permit s.permit.state pm.state cause) :: cancelRecords s .permitStop L else [])
  sessions : ∀ q, t.session q = (s.session q).map fun z => if pm.state ≠ s.permit.state then z.notice 0x04#8 else z
  entries  : ∀ i, t.entry i = (s.entry i).bind fun e => if pm.state ≠ s.permit.state ∧ onGatedLine s e = true then none else some e
  levels   : ∀ k, (t.out k).commanded
    = if pm.state ≠ s.permit.state ∧ (s.out k).gated = true then (s.out k).safe else (s.out k).commanded
  rest     : Unchanged [.journal, .schedule, .outs, .permit, .ports] s t

theorem permitChanged_forced {s : State} {pm : Permit} (h : pm.state ≠ s.permit.state → pm.state = .stopped) (cause : PermitCause)
    (L : List (Fin 64)) : ForcedStop s (permitChanged s pm cause none L) pm cause L := by
  by_cases hs : pm.state = s.permit.state
  · rw [permitChanged_same _ _ _ hs]
    refine ⟨?_, fun q => ?_, fun i => ?_, fun k => ?_, fun b hb => ?_⟩
    · simp [hs, storing_nil]
    · simp only [hs, ne_eq, not_true_eq_false, if_false, Option.map_id']
      rfl
    · simp only [hs, ne_eq, not_true_eq_false, false_and, if_false]
      exact (Option.bind_fun_some (s.entry i)).symm
    · simp only [hs, ne_eq, not_true_eq_false, false_and, if_false]
      rfl
    · cases b <;> first | rfl | exact absurd (by decide) hb
  · have hnew := h hs
    rw [permitChanged_stopped _ _ _ hnew (by rw [← hnew]; exact Ne.symm hs)]
    refine ⟨?_, fun q => ?_, fun i => ?_, fun k => ?_, fun b hb => ?_⟩
    · rw [if_pos hs]
      rfl
    · simp only [ne_eq, hs, not_false_eq_true, if_true]
      exact session_permitNoticed _ q
    · simp only [ne_eq, hs, not_false_eq_true, true_and]
      exact entry_mapEntries ((s.permitted pm _).gatedLines _) _ i
    · simp only [ne_eq, hs, not_false_eq_true, true_and]
      have ho := out_gatedLines (s.permitted pm (permitRecord s pm cause :: cancelRecords s .permitStop L))
        (fun o => { o with commanded := o.safe, driven := o.safe, pulse := none }) k
      refine (congrArg OutLine.commanded ho).trans ?_
      show OutLine.commanded (if (s.out k).gated = true then _ else _) = _
      split <;> rfl
    · cases b <;> first | rfl | exact absurd (by decide) hb

/-! ### The five steps of a lapse -/

/-- The first step of a lapse: the session is LAPSED, and the LIVENESS record is offered (R189). -/
def lapseBegun (p : Port) (s : State) : State := offer (.master p) .lapsed (s.modSession p Session.lapsed)

/-- The first four steps of a lapse (R189). -/
def lapseTaken (p : Port) (s : State) : State :=
  [Resource.time, .config].foldl (handOverIfHeld p .lapse) (leaveWaitLists p (forceStop p (lapseBegun p s)))

theorem lapseSession_steps (p : Port) (s : State) : lapseSession p s = reexamine ((lapseTaken p s).modSession p Session.demoted) := rfl

section
variable (p : Port) (s : State)

theorem kept_lapseBegun : Kept offerBlocks s (lapseBegun p s) := 
  Kept.after (kept_offer _ _ _) (Kept.after (kept_modSession s p _) (.refl _ _))

theorem kept_waiting : Kept sessionBlocks s (leaveWaitLists p (forceStop p (lapseBegun p s))) :=
  Kept.after (kept_leaveWaitLists p _) <| Kept.after (kept_forceStop p _) <| Kept.after (kept_lapseBegun p s) (.refl _ _)

theorem terms_lapseTaken : SameTerms (s.modSession p Session.lapsed) (lapseTaken p s) :=
  ((((terms_offer (.master p) .lapsed (s.modSession p Session.lapsed)).trans (terms_looseMoves (loose_forceStop p (lapseBegun p s)))).trans
    (.of_ports (t := leaveWaitLists p (forceStop p (lapseBegun p s))) rfl)).trans (terms_handOverIfHeld p .lapse _ .time)).trans
      (terms_handOverIfHeld p .lapse _ .config)

theorem permit_lapseTaken : (lapseTaken p s).permit = forcedPermit s.permit p s.time.partTime := by
  have hb := (kept_lapseBegun p s).unchanged
  have h1 : (lapseTaken p s).permit = (leaveWaitLists p (forceStop p (lapseBegun p s))).permit :=
    (Kept.foldl (kept_handOverIfHeld p .lapse) [.time, .config] _).unchanged .permit (by decide)
  rw [h1]
  refine (permit_forceStop p (lapseBegun p s)).trans ?_
  rw [show (lapseBegun p s).permit = s.permit from hb .permit (by decide), show (lapseBegun p s).time = s.time from hb .time (by decide)]

theorem claimOf_waiting (r : Resource) :
    (leaveWaitLists p (forceStop p (lapseBegun p s))).claimOf r
      = { holder := (s.claimOf r).holder, waiters := (s.claimOf r).waiters.filter (· ≠ p) } := by
  have hc : (forceStop p (lapseBegun p s)).claims = s.claims :=
    ((kept_forceStop p (lapseBegun p s)).unchanged .claims (by decide)).trans ((kept_lapseBegun p s).unchanged .claims (by decide))
  rw [claimOf_leaveWaitLists, claimOf_of_claims hc]

theorem holds_waiting (r : Resource) : (leaveWaitLists p (forceStop p (lapseBegun p s))).holds p r = s.holds p r :=
  holds_of_claimOf (by rw [claimOf_waiting]) p

theorem claimOf_lapseTaken (r : Resource) :
    (lapseTaken p s).claimOf r
      = if (r = .time ∨ r = .config) ∧ s.holds p r = true then
          { holder := ((s.claimOf r).waiters.filter (· ≠ p)).head?, waiters := ((s.claimOf r).waiters.filter (· ≠ p)).tail }
        else { holder := (s.claimOf r).holder, waiters := (s.claimOf r).waiters.filter (· ≠ p) } := by
  unfold lapseTaken
  rw [claimOf_handOvers p .lapse _ _ (by decide), holds_waiting, claimOf_waiting]
  simp only [List.mem_cons, List.not_mem_nil, or_false]
  rfl

end

/-- The four steps, where the journal has room (R189). -/
structure Lapsed (s t : State) (p : Port) (pm : Permit) (L : List (Fin 64)) : Prop where
  journal    : t.journal = s.journal.storing s.time.partTime (quality s)
    ([(.master p, .lapsed)]
      ++ (if pm.state ≠ s.permit.state then (.part, .permit s.permit.state pm.state (.vote p .stop)) :: cancelRecords s .permitStop L else [])
      ++ handOverRecords s p .lapse .time ++ handOverRecords s p .lapse .config)
  sessions   : ∀ q, t.session q = (s.session q).map fun z =>
    let z := if q = p then z.lapsed else z
    let z := if pm.state ≠ s.permit.state then z.notice 0x04#8 else z
    if (s.holds p .time = true ∧ ((s.claimOf .time).waiters.filter (· ≠ p)).head? = some q)
        ∨ (s.holds p .config = true ∧ ((s.claimOf .config).waiters.filter (· ≠ p)).head? = some q) then z.notice 0x02#8
    else z
  entries    : ∀ i, t.entry i = (s.entry i).bind fun e => if pm.state ≠ s.permit.state ∧ onGatedLine s e = true then none else some e
  levels     : ∀ k, (t.out k).commanded
    = if pm.state ≠ s.permit.state ∧ (s.out k).gated = true then (s.out k).safe else (s.out k).commanded
  conditions : t.conditions = s.conditions

theorem handOverRecords_eq {s : State} {p : Port} {cause : ClaimCause} {r : Resource} :
    handOverRecords s p cause r
      = if s.holds p r = true then (.master p, .claimReleased r cause) :: grantRecords r ((s.claimOf r).waiters.filter (· ≠ p)) else [] := by
  unfold handOverRecords grantRecords
  cases ((s.claimOf r).waiters.filter (· ≠ p)).head? <;> rfl

theorem heldRecords_waiting (p : Port) (s : State) (cause : ClaimCause) (r : Resource) :
    heldRecords (leaveWaitLists p (forceStop p (lapseBegun p s))) p cause r = handOverRecords s p cause r := by
  unfold heldRecords
  rw [holds_waiting, claimOf_waiting, handOverRecords_eq]

theorem lapsed_of_room {p : Port} {s : State} {L : List (Fin 64)} (hL : Listed s (fun e => onGatedLine s e = true) admittedBefore L)
    (hr : RoomFor (6 + L.length) s) : Lapsed s (lapseTaken p s) p (forcedPermit s.permit p s.time.partTime) L := by
  have hb : lapseBegun p s = { s.modSession p Session.lapsed with
      journal := s.journal.storing s.time.partTime (quality s) [(.master p, .lapsed)] } :=
    offer_eq_storing (s := s.modSession p Session.lapsed) ((hr.mono (by omega)).congr rfl rfl) _ _
  have hbp : (lapseBegun p s).permit = s.permit := by rw [hb]; rfl
  have hbt : (lapseBegun p s).time = s.time := by rw [hb]; rfl
  have hroomb : RoomFor (5 + L.length) (lapseBegun p s) := RoomFor.storing (s := s) (t := s.time.partTime) (q := quality s)
    (l := [(.master p, .lapsed)]) (hr.mono (by rw [List.length_singleton]; omega)) (by rw [hb]; rfl) (by rw [hb])
  have hbsession : ∀ q, (lapseBegun p s).session q = (s.session q).map fun z => if q = p then z.lapsed else z := fun q => by
    have h : (lapseBegun p s).session q = (s.modSession p Session.lapsed).session q := by rw [hb]; rfl
    rw [h, session_modSession]
    split <;> rfl
  have hLb : Listed (lapseBegun p s) (fun e => onGatedLine (lapseBegun p s) e = true) admittedBefore L := by rw [hb]; exact hL
  have hc := permitChanged_forced (s := lapseBegun p s) (pm := forcedPermit s.permit p s.time.partTime)
    (by rw [hbp]; exact forcedPermit_stops) (.vote p .stop) L
  have hce := forceStop_eq (p := p) hLb (hroomb.mono (by omega))
  rw [hbp, hbt] at hce
  rw [← hce] at hc
  generalize hm : forcedPermit s.permit p s.time.partTime = pm at hc
  have hoccb : ∀ i ∈ L, ((lapseBegun p s).entry i).isSome = true := fun i hi => by
    obtain ⟨e, he, _⟩ := (hLb.1 i).mp hi
    exact Option.isSome_iff_exists.mpr ⟨e, he⟩
  have hroomc : RoomFor 4 (forceStop p (lapseBegun p s)) := by
    refine RoomFor.storing (s := lapseBegun p s) (hroomb.mono ?_) (hc.rest .rstn (by decide)) hc.journal
    split
    · rw [List.length_cons, cancelRecords_length hoccb]
      omega
    · rw [List.length_nil]
      omega
  have hh := handedOver_foldl (p := p) (cause := .lapse) [.time, .config] (s := leaveWaitLists p (forceStop p (lapseBegun p s))) (by decide)
    (fun r hr i e _ => not_onResource (fun k => by rintro rfl; simp at hr) e) (hroomc.congr rfl rfl)
  have hctime : (forceStop p (lapseBegun p s)).time = s.time := (hc.rest .time (by decide)).trans hbt
  have hcond : (lapseTaken p s).conditions = s.conditions :=
    ((hh.rest .conditions (by decide)).trans (hc.rest .conditions (by decide))).trans (by rw [hb]; rfl)
  refine ⟨?_, fun q => ?_, fun i => ?_, fun k => ?_, hcond⟩
  · have hq : quality (leaveWaitLists p (forceStop p (lapseBegun p s))) = quality s := by
      unfold quality
      rw [show (leaveWaitLists p (forceStop p (lapseBegun p s))).time = s.time from hctime]
    have hbq : quality (lapseBegun p s) = quality s := by unfold quality; rw [hbt]
    have hj := hh.journal
    rw [show (leaveWaitLists p (forceStop p (lapseBegun p s))).journal = _ from hc.journal,
      show (leaveWaitLists p (forceStop p (lapseBegun p s))).time.partTime = s.time.partTime from congrArg Timebase.partTime hctime, hq, hbt, hbq,
      show (lapseBegun p s).journal = _ from congrArg State.journal hb, hbp] at hj
    refine hj.trans ?_
    rw [storing_storing, storing_storing, List.flatMap_cons, List.flatMap_cons, List.flatMap_nil, List.append_nil, heldRecords_waiting,
      heldRecords_waiting, cancelRecords_congr (s := s) (t := lapseBegun p s) (fun i _ => by rw [hb]; rfl) (fun i => by rw [hb]; rfl),
      List.append_assoc, List.append_assoc]
  · have hp : (lapseTaken p s).session q
        = ((leaveWaitLists p (forceStop p (lapseBegun p s))).session q).map fun z =>
            if grantedOf (leaveWaitLists p (forceStop p (lapseBegun p s))) p [.time, .config] q then z.notice noticeGrant else z := by
      have h := congrArg (fun x : PerPort PortState => (x.get q).session) hh.ports
      rw [PerPort.get_mapIdx] at h
      refine h.trans ?_
      split
      · rfl
      · simp
        rfl
    have hg : grantedOf (leaveWaitLists p (forceStop p (lapseBegun p s))) p [.time, .config] q = true
        ↔ (s.holds p .time = true ∧ ((s.claimOf .time).waiters.filter (· ≠ p)).head? = some q)
          ∨ (s.holds p .config = true ∧ ((s.claimOf .config).waiters.filter (· ≠ p)).head? = some q) := by
      unfold grantedOf
      simp only [List.any_cons, List.any_nil, Bool.or_false, Bool.or_eq_true, Bool.and_eq_true, beq_iff_eq, holds_waiting, claimOf_waiting]
    rw [hp, show (leaveWaitLists p (forceStop p (lapseBegun p s))).session q = _ from hc.sessions q, hbsession, hbp, Option.map_map, Option.map_map]
    simp only [hg]
    rfl
  · have h1 : (lapseTaken p s).entry i = (forceStop p (lapseBegun p s)).entry i :=
      entry_congr (hh.rest .schedule (by decide)) i
    rw [h1, hc.entries, hbp, hb]
    rfl
  · have h1 : (lapseTaken p s).out k = (forceStop p (lapseBegun p s)).out k := by
      refine (hh.outs k).trans (if_neg ?_)
      simp
    rw [h1, hc.levels, hbp, hb]
    rfl

/-! ### The event -/

theorem setSession_setSession (s : State) (p : Port) (x y : Option Session) : (s.setSession p x).setSession p y = s.setSession p y := by
  unfold State.setSession
  rw [port_setPort_same, setPort_setPort]

/-- The reader is demoted last, beside what attention has been raised (R69). -/
theorem demoted_noticed (x : Session) (a b : Prop) [Decidable a] [Decidable b] :
    (let z := if a then x.lapsed.notice 0x04#8 else x.lapsed
     if b then z.notice 0x02#8 else z).demoted
      = (let z := if a then x.lapsed.demoted.notice 0x04#8 else x.lapsed.demoted
         if b then z.notice 0x02#8 else z) := by
  dsimp only
  split <;> split <;> rfl

theorem terms_demoted {z w : Session} (h : z.terms = w.terms) : z.demoted.terms = w.demoted.terms := by
  unfold Session.terms at h ⊢
  unfold Session.demoted
  simp only [Prod.mk.injEq] at h ⊢
  obtain ⟨h1, h2, h3, h4, h5, _⟩ := h
  exact ⟨h1, h2, h3, h4, h5, trivial⟩

/-- Settles O51. -/
theorem lapseTakesTheSay : Obligations.LapseTakesTheSay := by
  unfold Obligations.LapseTakesTheSay
  intro s p x hd hx hlive hzero
  have hrow : exec (.lapse p) s = .next (conclude (deadlineExpires p (s.without (.lapse p)))) := exec_tickRow_due hd
  have hexp : deadlineExpires p (s.without (.lapse p)) = lapseSession p (s.without (.lapse p)) := by
    unfold deadlineExpires
    rw [show (s.without (.lapse p)).session p = some x from hx]
    exact if_pos ⟨hlive, hzero⟩
  rw [hexp] at hrow
  generalize hs0 : s.without (.lapse p) = s0 at hrow
  have hx0 : s0.session p = some x := by rw [← hs0]; exact hx
  intro elector pm demoted granted
  have hpm : forcedPermit s0.permit p s0.time.partTime = pm := by rw [← hs0]; rfl
  have hterms := terms_lapseTaken p s0 p
  rw [session_modSession, if_pos rfl, hx0] at hterms
  obtain ⟨z, hz, hzt⟩ := Option.map_eq_some_iff.mp hterms
  have hfinal : SameTerms ((lapseTaken p s0).modSession p Session.demoted) (conclude (lapseSession p s0)) := by
    rw [lapseSession_steps]
    exact (terms_reexamine _).trans fun q => by rw [conclude_session]
  have hfinal := hfinal p
  rw [session_modSession, if_pos rfl, hz] at hfinal
  obtain ⟨y, hy, hyt⟩ := Option.map_eq_some_iff.mp hfinal
  have hyx := hyt.trans (terms_demoted hzt)
  simp only [Session.terms, Session.demoted, Session.lapsed, Prod.mk.injEq] at hyx
  obtain ⟨y1, y2, y3, y4, y5, y6⟩ := hyx
  have hkept : Kept [.journal, .schedule, .outs, .claims, .permit, .conditions, .ports, .tickWork] s (conclude (lapseSession p s0)) :=
    Kept.after (kept_conclude _) <| Kept.after (kept_lapseSession p s0) <| Kept.after (hs0 ▸ kept_without s (.lapse p)) (.refl _ _)
  have hclaims : ∀ r, (conclude (lapseSession p s0)).claimOf r
      = if (r = .time ∨ r = .config) ∧ s.holds p r = true then
          { holder := ((s.claimOf r).waiters.filter (· ≠ p)).head?, waiters := ((s.claimOf r).waiters.filter (· ≠ p)).tail }
        else { holder := (s.claimOf r).holder, waiters := (s.claimOf r).waiters.filter (· ≠ p) } := fun r => by
    have h1 : (conclude (lapseSession p s0)).claims = (lapseTaken p s0).claims := by
      rw [conclude_claims, lapseSession_steps]
      exact (kept_reexamine _).unchanged .claims (by decide)
    have h2 := (claimOf_of_claims h1 r).trans (claimOf_lapseTaken p s0 r)
    subst hs0
    exact h2
  have hnot : ∀ r, p ∉ (s.claimOf r).waiters.filter (· ≠ p) := fun r => by simp
  refine ⟨conclude (lapseSession p s0), y, hrow, hy, y1, y2, y6, y3, y4, y5, ?_, fun r => ?_, fun r h1 h2 => ?_, fun r h => ?_, hkept.links, hkept.unchanged,
    fun L hL hroom => ?_, fun hno hholds hst hrst hw => ?_⟩
  · rw [conclude_permit, lapseSession_steps, (kept_reexamine _).unchanged .permit (by decide)]
    exact (permit_lapseTaken p s0).trans hpm
  · rw [hclaims]
    split
    · exact fun h => hnot r (List.mem_of_mem_tail h)
    · exact hnot r
  · exact (hclaims r).trans (if_neg fun h => h.1.elim h1 h2)
  · intro waiters
    rw [hclaims]
    by_cases hh : s.holds p r = true
    · rw [if_pos ⟨h, hh⟩, if_pos hh]
    · rw [if_neg fun h => hh h.2, if_neg hh]
  · have hl : Lapsed s0 (lapseTaken p s0) p pm L := by
      rw [← hpm]
      subst hs0
      exact lapsed_of_room (s := s.without (.lapse p)) hL (hroom.congr rfl rfl)
    have hacc : (lapseTaken p s0).journal.state = .accepting := by
      rw [hl.journal]
      subst hs0
      exact hroom.accepting
    have hend : lapseSession p s0 = (lapseTaken p s0).modSession p Session.demoted := by
      rw [lapseSession_steps]
      unfold reexamine
      rw [State.modSession_journal, hacc]
    rw [hend]
    intro stops
    refine ⟨?_, fun q => ?_, fun i => ?_, fun k => ?_, ?_⟩
    · unfold Stored
      rw [conclude_journal, State.modSession_journal, hl.journal]
      subst hs0
      rfl
    · rw [conclude_session, session_modSession, hl.sessions, Option.map_map]
      subst hs0
      by_cases hq : q = p
      · subst hq
        rw [if_pos rfl, hx, hx0]
        simp only [if_true, Option.map_some, Function.comp]
        refine congrArg some ?_
        exact demoted_noticed x _ _
      · simp only [hq, if_false]
        rfl
    · rw [entry_congr (conclude_schedule _)]
      subst hs0
      exact hl.entries i
    · obtain ⟨v, hv⟩ := conclude_out ((lapseTaken p s0).modSession p Session.demoted) k
      rw [hv]
      subst hs0
      exact hl.levels k
    · rw [conclude_conditions, State.modSession_conditions, hl.conditions]
      subst hs0
      rfl
  · intro u
    have hbegun : lapseBegun p s0 = withhold (s0.modSession p Session.lapsed) :=
      offer_of_withholding (s := s0.modSession p Session.lapsed) (by subst hs0; exact hrst) (by subst hs0; exact hst) _ _
    have hforce : forceStop p (lapseBegun p s0) = lapseBegun p s0 := by
      have hn : (lapseBegun p s0).permit.electors.get p = none := by
        rw [hbegun]
        subst hs0
        exact Option.not_isSome_iff_eq_none.mp hno
      unfold forceStop
      rw [hn]
    have hplain : ∀ r, handOverIfHeld p .lapse (leaveWaitLists p (forceStop p (lapseBegun p s0))) r
        = leaveWaitLists p (forceStop p (lapseBegun p s0)) := fun r => by
      unfold handOverIfHeld
      rw [if_neg]
      rw [holds_waiting]
      subst hs0
      rw [show (s.without (.lapse p)).holds p r = s.holds p r from rfl, hholds r]
      simp
    have hend : (lapseTaken p s0).modSession p Session.demoted = u.setSession p (some demoted) := by
      unfold lapseTaken
      rw [List.foldl_cons, List.foldl_cons, List.foldl_nil, hplain, hplain, hforce, hbegun]
      have hses : (leaveWaitLists p (withhold (s0.modSession p Session.lapsed))).session p = some x.lapsed := by
        show (s0.modSession p Session.lapsed).session p = _
        rw [session_modSession, if_pos rfl, hx0]
        rfl
      have hcount : withhold (s0.modSession p Session.lapsed)
          = (s0.modSession p Session.lapsed).setJournal { s.journal with withheld := s.journal.withheld + 1 } := by
        have h : satSucc s.journal.withheld = s.journal.withheld + 1 := satSucc_of_lt hw
        rw [← h]
        subst hs0
        rfl
      have hmod : ∀ v : State, v.session p = some x.lapsed → v.modSession p Session.demoted = v.setSession p (some demoted) := fun v hv => by
        unfold State.modSession
        rw [hv]
        rfl
      rw [hmod _ hses, hcount]
      subst hs0
      exact setSession_setSession u p _ _
    rw [lapseSession_steps, hend]

end Sys2Proof.Machine
end

section
/-! SUPPORT. The close of a session (O11). -/

set_option Elab.async false

namespace Sys2Proof.Machine

/-! ### A list of claims written -/

theorem claimOf_setClaims (f : Resource → ClaimRecord) (q : Resource) :
    ∀ (R : List Resource) (s : State), (R.foldl (fun u r => u.setClaim r (f r)) s).claimOf q = if q ∈ R then f q else s.claimOf q
  | [], s => by simp
  | r :: R, s => by
    rw [List.foldl_cons, claimOf_setClaims f q R, claimOf_setClaim]
    by_cases h1 : q ∈ R <;> by_cases h2 : q = r <;> simp [h1, h2]

/-- Claims written one after another are one change of the claims. -/
theorem setClaims_eq (f : Resource → ClaimRecord) : ∀ (R : List Resource) (s : State),
    R.foldl (fun u r => u.setClaim r (f r)) s = { s with claims := (R.foldl (fun u r => u.setClaim r (f r)) s).claims }
  | [], _ => rfl
  | r :: R, s => setClaims_eq f R (s.setClaim r (f r))

theorem mem_allResources (r : Resource) : r ∈ allResources := by
  cases r <;> simp [allResources]

theorem allResources_nodup : allResources.Nodup := by decide

/-! ### The first two steps of a close -/

section
variable (s : State) (p : Port) (L : List (Fin 64))

/-- The claims that the second step of a close leaves (R130). -/
def claimClosed (r : Resource) : ClaimRecord :=
  if s.holds p r = true then
    { holder := ((s.claimOf r).waiters.filter (· ≠ p)).head?, waiters := ((s.claimOf r).waiters.filter (· ≠ p)).tail }
  else { holder := (s.claimOf r).holder, waiters := (s.claimOf r).waiters.filter (· ≠ p) }

/-- What the first two steps leave but for the claims. -/
def closeHanded : State :=
  State.mapEntries
    { s with
      journal := s.journal.storing s.time.partTime (quality s)
        (cancelRecords s .closed L ++ allResources.flatMap (handOverRecords s p .close))
      outs := Vector.ofFn fun k =>
        if s.holds p (.out k) = true then (handedBy s L k).released s.permit.state else handedBy s L k
      ports := s.ports.mapIdx fun q x =>
        if allResources.any fun r => s.holds p r && ((s.claimOf r).waiters.filter (· ≠ p)).head? == some q then
          { x with session := x.session.map (Session.notice noticeGrant) }
        else x }
    fun e => if e.owner = p then none else some e

theorem closeReleased_eq :
    closeReleased s p L
      = { closeHanded s p L with claims := (allResources.foldl (fun u r => u.setClaim r (claimClosed s p r)) (closeHanded s p L)).claims } := by
  have h : closeReleased s p L = allResources.foldl (fun u r => u.setClaim r (claimClosed s p r)) (closeHanded s p L) := by
    have hh : ∀ k, handedBy s L k = L.foldl (init := s.out k) fun o i =>
        match s.entry i with
        | some e => if e.line = some k then pulseEnded e o else o
        | none => o := fun k => by
      unfold handedBy
      refine List.foldl_ext _ _ _ fun o i _ => ?_
      cases s.entry i <;> rfl
    unfold closeReleased closeHanded
    simp only [hh]
    rfl
  rw [h]
  exact setClaims_eq _ _ _

theorem claimOf_closeReleased (r : Resource) : (closeReleased s p L).claimOf r = claimClosed s p r := by
  have h := claimOf_setClaims (claimClosed s p) r allResources (closeHanded s p L)
  rw [if_pos (mem_allResources r)] at h
  rw [closeReleased_eq]
  generalize allResources.foldl (fun u r => u.setClaim r (claimClosed s p r)) (closeHanded s p L) = u at h ⊢
  exact h

end

/-- The first two steps of a close, where the journal has room (R103, R130, R186). -/
theorem closeReleased_of_room {s : State} {p : Port} {L : List (Fin 64)} (hL : Listed s (fun e => e.owner = p) admittedBefore L)
    (hr : RoomFor (20 + L.length) s) :
    allResources.foldl (handOverIfHeld p .close) (leaveWaitLists p (cancelWhere .closed (fun e => e.owner == p) s)) = closeReleased s p L := by
  have hocc : ∀ i ∈ L, (s.entry i).isSome = true := fun i hi => by
    obtain ⟨e, he, _⟩ := (hL.1 i).mp hi
    exact Option.isSome_iff_exists.mpr ⟨e, he⟩
  have hcancel : cancelWhere .closed (fun e => e.owner == p) s = s.cancelled .closed L := by
    rw [cancelWhere, hL.byAdmission (fun e => by simp)]
    exact cancel_foldl hL.nodup_admission hocc (hr.mono (by omega))
  have hslots : (s.emptied L).schedule = (s.mapEntries fun e => if e.owner = p then none else some e).schedule := by
    have h := emptied_eq_mapEntries (s := s) (L := L) (t := fun e => e.owner == p) fun i => (hL.1 i).trans (by simp)
    simpa using h
  rw [hcancel]
  generalize hb : leaveWaitLists p (s.cancelled .closed L) = b
  have hclaim : ∀ r, b.claimOf r = { holder := (s.claimOf r).holder, waiters := (s.claimOf r).waiters.filter (· ≠ p) } := fun r => by
    rw [← hb, claimOf_leaveWaitLists]
    rfl
  have hheld : ∀ r, b.holds p r = s.holds p r := fun r => holds_of_claimOf (by rw [hclaim]) p
  have hentry : ∀ i e, b.entry i = some e → e.owner ≠ p := fun i e he ho => by
    have h1 : b.entry i = (s.emptied L).entry i := by rw [← hb]; rfl
    rw [h1, entry_congr hslots, entry_mapEntries] at he
    obtain ⟨e', he', hif⟩ := Option.bind_eq_some_iff.mp he
    by_cases hp : e'.owner = p
    · rw [if_pos hp] at hif
      exact absurd hif (by simp)
    · rw [if_neg hp] at hif
      cases hif
      exact hp ho
  have hroomb : RoomFor (2 * allResources.length) b := by
    refine RoomFor.storing (s := s) (t := s.time.partTime) (q := quality s) (l := cancelRecords s .closed L) ?_ (by rw [← hb]; rfl)
      (by rw [← hb]; rfl)
    rw [cancelRecords_length hocc]
    exact hr
  have hh := handedOver_foldl (p := p) (cause := .close) allResources (s := b) allResources_nodup
    (fun r _ i e he ⟨_, _, ho, _⟩ => hentry i e he ho) hroomb
  have hc := claimOf_handOvers p .close allResources b allResources_nodup
  generalize allResources.foldl (handOverIfHeld p .close) b = u at hh hc
  have hrecords : allResources.flatMap (heldRecords b p .close) = allResources.flatMap (handOverRecords s p .close) :=
    List.flatMap_congr fun r _ => by
      rw [handOverRecords_eq]
      unfold heldRecords
      rw [hheld, hclaim]
  have hout : ∀ k, b.out k = handedBy s L k := fun k => by
    rw [← hb]
    show (Vector.ofFn (handedBy s L))[k] = _
    simp
  have hperm : b.permit = s.permit := by rw [← hb]; rfl
  refine state_ext fun blk _ => ?_
  by_cases hblk : blk ∈ [Block.journal, .outs, .claims, .ports, .schedule]
  · simp only [List.mem_cons, List.not_mem_nil, or_false] at hblk
    rcases hblk with rfl | rfl | rfl | rfl | rfl
    · show u.journal = (closeReleased s p L).journal
      rw [hh.journal, hrecords, closeReleased_eq, ← hb]
      exact storing_storing _ _ _ _ _
    · show u.outs = (closeReleased s p L).outs
      refine outs_eq fun k => ?_
      rw [hh.outs, closeReleased_eq]
      simp only [mem_allResources, true_and, hheld, hout, hperm]
      show _ = (Vector.ofFn _)[k]
      simp
    · show u.claims = (closeReleased s p L).claims
      refine claims_ext fun r => ?_
      rw [hc, claimOf_closeReleased]
      simp only [mem_allResources, true_and, hheld, hclaim]
      rfl
    · show u.ports = (closeReleased s p L).ports
      rw [hh.ports, closeReleased_eq]
      unfold grantedOf
      simp only [hheld, hclaim]
      rw [← hb]
      rfl
    · show u.schedule = (closeReleased s p L).schedule
      rw [hh.rest .schedule (by decide), closeReleased_eq, ← hb]
      exact hslots
  · have h1 : blk.same b u := hh.rest blk fun h => hblk (by
      simp only [List.mem_cons, List.not_mem_nil, or_false] at h ⊢
      tauto)
    rw [closeReleased_eq]
    subst hb
    cases blk <;> first | exact absurd (by decide) hblk | exact h1.symm | exact h1

end Sys2Proof.Machine
end

section
/-! SUPPORT. A close beside the links of the ports, with and without room in the journal (O11). -/

set_option Elab.async false

namespace Sys2Proof.Machine

/-! ### The first two steps beside the links -/

theorem closeHanded_linked {g : PerPort PortState → PerPort PortState} (hg : Blind g) (s : State) (p : Port) (L : List (Fin 64)) :
    closeHanded (s.linked g) p L = (closeHanded s p L).linked g := by
  have hm : ∀ x : PerPort PortState, (x.mapIdx fun q (y : PortState) =>
      if allResources.any fun r => s.holds p r && ((s.claimOf r).waiters.filter (· ≠ p)).head? == some q then
        { y with session := y.session.map (Session.notice noticeGrant) }
      else y)
      = x.mapIdx fun q y => { y with
          session := y.session.map (if allResources.any fun r => s.holds p r && ((s.claimOf r).waiters.filter (· ≠ p)).head? == some q then
            Session.notice noticeGrant else id) } := fun x => by
    refine PerPort.ext_get fun q => ?_
    rw [PerPort.get_mapIdx, PerPort.get_mapIdx]
    split
    · rfl
    · rw [Option.map_id_fun, id]
  have hports : (closeHanded (s.linked g) p L).ports = ((closeHanded s p L).linked g).ports := by
    refine (hm (g s.ports)).trans ((hg.maps _ s.ports).symm.trans (congrArg g (hm s.ports).symm))
  exact congrArg (fun x => { closeHanded s p L with ports := x }) hports

theorem closeReleased_linked {g : PerPort PortState → PerPort PortState} (hg : Blind g) (s : State) (p : Port) (L : List (Fin 64)) :
    closeReleased (s.linked g) p L = (closeReleased s p L).linked g := by
  have hc : (closeReleased (s.linked g) p L).claims = (closeReleased s p L).claims := claims_ext fun r => by
    rw [claimOf_closeReleased, claimOf_closeReleased]
    rfl
  have h1 := closeReleased_eq (s.linked g) p L
  have h2 := closeReleased_eq s p L
  have e1 : closeReleased (s.linked g) p L = { closeHanded (s.linked g) p L with claims := (closeReleased (s.linked g) p L).claims } := by
    rw [h1]
  have e2 : closeReleased s p L = { closeHanded s p L with claims := (closeReleased s p L).claims } := by rw [h2]
  rw [e1, hc, closeHanded_linked hg, e2]
  rfl

theorem closeReleased_unchanged (s : State) (p : Port) (L : List (Fin 64)) :
    Unchanged [.journal, .outs, .ports, .schedule, .claims] s (closeReleased s p L) := by
  rw [closeReleased_eq]
  intro b hb
  cases b <;> first | exact absurd (by decide) hb | rfl

theorem handOverRecords_length (s : State) (p : Port) (cause : ClaimCause) (r : Resource) : (handOverRecords s p cause r).length ≤ 2 := by
  rw [handOverRecords_eq]
  split
  · have := grantRecords_length r ((s.claimOf r).waiters.filter (· ≠ p))
    rw [List.length_cons]
    omega
  · exact Nat.zero_le 2

theorem flatMap_length_le {α β : Type} {f : α → List β} {n : Nat} (h : ∀ a, (f a).length ≤ n) : ∀ l : List α, (l.flatMap f).length ≤ n * l.length
  | [] => by simp
  | a :: l => by
    have h1 := h a
    have h2 := flatMap_length_le h l
    rw [List.flatMap_cons, List.length_append, List.length_cons, Nat.mul_succ]
    omega

theorem RoomFor.closeReleased {s : State} {p : Port} {L : List (Fin 64)} {n : Nat} (hL : Listed s (fun e => e.owner = p) admittedBefore L)
    (h : RoomFor (n + 20 + L.length) s) : RoomFor n (closeReleased s p L) := by
  have hocc : ∀ i ∈ L, (s.entry i).isSome = true := fun i hi => by
    obtain ⟨e, he, _⟩ := (hL.1 i).mp hi
    exact Option.isSome_iff_exists.mpr ⟨e, he⟩
  refine RoomFor.storing (s := s) (t := s.time.partTime) (q := quality s)
    (l := cancelRecords s .closed L ++ allResources.flatMap (handOverRecords s p .close)) (h.mono ?_)
    (closeReleased_unchanged s p L .rstn (by decide)) (by rw [closeReleased_eq]; rfl)
  have h2 := flatMap_length_le (handOverRecords_length s p .close) allResources
  have h3 : allResources.length = 10 := rfl
  rw [List.length_append, cancelRecords_length hocc]
  omega

/-! ### The change of permit -/

section
variable {s : State} {pm : Permit} (cause : PermitCause) (closing : Option Port) {L : List (Fin 64)}

theorem permitChanged_unchanged (L : List (Fin 64)) :
    Unchanged [.journal, .schedule, .outs, .permit, .conditions, .ports] s (permitChanged s pm cause closing L) := by
  have hplain : ∀ {t : State}, t.time = s.time → t.evPins = s.evPins → t.lines = s.lines → t.claims = s.claims → t.rstn = s.rstn →
      (t.tickWork, t.tickStage) = (s.tickWork, s.tickStage) → t.freeUses = s.freeUses → t.pending = s.pending →
      Unchanged [.journal, .schedule, .outs, .permit, .conditions, .ports] s t :=
    fun h1 h2 h3 h4 h5 h6 h7 h8 b hb => by
      cases b <;> first | exact absurd (by decide) hb | assumption
  by_cases hs : pm.state = s.permit.state
  · rw [permitChanged_same cause closing L hs]
    exact hplain rfl rfl rfl rfl rfl rfl rfl rfl
  · cases hnew : pm.state with
    | stopped =>
      rw [permitChanged_stopped cause closing L hnew (by rw [← hnew]; exact Ne.symm hs)]
      exact hplain rfl rfl rfl rfl rfl rfl rfl rfl
    | arming =>
      rw [permitChanged_arming cause closing L hnew (by rw [← hnew]; exact Ne.symm hs)]
      exact hplain rfl rfl rfl rfl rfl rfl rfl rfl
    | held =>
      rw [permitChanged_held cause closing L hnew (by rw [← hnew]; exact Ne.symm hs)]
      exact hplain rfl rfl rfl rfl rfl rfl rfl rfl
    | running =>
      by_cases hh : s.permit.state = .held
      · rw [permitChanged_resumed cause closing L hnew hh]
        have hl := lateTakens_unchanged L
          ((s.permitted pm [permitRecord s pm cause]).mapEntries fun e => some (resumed s.time.partTime e))
        exact hplain (hl .time (by decide)) (hl .evPins (by decide)) (hl .lines (by decide)) (hl .claims (by decide)) (hl .rstn (by decide))
          (hl .tickWork (by decide)) (hl .freeUses (by decide)) (hl .pending (by decide))
      · rw [permitChanged_running cause closing L hnew (by rw [← hnew]; exact Ne.symm hs) hh]
        exact hplain rfl rfl rfl rfl rfl rfl rfl rfl

theorem RoomFor.permitChanged {n : Nat} (hL : PermitTakes s pm L) (h : RoomFor (n + 1 + 2 * L.length) s) :
    RoomFor n (permitChanged s pm cause closing L) := by
  have hone : ∀ m, RoomFor (m + 1) s → ∀ t : State, t.rstn = s.rstn →
      t.journal = s.journal.storing s.time.partTime (quality s) [permitRecord s pm cause] → RoomFor m t := fun m hm t hr hj =>
    RoomFor.storing (s := s) (t := s.time.partTime) (q := quality s) (l := [permitRecord s pm cause]) hm hr hj
  by_cases hs : pm.state = s.permit.state
  · rw [permitChanged_same cause closing L hs]
    exact (h.mono (by omega)).congr rfl rfl
  · unfold PermitTakes at hL
    rw [if_neg hs] at hL
    cases hnew : pm.state with
    | stopped =>
      rw [if_pos hnew] at hL
      have hocc : ∀ i ∈ L, (s.entry i).isSome = true := fun i hi => by
        obtain ⟨e, he, _⟩ := (hL.1 i).mp hi
        exact Option.isSome_iff_exists.mpr ⟨e, he⟩
      rw [permitChanged_stopped cause closing L hnew (by rw [← hnew]; exact Ne.symm hs)]
      exact RoomFor.storing (s := s) (t := s.time.partTime) (q := quality s)
        (l := permitRecord s pm cause :: cancelRecords s .permitStop L)
        (h.mono (by rw [List.length_cons, cancelRecords_length hocc]; omega)) rfl rfl
    | arming =>
      rw [permitChanged_arming cause closing L hnew (by rw [← hnew]; exact Ne.symm hs)]
      exact hone n (h.mono (by omega)) _ rfl rfl
    | held =>
      rw [permitChanged_held cause closing L hnew (by rw [← hnew]; exact Ne.symm hs)]
      exact hone n (h.mono (by omega)) _ rfl rfl
    | running =>
      by_cases hh : s.permit.state = .held
      · rw [permitChanged_resumed cause closing L hnew hh]
        have hroom : RoomFor n (L.foldl lateTaken
            ((s.permitted pm [permitRecord s pm cause]).mapEntries fun e => some (resumed s.time.partTime e))) :=
          lateTakens_room (hone (n + 2 * L.length) (h.mono (by omega)) _ rfl rfl)
        exact hroom.congr rfl rfl
      · rw [permitChanged_running cause closing L hnew (by rw [← hnew]; exact Ne.symm hs) hh]
        exact hone n (h.mono (by omega)) _ rfl rfl

end

/-- The permit unit once a closing master's elector record is gone (R142). -/
def droppedPermit (pm : Permit) (p : Port) (time : Nat) : Permit :=
  if (pm.electors.get p).isSome = true then permitAfter { pm with electors := pm.electors.set p none } time .electorate else pm

theorem permit_dropElector (p : Port) (s : State) : (dropElector p s).permit = droppedPermit s.permit p s.time.partTime := by
  unfold dropElector droppedPermit
  cases h : s.permit.electors.get p with
  | none => rfl
  | some e => exact setElector_permit p none .electorate (some p) s

theorem dropElector_eq {p : Port} {s : State} {M : List (Fin 64)} (hM : PermitTakes s (droppedPermit s.permit p s.time.partTime) M)
    (hr : RoomFor (1 + 2 * M.length) s) :
    dropElector p s = permitChanged s (droppedPermit s.permit p s.time.partTime) .electorate (some p) M := by
  unfold droppedPermit at hM ⊢
  unfold dropElector
  cases he : s.permit.electors.get p with
  | none => exact (permitChanged_same .electorate (some p) M rfl).symm
  | some e =>
    rw [he] at hM
    exact takeAggregate_eq (a := { s.permit with electors := s.permit.electors.set p none }) rfl hM hr

/-! ### The whole close, with room -/

theorem reexamine_of_accepting {s : State} (h : s.journal.state = .accepting) : reexamine s = s := by
  unfold reexamine
  rw [h]

/-- What a close leaves, where the journal has room (R186). -/
def closed (s : State) (p : Port) (cause : CloseCause) (pm : Permit) (L M : List (Fin 64)) : State :=
  let v := permitChanged (closeReleased s p L) pm .electorate (some p) M
  { v.setSession p none with journal := v.journal.storing s.time.partTime (quality s) [(.master p, .sessionClosed cause)] }

theorem closeSessionOn_eq {s : State} {p : Port} {cause : CloseCause} {L M : List (Fin 64)}
    (hL : Listed s (fun e => e.owner = p) admittedBefore L)
    (hM : PermitTakes (closeReleased s p L) (droppedPermit s.permit p s.time.partTime) M) (hr : RoomFor (22 + L.length + 2 * M.length) s) :
    closeSessionOn p cause s = closed s p cause (droppedPermit s.permit p s.time.partTime) L M := by
  have h1 := closeReleased_of_room hL (hr.mono (by omega))
  have hc := closeReleased_unchanged s p L
  have hroom : RoomFor (1 + 1 + 2 * M.length) (closeReleased s p L) := RoomFor.closeReleased hL (hr.mono (by omega))
  have hperm : (closeReleased s p L).permit = s.permit := hc .permit (by decide)
  have htime : (closeReleased s p L).time = s.time := hc .time (by decide)
  have h2 := dropElector_eq (s := closeReleased s p L) (p := p) (M := M) (by rw [hperm, htime]; exact hM) (hroom.mono (by omega))
  rw [hperm, htime] at h2
  unfold closeSessionOn closed
  dsimp only
  rw [h1, h2]
  have hroom2 : RoomFor 1 (permitChanged (closeReleased s p L) (droppedPermit s.permit p s.time.partTime) .electorate (some p) M) :=
    RoomFor.permitChanged .electorate (some p) hM hroom
  have htime2 : (permitChanged (closeReleased s p L) (droppedPermit s.permit p s.time.partTime) .electorate (some p) M).time = s.time :=
    (permitChanged_unchanged .electorate (some p) M .time (by decide)).trans htime
  generalize permitChanged (closeReleased s p L) (droppedPermit s.permit p s.time.partTime) .electorate (some p) M = v at hroom2 htime2
  have hq : quality (v.setSession p none) = quality s := by
    unfold quality
    rw [State.setSession_time, htime2]
  rw [reexamine_of_accepting (s := v.setSession p none) hroom2.accepting,
    offer_eq_storing (s := v.setSession p none) (hroom2.congr rfl rfl), State.setSession_time, hq, htime2]
  rfl

end Sys2Proof.Machine
end

section
/-! SUPPORT. The rows that close a session: CLOSE and a port clear (O11). -/

set_option Elab.async false

namespace Sys2Proof.Machine

/-! ### What every close leaves -/

theorem entry_handOverIfHeld {p : Port} {cause : ClaimCause} {s : State} {r : Resource} {i : Fin 64} {e : Entry}
    (h : (handOverIfHeld p cause s r).entry i = some e) : s.entry i = some e := by
  unfold handOverIfHeld at h
  split at h
  · have hp := (passOn_schedule_outs r (clearedOf p r (offer (.master p) (.claimReleased r cause) s))).1
    rw [handOver_steps, entry_congr hp, clearedOf] at h
    cases r with
    | out k =>
      rw [show (Resource.out k).line? = some k from rfl, Option.elim, entry_clearLine, entry_offer] at h
      exact (Option.filter_eq_some_iff.mp h).1
    | time => exact (entry_offer _ _ s i).symm.trans h
    | config => exact (entry_offer _ _ s i).symm.trans h
  · exact h

theorem entry_handOvers {p : Port} {cause : ClaimCause} {i : Fin 64} {e : Entry} : ∀ (R : List Resource) {s : State},
    (R.foldl (handOverIfHeld p cause) s).entry i = some e → s.entry i = some e
  | [], _, h => h
  | _ :: R, _, h => entry_handOverIfHeld (entry_handOvers R h)

theorem loose_dropElector (p : Port) (s : State) : LooseMoves s (dropElector p s) := by
  unfold dropElector
  split
  · exact .refl
  · exact loose_setElector _ _ _ _ s

/-- The state before the last two steps of a close. -/
def closeDropped (p : Port) (s : State) : State :=
  dropElector p (allResources.foldl (handOverIfHeld p .close) (leaveWaitLists p (cancelWhere .closed (fun e => e.owner == p) s)))

theorem closeSessionOn_steps (p : Port) (cause : CloseCause) (s : State) :
    closeSessionOn p cause s = offer (.master p) (.sessionClosed cause) (reexamine ((closeDropped p s).setSession p none)) := rfl

section
variable (p : Port) (cause : CloseCause) (s : State)

theorem kept_lastSteps : Kept offerBlocks (closeDropped p s) (closeSessionOn p cause s) := by
  rw [closeSessionOn_steps]
  exact Kept.after (kept_offer _ _ _) <| Kept.after (kept_reexamine _) <| Kept.after (kept_setSession _ p none) (.refl _ _)

theorem session_closeSessionOn : (closeSessionOn p cause s).session p = none := by
  have h := ((terms_reexamine ((closeDropped p s).setSession p none)).trans (terms_offer (.master p) (.sessionClosed cause) _)) p
  rw [session_setSession, if_pos rfl, ← closeSessionOn_steps] at h
  simpa using h

theorem owner_closeSessionOn {i : Fin 64} {e : Entry} (h : (closeSessionOn p cause s).entry i = some e) : e.owner ≠ p := by
  rw [entry_congr ((kept_lastSteps p cause s).unchanged .schedule (by decide))] at h
  obtain ⟨e0, h0, ho, _⟩ := (looseMoves_noNewEntry (loose_dropElector p _)).entries i e h
  have h1 := entry_handOvers allResources h0
  rw [ho]
  have h2 := (of_entry_cancelWhere (c := .closed) (test := fun e => e.owner == p) (s := s) h1).2
  simpa using h2

theorem claims_closeSessionOn (r : Resource) : (closeSessionOn p cause s).claimOf r = claimClosed s p r := by
  have h1 : (closeSessionOn p cause s).claims
      = (allResources.foldl (handOverIfHeld p .close) (leaveWaitLists p (cancelWhere .closed (fun e => e.owner == p) s))).claims :=
    ((kept_lastSteps p cause s).unchanged .claims (by decide)).trans (by
      unfold closeDropped dropElector
      split
      · rfl
      · exact (kept_setElector _ _ _ _ _).unchanged .claims (by decide))
  have hc : (cancelWhere .closed (fun e => e.owner == p) s).claims = s.claims :=
    (kept_cancelWhere _ _ s).unchanged .claims (by decide)
  have h2 : ∀ r, (leaveWaitLists p (cancelWhere .closed (fun e => e.owner == p) s)).claimOf r
      = { holder := (s.claimOf r).holder, waiters := (s.claimOf r).waiters.filter (· ≠ p) } := fun r => by
    rw [claimOf_leaveWaitLists, claimOf_of_claims hc]
  have h3 := holds_of_claimOf (s := s) (t := leaveWaitLists p (cancelWhere .closed (fun e => e.owner == p) s)) (r := r) (by rw [h2]) p
  rw [claimOf_of_claims h1, claimOf_handOvers p .close allResources _ allResources_nodup, h3, h2]
  simp only [mem_allResources, true_and]
  rfl

theorem claimClosed_frees (r : Resource) : (claimClosed s p r).holder ≠ some p ∧ p ∉ (claimClosed s p r).waiters := by
  have hnot : p ∉ (s.claimOf r).waiters.filter (· ≠ p) := by simp
  unfold claimClosed
  split
  · exact ⟨fun h => hnot (List.mem_of_mem_head? h), fun h => hnot (List.mem_of_mem_tail h)⟩
  · next hh =>
    refine ⟨fun h => hh ?_, hnot⟩
    unfold State.holds
    rw [show (s.claimOf r).holder = some p from h]
    simp

theorem electors_closeSessionOn : (closeSessionOn p cause s).permit.electors.get p = none := by
  have h1 : (closeSessionOn p cause s).permit = (closeDropped p s).permit := (kept_lastSteps p cause s).unchanged .permit (by decide)
  rw [h1]
  unfold closeDropped
  rw [permit_dropElector]
  unfold droppedPermit
  split
  · rw [permitAfter_electors, PerPort.get_set, if_pos rfl]
  · next h => exact Option.not_isSome_iff_eq_none.mp h

/-- Where the journal accepts after an offer, the record offered is the newest (R43). -/
theorem offer_newest {o : Origin} {b : Body} {s : State} (hr : s.rstn = .high) (h : (offer o b s).journal.state = .accepting) :
    ∃ r, (offer o b s).journal.store.getLast? = some r ∧ r.body = b ∧ r.origin = o := by
  rcases offerAs_cases s.time.partTime (quality s) o b s with ⟨hl, _⟩ | ⟨_, hs, e⟩ | ⟨_, _, _, e⟩ | ⟨_, _, _, _, e⟩ | ⟨_, _, _, _, e⟩
  · exact absurd hl (rstn_ne_low hr)
  · rw [offer, e] at h
    exact absurd (h.symm.trans hs) (by simp)
  · exact ⟨_, by rw [offer, e]; exact List.getLast?_concat .., rfl, rfl⟩
  · have hj : (enterWithholding s).journal.state = .withholding :=
      congrArg Journal.state ((kept_handRaise .journalWithheld _).unchanged .journal (by decide))
    rw [offer, e, hj] at h
    exact absurd h (by simp)
  · exact ⟨_, by rw [offer, e]; exact List.getLast?_concat .., rfl, rfl⟩

end

end Sys2Proof.Machine
end

section
/-! SUPPORT. The rows that close a session, and O11. -/

set_option Elab.async false

namespace Sys2Proof.Machine

/-! ### The link at the end of a row -/

/-- The link of a port as the end of a transaction leaves it. -/
def endedLink (q : List Response) (out : List Byte) (crc ovr : Bool) (x : PortState) : PortState :=
  { x with transaction := .idle, queue := q, shifted := out, crcDropped := crc, overrun := ovr }

section
variable (p : Port) (q : List Response) (out : List Byte) (crc ovr : Bool)

/-- The ports with that link on one of them. -/
def withLink (x : PerPort PortState) : PerPort PortState := x.set p (endedLink q out crc ovr (x.get p))

/-- The ports with that link on one of them, and no session there. -/
def withLinkOnly (x : PerPort PortState) : PerPort PortState := x.set p { endedLink q out crc ovr (x.get p) with session := none }

theorem blind_withLink : Blind (withLink p q out crc ovr) := blind_set p fun _ _ => rfl

theorem blind_withLinkOnly : Blind (withLinkOnly p q out crc ovr) :=
  blind_set p (h := fun y => { endedLink q out crc ovr y with session := none }) fun _ _ => rfl

theorem session_withLink (s : State) (r : Port) : (s.linked (withLink p q out crc ovr)).session r = s.session r := by
  show ((withLink p q out crc ovr s.ports).get r).session = (s.ports.get r).session
  unfold withLink
  rw [PerPort.get_set]
  split
  · next h => rw [h]; rfl
  · rfl

theorem erased_withLink (s : State) :
    (s.setSession p none).linked (withLink p q out crc ovr) = s.linked (withLinkOnly p q out crc ovr) := by
  have hp : withLink p q out crc ovr (s.setSession p none).ports = withLinkOnly p q out crc ovr s.ports := PerPort.ext_get fun r => by
    unfold withLink withLinkOnly
    rw [State.setSession_ports, PerPort.get_set, PerPort.get_set, PerPort.get_set, PerPort.get_set, if_pos rfl]
    split <;> rfl
  exact congrArg (fun x => { s with ports := x }) hp

/-- What the link and the session of the port were before does not matter. -/
theorem setPort_withLinkOnly (s : State) {y : PortState} (hd : y.discarded = (s.port p).discarded) (ha : y.atn = (s.port p).atn) :
    (s.setPort p y).linked (withLinkOnly p q out crc ovr) = s.linked (withLinkOnly p q out crc ovr) := by
  have hp : withLinkOnly p q out crc ovr (s.ports.set p y) = withLinkOnly p q out crc ovr s.ports := PerPort.ext_get fun r => by
    unfold withLinkOnly
    rw [PerPort.get_set, PerPort.get_set, PerPort.get_set, PerPort.get_set, if_pos rfl]
    split
    · have hy : endedLink q out crc ovr y = { endedLink q out crc ovr (s.ports.get p) with session := y.session } := by
        unfold endedLink
        rw [hd, ha]
        rfl
      rw [hy]
    · rfl
  exact congrArg (fun x => { s with ports := x }) hp

/-- A change of the ports that keeps every session is beside the journal: the readers are as they were. -/
theorem beside_linked {g : PerPort PortState → PerPort PortState} (hg : Blind g)
    (hs : ∀ (s : State) (r : Port), (s.linked g).session r = s.session r) : BesideJournal fun s => s.linked g where
  rstn _ := rfl
  time _ := rfl
  journal _ := rfl
  pinned s := oldestPinned_of_readers rfl fun r => by rw [hs]
  stores _ _ := rfl
  retires s := by
    unfold retireOldest State.linked
    dsimp only
    cases s.journal.store with
    | nil => rfl
    | cons r rest =>
      have hm := hg.maps (fun _ => Session.pushPast r) s.ports
      have hx : ∀ x : PerPort PortState, (x.map fun y => { y with session := y.session.map (Session.pushPast r) })
          = x.mapIdx fun _ y => { y with session := y.session.map (Session.pushPast r) } := fun x =>
        PerPort.ext_get fun q => by rw [PerPort.get_map, PerPort.get_mapIdx]
      dsimp only
      rw [hx, hx, hm]
  raises c s := by
    unfold handRaise
    rw [apply_ite (State.linked · g)]
    rfl

/-- The link of a port is beside the journal. -/
theorem beside_withLink : BesideJournal fun s => s.linked (withLink p q out crc ovr) :=
  beside_linked (blind_withLink p q out crc ovr) fun s r => session_withLink p q out crc ovr s r

end

theorem BesideJournal.reexamine {f : State → State} (h : BesideJournal f) (s : State) : f (reexamine s) = reexamine (f s) := by
  have hq : ∀ u, quality (f u) = quality u := fun u => by unfold quality; rw [h.time]
  have hstore : ∀ u t q o b, f (storeRecord t q o b u) = storeRecord t q o b (f u) := fun u t q o b => by
    unfold storeRecord
    rw [h.stores, h.journal]
  unfold Machine.reexamine
  rw [h.journal]
  split
  · rfl
  · rw [h.pinned]
    split
    · rfl
    · dsimp only
      have hr : (retireOldest (f s)).journal = (retireOldest s).journal := by rw [← h.retires, h.journal]
      rw [h.stores, hstore, h.retires, h.time, hq]
      unfold storeRecord
      rw [State.setJournal_journal, State.setJournal_journal, hr]

/-! ### The closes beside the link -/

section
variable {s : State} {p : Port} (q : List Response) (out : List Byte) (crc ovr : Bool) {y : PortState}

/-- What a close with room leaves does not depend on the link or the session of its port. -/
theorem closed_withLink (hd : y.discarded = (s.port p).discarded) (ha : y.atn = (s.port p).atn) (cause : CloseCause) (pm : Permit)
    (L M : List (Fin 64)) :
    (closed (s.setPort p y) p cause pm L M).linked (withLink p q out crc ovr)
      = (closed s p cause pm L M).linked (withLink p q out crc ovr) := by
  have hv : ∀ t : State, (permitChanged (closeReleased t p L) pm .electorate (some p) M).linked (withLinkOnly p q out crc ovr)
      = permitChanged (closeReleased (t.linked (withLinkOnly p q out crc ovr)) p L) pm .electorate (some p) M := fun t => by
    rw [closeReleased_linked (blind_withLinkOnly p q out crc ovr), permitChanged_linked (blind_withLinkOnly p q out crc ovr)]
  have hc : ∀ t : State, (closed t p cause pm L M).linked (withLink p q out crc ovr)
      = { permitChanged (closeReleased (t.linked (withLinkOnly p q out crc ovr)) p L) pm .electorate (some p) M with
          journal := (permitChanged (closeReleased (t.linked (withLinkOnly p q out crc ovr)) p L) pm .electorate (some p) M).journal.storing
            t.time.partTime (quality t) [(.master p, .sessionClosed cause)] } := fun t => by
    rw [← hv, ← erased_withLink]
    rfl
  rw [hc, hc, setPort_withLinkOnly p q out crc ovr s hd ha]
  rfl

theorem closeReleased_setPort (L : List (Fin 64)) :
    (closeReleased (s.setPort p y) p L).schedule = (closeReleased s p L).schedule
      ∧ (closeReleased (s.setPort p y) p L).outs = (closeReleased s p L).outs
      ∧ (closeReleased (s.setPort p y) p L).permit = (closeReleased s p L).permit
      ∧ (closeReleased (s.setPort p y) p L).time = (closeReleased s p L).time := by
  rw [closeReleased_eq, closeReleased_eq]
  exact ⟨rfl, rfl, rfl, rfl⟩

theorem PermitTakes.congr {s t : State} {pm : Permit} {L : List (Fin 64)} (h : PermitTakes s pm L) (hs : t.schedule = s.schedule)
    (ho : t.outs = s.outs) (hp : t.permit = s.permit) (ht : t.time = s.time) : PermitTakes t pm L := by
  have he : t.entry = s.entry := funext (entry_congr hs)
  have hg : onGatedLine t = onGatedLine s := funext fun e => onGatedLine_congr (fun k => by unfold State.out; rw [ho]) rfl
  unfold PermitTakes Listed at h ⊢
  rw [he, hg, hp, ht]
  exact h

end

/-- With nothing of the master to end, a close without an elector begins at its fourth step. -/
theorem closeDropped_bare {s : State} {p : Port} (he : ∀ i e, s.entry i = some e → e.owner ≠ p) (hh : ∀ r, s.holds p r = false)
    (hno : s.permit.electors.get p = none) : closeDropped p s = leaveWaitLists p s := by
  have hc : cancelWhere .closed (fun e => e.owner == p) s = s := by
    have hl : Listed s (fun e => e.owner = p) admittedBefore [] :=
      ⟨fun i => ⟨fun h => absurd h (by simp), fun ⟨e, hi, ho⟩ => absurd ho (he i e hi)⟩, List.Pairwise.nil⟩
    rw [cancelWhere, hl.byAdmission (fun e => by simp)]
    rfl
  have hheld : ∀ r, (leaveWaitLists p s).holds p r = false := fun r =>
    (holds_of_claimOf (s := s) (by rw [claimOf_leaveWaitLists]) p).trans (hh r)
  have hnone : ∀ R : List Resource, R.foldl (handOverIfHeld p .close) (leaveWaitLists p s) = leaveWaitLists p s := fun R => by
    induction R with
    | nil => rfl
    | cons r R ih =>
      rw [List.foldl_cons]
      have h1 : handOverIfHeld p .close (leaveWaitLists p s) r = leaveWaitLists p s := by
        unfold handOverIfHeld
        rw [if_neg (by rw [hheld]; simp)]
      rw [h1, ih]
  unfold closeDropped
  rw [hc, hnone]
  unfold dropElector
  rw [show (leaveWaitLists p s).permit = s.permit from rfl, hno]

/-! ### The rows -/

/-- A row that closes p's session: what it does to the link before and after the close. -/
structure Closing (s : State) (p : Port) (i : Instr) (cause : CloseCause) (q : List Response) (out : List Byte) (crc ovr : Bool)
    (y : PortState) : Prop where
  exec      : exec i s = .next (conclude ((closeSessionOn p cause (s.setPort p y)).linked (withLink p q out crc ovr)))
  discarded : y.discarded = (s.port p).discarded
  atn       : y.atn = (s.port p).atn

/-- A link that stands ended is as its end leaves it. -/
theorem linked_self {s : State} {p : Port} {q : List Response} {out : List Byte} {crc ovr : Bool} (h1 : (s.port p).transaction = .idle)
    (h2 : (s.port p).queue = q) (h3 : (s.port p).shifted = out) (h4 : (s.port p).crcDropped = crc) (h5 : (s.port p).overrun = ovr) :
    s.linked (withLink p q out crc ovr) = s := by
  have hp : withLink p q out crc ovr s.ports = s.ports := PerPort.ext_get fun r => by
    unfold withLink
    rw [PerPort.get_set]
    split
    · next hr =>
      subst hr
      unfold endedLink
      rw [← h1, ← h2, ← h3, ← h4, ← h5]
      rfl
    · rfl
  exact congrArg (fun x => { s with ports := x }) hp

theorem closing_command {s : State} {p : Port} {x : Session} (tag : Byte) (hr : Ready s p) (hx : s.session p = some x) :
    Closing s p (.closeSession p tag) .command ((s.port p).queue ++ [{ tag := tag, status := .ok, payload := [] }])
      (readyCount (s.port p) :: List.replicate 6 0#8) (s.port p).crcDropped (s.port p).overrun ((taken s p 0).port p) := by
  have hy := port_taken s p p 0
  rw [if_pos rfl] at hy
  have hs : s.setPort p ((taken s p 0).port p) = taken s p 0 := by
    have hp : s.ports.set p ((taken s p 0).port p) = (taken s p 0).ports := PerPort.ext_get fun q => by
      rw [PerPort.get_set]
      split
      · next hq => rw [hq]; rfl
      · next hq =>
        have := port_taken s p q 0
        rw [if_neg hq] at this
        exact this.symm
    exact congrArg (fun v => { s with ports := v }) hp
  refine ⟨?_, by rw [hy], by rw [hy]⟩
  have hrow : exec (.closeSession p tag) s = .next (onCommand p tag 0 .anySession (takeClose p) s) := rfl
  have hact : takeClose p (taken s p 0) = (closeSessionOn p .command (taken s p 0), okay []) := withSession_taken hx _
  rw [hrow, onCommand_any hr hx, hact, hs]
  obtain ⟨h1, _, h3, h4, h5, h6⟩ := (kept_closeSessionOn p .command (taken s p 0)).links p
  rw [hy] at h1 h3 h4 h5 h6
  dsimp only at h1 h3 h4 h5 h6 ⊢
  refine congrArg (fun u => Host.Outcome.next (conclude u)) ?_
  have hself := linked_self (s := respond p tag (okay []) (closeSessionOn p .command (taken s p 0))) (p := p)
    (q := (s.port p).queue ++ [{ tag := tag, status := .ok, payload := [] }]) (out := readyCount (s.port p) :: List.replicate 6 0#8)
    (crc := (s.port p).crcDropped) (ovr := (s.port p).overrun)
    (by rw [respond_port, if_pos rfl]; exact h1) (by rw [respond_port, if_pos rfl]; dsimp only; rw [h3]; rfl)
    (by rw [respond_port, if_pos rfl]; exact h6) (by rw [respond_port, if_pos rfl]; exact h4) (by rw [respond_port, if_pos rfl]; exact h5)
  rw [← hself]
  generalize closeSessionOn p .command (taken s p 0) = u
  have hp : withLink p ((s.port p).queue ++ [{ tag := tag, status := .ok, payload := [] }]) (readyCount (s.port p) :: List.replicate 6 0#8)
        (s.port p).crcDropped (s.port p).overrun (respond p tag (okay []) u).ports
      = withLink p ((s.port p).queue ++ [{ tag := tag, status := .ok, payload := [] }]) (readyCount (s.port p) :: List.replicate 6 0#8)
        (s.port p).crcDropped (s.port p).overrun u.ports := PerPort.ext_get fun r => by
    unfold withLink respond
    rw [State.setPort_ports, PerPort.get_set, PerPort.get_set, PerPort.get_set, PerPort.get_set, if_pos rfl]
    split <;> rfl
  exact congrArg (fun x => { u with ports := x }) hp

theorem closing_clear {s : State} {p : Port} {x : Session} (hq : quiet s = true) (hr : s.rstn = .high) (hc : CanEnd s p .portClear)
    (hx : s.session p = some x) :
    Closing s p (.portClear p) .reset [] (readyCount (s.port p) :: List.replicate 3 0#8) false false
      (endedLink [] (readyCount (s.port p) :: List.replicate 3 0#8) false false (s.port p)) := by
  refine ⟨?_, rfl, rfl⟩
  have hrow : exec (.portClear p) s = .next (endTransaction p .portClear clearFrame.length (clearPort p) s) := rfl
  have hses : (s.setPort p (endedLink [] (readyCount (s.port p) :: List.replicate 3 0#8) false false (s.port p))).session p = some x := by
    rw [session_setPort, if_pos rfl]
    exact hx
  have hclear : clearPort p s
      = closeSessionOn p .reset (s.setPort p (endedLink [] (readyCount (s.port p) :: List.replicate 3 0#8) false false (s.port p))) := by
    refine (if_pos ?_ : clearPort p s = _)
    exact Option.isSome_iff_exists.mpr ⟨x, hses⟩
  rw [hrow, endTransaction_effect hq (rstn_ne_low hr) (canEnd_iff.mpr hc), hclear]
  obtain ⟨h1, _, h3, h4, h5, h6⟩ := (kept_closeSessionOn p .reset
    (s.setPort p (endedLink [] (readyCount (s.port p) :: List.replicate 3 0#8) false false (s.port p)))).links p
  rw [port_setPort_same] at h1 h3 h4 h5 h6
  have hself := linked_self (p := p) (q := []) (out := readyCount (s.port p) :: List.replicate 3 0#8) (crc := false) (ovr := false) h1 h3 h6 h4 h5
  rw [hself]

end Sys2Proof.Machine
end

section
/-! SUPPORT. O11: a CLOSE or a port clear leaves nothing of the master. -/

set_option Elab.async false

namespace Sys2Proof.Machine

section
variable {s : State} {p : Port} {cause : CloseCause} {q : List Response} {out : List Byte} {crc ovr : Bool}

theorem port_withLink (s : State) : (s.linked (withLink p q out crc ovr)).port p = endedLink q out crc ovr (s.port p) := by
  show (withLink p q out crc ovr s.ports).get p = _
  unfold withLink
  rw [PerPort.get_set, if_pos rfl]
  rfl

theorem rstn_beforeClosed (cause : CloseCause) (hr : s.rstn = .high) :
    (reexamine ((closeDropped p s).setSession p none)).rstn = .high := by
  have h1 := (kept_closeSessionOn p cause s).unchanged .rstn (by decide)
  rw [closeSessionOn_steps] at h1
  have h2 := (kept_offer (.master p) (.sessionClosed cause) (reexamine ((closeDropped p s).setSession p none))).unchanged .rstn (by decide)
  exact (Eq.trans (Eq.symm h2) h1).trans hr

/-- What every close leaves of its master, whatever the journal does (R186). -/
theorem closed_leaves (t : State) (ht : t = conclude ((closeSessionOn p cause s).linked (withLink p q out crc ovr))) (hr : s.rstn = .high) :
    t.session p = none
      ∧ (t.port p).transaction = .idle
      ∧ (t.port p).queue = q
      ∧ (∀ r, (t.claimOf r).holder ≠ some p ∧ p ∉ (t.claimOf r).waiters)
      ∧ (∀ i e, t.entry i = some e → e.owner ≠ p)
      ∧ t.permit.electors.get p = none
      ∧ (t.journal.state = .accepting →
          ∃ r, t.journal.store.getLast? = some r ∧ r.body = .sessionClosed cause ∧ r.origin = .master p)
      ∧ (t.port p).crcDropped = crc
      ∧ (t.port p).overrun = ovr := by
  have hport : t.port p
      = { endedLink q out crc ovr ((closeSessionOn p cause s).port p) with atn := atnLevel t p } := by
    rw [ht, conclude_port, port_withLink]
  have hclaims : t.claims = (closeSessionOn p cause s).claims := by rw [ht, conclude_claims]; rfl
  have hschedule : t.schedule = (closeSessionOn p cause s).schedule := by rw [ht, conclude_schedule]; rfl
  have hpermit : t.permit = (closeSessionOn p cause s).permit := by rw [ht, conclude_permit]; rfl
  have hjournal : t.journal = (closeSessionOn p cause s).journal := by rw [ht, conclude_journal]; rfl
  refine ⟨?_, by rw [hport]; rfl, by rw [hport]; rfl, fun r => ?_, fun i e he => ?_, ?_, fun ha => ?_, by rw [hport]; rfl, by rw [hport]; rfl⟩
  · rw [ht, conclude_session, session_withLink]
    exact session_closeSessionOn p cause s
  · rw [claimOf_of_claims hclaims, claims_closeSessionOn]
    exact claimClosed_frees p s r
  · rw [entry_congr hschedule] at he
    exact owner_closeSessionOn p cause s he
  · rw [hpermit]
    exact electors_closeSessionOn p cause s
  · rw [hjournal, closeSessionOn_steps] at ha ⊢
    exact offer_newest (rstn_beforeClosed cause hr) ha

variable {y : PortState}

/-- With room, a close is its six steps, with the link of its port as the row leaves it. -/
theorem closed_with_room (hd : y.discarded = (s.port p).discarded) (ha : y.atn = (s.port p).atn) {L M : List (Fin 64)}
    (hL : Listed s (fun e => e.owner = p) admittedBefore L)
    (hM : PermitTakes (closeReleased s p L) (droppedPermit s.permit p s.time.partTime) M) (hr : RoomFor (22 + L.length + 2 * M.length) s) :
    (closeSessionOn p cause (s.setPort p y)).linked (withLink p q out crc ovr)
      = (closed s p cause (droppedPermit s.permit p s.time.partTime) L M).linked (withLink p q out crc ovr) := by
  obtain ⟨h1, h2, h3, h4⟩ := closeReleased_setPort (s := s) (p := p) (y := y) L
  have hm : PermitTakes (closeReleased (s.setPort p y) p L) (droppedPermit s.permit p s.time.partTime) M := hM.congr h1 h2 h3 h4
  have hlist : Listed (s.setPort p y) (fun e => e.owner = p) admittedBefore L := hL
  rw [closeSessionOn_eq hlist hm (hr.congr rfl rfl)]
  exact closed_withLink q out crc ovr hd ha cause _ L M

/-- In WITHHOLDING, with nothing before to record, the re-examination comes first (R49, R186). -/
theorem closed_withholding (hd : y.discarded = (s.port p).discarded) (ha : y.atn = (s.port p).atn)
    (he : ∀ i e, s.entry i = some e → e.owner ≠ p) (hh : ∀ r, s.holds p r = false) (hno : s.permit.electors.get p = none) :
    (closeSessionOn p cause (s.setPort p y)).linked (withLink p q out crc ovr)
      = (offer (.master p) (.sessionClosed cause) (reexamine ((leaveWaitLists p s).setSession p none))).linked (withLink p q out crc ovr) := by
  have hbare : closeDropped p (s.setPort p y) = leaveWaitLists p (s.setPort p y) := closeDropped_bare he hh hno
  have hj := beside_withLink p q out crc ovr
  rw [closeSessionOn_steps, hbare, hj.offer, hj.offer, hj.reexamine, hj.reexamine, erased_withLink, erased_withLink]
  have hports : (leaveWaitLists p (s.setPort p y)).linked (withLinkOnly p q out crc ovr)
      = (leaveWaitLists p s).linked (withLinkOnly p q out crc ovr) :=
    setPort_withLinkOnly p q out crc ovr (leaveWaitLists p s) hd ha
  rw [hports]

end

/-- Settles O11: both rows are the six steps of a close with the link set beside them, and each clause is read off the step it speaks of. -/
theorem closeLeavesNothing : Obligations.CloseLeavesNothing := by
  unfold Obligations.CloseLeavesNothing
  intro s p tag x hq hrst hx answered elector pm row hrow hc hroom cleared linked
  have hpm : pm = droppedPermit s.permit p s.time.partTime := rfl
  have hclosing : ∃ y, Closing s p row.1 row.2.1 row.2.2.2
      (readyCount (s.port p) :: List.replicate (if cleared then 3 else 6) 0#8)
      (if cleared then false else (s.port p).crcDropped) (if cleared then false else (s.port p).overrun) y := by
    rcases List.mem_cons.mp hrow with rfl | hrow
    · exact ⟨_, closing_command tag ⟨hq, hrst, hc, hroom rfl⟩ hx⟩
    · obtain rfl := List.mem_singleton.mp hrow
      exact ⟨_, closing_clear hq hrst hc hx⟩
  obtain ⟨y, hexec, hd, ha⟩ := hclosing
  obtain ⟨c1, c2, c3, c4, c5, c6, c7, c8, c9⟩ := closed_leaves (s := s.setPort p y) _ rfl hrst
  refine ⟨_, hexec, c1, c2, c3, c4, c5, c6, c7, fun hreset => ?_, fun L M hL hM hr => ?_, fun _ he hh hno => ?_⟩
  · rw [c8, c9, if_pos hreset]
    exact ⟨rfl, if_pos hreset⟩
  · exact congrArg conclude (closed_with_room hd ha hL (hpm ▸ hM) hr)
  · exact congrArg conclude (closed_withholding hd ha he hh (Option.not_isSome_iff_eq_none.mp hno))

end Sys2Proof.Machine
end

section
/-! SUPPORT. The answers of the queries as fields (O16). -/

set_option Elab.async false

namespace Sys2Proof.Machine

/-! ### Bytes as fields -/

@[simp] theorem ofNat_flag (b : Bool) : BitVec.ofNat 8 (if b = true then 1 else 0) = flagByte b := by
  cases b <;> rfl

theorem be_zero (n : Nat) : be n 0 = List.replicate n 0#8 := by
  induction n with
  | zero => rfl
  | succ n ih => simp [be, ih, List.replicate_succ]

theorem flagByte_field (b : Bool) (l : List Byte) : flagByte b :: l = be 1 (if b = true then 1 else 0) ++ l := by
  rw [be_one, ofNat_flag]
  rfl

/-- An optional group of fields is written as an optional field of bytes. -/
theorem optField_fields {α : Type} (w : Nat) (x : Option α) {f : α → List Byte} {l : α → List (Nat × Nat)} (h : ∀ y, f y = fields (l y)) :
    optField w (x.map f) = fields (optionalFields w x l) := by
  cases x with
  | none => simp [optField, optionalFields, be_zero]
  | some y => simp [optField, optionalFields, be_one, h]

theorem fields_replicate (n v : Nat) : fields (List.replicate n (1, v)) = List.replicate n (BitVec.ofNat 8 v) := by
  induction n with
  | zero => rfl
  | succ n ih => simp [List.replicate_succ, be_one, ih]

theorem fields_flatMap {α : Type} (L : List α) (f : α → List (Nat × Nat)) : fields (L.flatMap f) = L.flatMap fun x => fields (f x) :=
  List.flatMap_assoc

/-- Codes of a list, one byte each. -/
theorem fields_map_code {α : Type} (L : List α) (f : α → Nat) : fields (L.map fun x => (1, f x)) = L.flatMap fun x => code (f x) := by
  induction L with
  | nil => rfl
  | cons x L ih => simp [be_one, code, ih]

theorem option_byte {α : Type} (x : Option α) (f : α → Nat) :
    BitVec.ofNat 8 ((x.map f).getD 0xFF) = (x.map fun y => BitVec.ofNat 8 (f y)).getD absentByte := by
  cases x <;> rfl

/-! ### Codes as the tables of R196 say them -/

theorem validityCode_eq (v : Validity) : validityCode v = if v = .valid then 1 else 0 := by cases v <;> rfl
theorem refStateCode_eq (v : RefState) : refStateCode v = if v = .holdover then 1 else 0 := by cases v <;> rfl
theorem journalStateCode_eq (v : JournalState) : journalStateCode v = if v = .accepting then 0 else 1 := by cases v <;> rfl
theorem readerModeCode_eq (v : ReaderMode) : readerModeCode v = if v = .retaining then 0 else 1 := by cases v <;> rfl
theorem conditionActionCode_eq (v : ConditionAction) : conditionActionCode v = if v = .stop then 1 else 0 := by cases v <;> rfl

theorem qualityCode_quality (s : State) :
    qualityCode (quality s) = if s.time.validity = .invalid then 0 else if s.time.refState = .holdover then 1 else 2 := by
  unfold quality
  cases s.time.validity <;> cases s.time.refState <;> rfl

theorem isLapsed_eq (s : State) (q : Port) : isLapsed s q = (s.session q).any fun y => y.liveness == .lapsed := by
  unfold isLapsed
  cases s.session q <;> rfl

/-! ### The payloads of the queries, field by field (R201) -/

/-- A signed field of a width: its two's complement. -/
def signedField (width : Nat) (v : Int) : Nat × Nat := (width, (v % (256 ^ width : Nat)).toNat)

/-- A flag as a number. -/
def flagCode (b : Bool) : Nat := if b = true then 1 else 0

theorem beInt_field (n : Nat) (v : Int) (l : List (Nat × Nat)) : fields (signedField n v :: l) = beInt n v ++ fields l := rfl

theorem field_flag (b : Bool) (l : List (Nat × Nat)) : fields ((1, flagCode b) :: l) = flagByte b :: fields l := by
  rw [fields_cons, be_one, flagCode, ofNat_flag]
  rfl

theorem be_flag (b : Bool) : be 1 (flagCode b) = [flagByte b] := by
  rw [be_one, flagCode, ofNat_flag]

theorem field_code (n : Nat) (l : List (Nat × Nat)) : fields ((1, n) :: l) = code n ++ fields l := by
  rw [fields_cons, code_eq_be]

section
variable (s : State)

theorem timeBytes_fields :
    timeBytes s
      = fields
          ([(8, s.time.partTime), (1, if s.time.validity = .valid then 1 else 0), (1, if s.time.refState = .holdover then 1 else 0),
            (1, if s.time.validity = .invalid then 0 else if s.time.refState = .holdover then 1 else 2), signedField 4 s.time.trim,
            (4, s.time.refHz)]
            ++ optionalFields 10 s.time.step (fun y => [signedField 8 y.offset, (1, flagCode y.markValid), (1, portCode y.issuer)])
            ++ optionalFields 11 s.time.slew
                (fun y => [signedField 4 y.amount, (2, y.rate), (1, portCode y.issuer), signedField 4 y.remaining])) := by
  have hstep : ∀ y : PendingStep, pendingStepBytes y = fields [signedField 8 y.offset, (1, flagCode y.markValid), (1, portCode y.issuer)] :=
    fun y => by simp [pendingStepBytes, beInt_field, be_flag, code_eq_be]
  have hslew : ∀ y : Slew,
      slewBytes y = fields [signedField 4 y.amount, (2, y.rate), (1, portCode y.issuer), signedField 4 y.remaining] :=
    fun y => by simp [slewBytes, beInt_field, code_eq_be]
  unfold timeBytes
  rw [optField_fields 10 _ hstep, optField_fields 11 _ hslew, validityCode_eq, refStateCode_eq, qualityCode_quality]
  simp only [fields_append, fields_cons, fields_nil, beInt_field, code_eq_be, List.append_assoc, List.append_nil]

theorem keepaliveBytes_fields (x : Session) :
    code (livenessCode x.liveness) ++ be 2 x.window ++ optField 4 (x.deadline.map (be 4))
      = fields ([(1, if x.liveness = .live then 0 else 1), (2, x.window)] ++ optionalFields 4 x.deadline (fun n => [(4, n)])) := by
  rw [optField_fields 4 x.deadline (l := fun n => [(4, n)]) fun n => (List.append_nil _).symm, livenessCode_eq, code_eq_be]
  simp only [fields_append, fields_cons, fields_nil, List.append_assoc, List.append_nil]

theorem inputBytes_fields (l : EventLine) :
    inputBytes l
      = fields [(1, levelCode l.raw), (1, flagCode l.inForce.enabled), (1, if l.qual = .idle then 0 else 1),
          (1, (l.tracked.map levelCode).getD 0xFF)] := by
  have hq : (if l.qual = .idle then 0 else 1) = flagCode (l.qual != .idle) := by
    unfold flagCode
    by_cases h : l.qual = .idle <;> simp [h]
  rw [hq, field_code, field_flag, field_flag]
  unfold inputBytes
  cases l.tracked <;> simp [be_one, code, absentByte]

theorem vector_toList_eq {α : Type} {n : Nat} (v : Vector α n) : v.toList = (List.finRange n).map fun i => v[i] := by
  apply List.ext_getElem
  · simp
  · intro i h1 h2
    simp

theorem lines_fields :
    s.lines.toList.flatMap inputBytes
      = fields ((List.finRange 16).flatMap fun n =>
          [(1, levelCode (s.line n).raw), (1, flagCode (s.line n).inForce.enabled), (1, if (s.line n).qual = .idle then 0 else 1),
           (1, ((s.line n).tracked.map levelCode).getD 0xFF)]) := by
  rw [vector_toList_eq, List.flatMap_map, fields_flatMap]
  exact List.flatMap_congr fun n _ => inputBytes_fields _

/-- The set of the masters with a property, as the sum of their bits. -/
theorem portSet_eq (f : Port → Bool) :
    allPorts.foldl (fun b q => if f q then b ||| (1#8 <<< portCode q) else b) 0#8
      = BitVec.ofNat 8 ([Port.a, .b, .c, .d].map fun q => if f q then 2 ^ portCode q else 0).sum := by
  simp only [allPorts, List.foldl_cons, List.foldl_nil, List.map_cons, List.map_nil]
  cases f .a <;> cases f .b <;> cases f .c <;> cases f .d <;> rfl

theorem pinnedBy_eq :
    pinnedBy s
      = BitVec.ofNat 8
          ([Port.a, .b, .c, .d].map fun q => if s.journal.store.head?.any (pinsRecord s · q) then 2 ^ portCode q else 0).sum := by
  unfold pinnedBy
  cases s.journal.store with
  | nil => rfl
  | cons r rest => exact portSet_eq (pinsRecord s r)

theorem journalBytes_fields :
    journalBytes s
      = fields
          [(2, s.journal.store.length), (8, oldestSeq s), (8, endSeq s - 1), (1, if s.journal.state = .accepting then 0 else 1),
            (4, s.journal.withheld),
            (1, ([Port.a, .b, .c, .d].map fun q => if s.journal.store.head?.any (pinsRecord s · q) then 2 ^ portCode q else 0).sum)] := by
  unfold journalBytes
  rw [pinnedBy_eq, journalStateCode_eq, code_eq_be, ← be_one]
  simp only [fields_cons, fields_nil, List.append_assoc, List.append_nil]

/-- The bytes of a byte-multiple bit vector are those of its number; a byte is itself. -/
theorem be_one_toNat (b : Byte) : be 1 b.toNat = [b] := by
  rw [be_one, BitVec.ofNat_toNat, BitVec.setWidth_eq]

theorem pinCount_eq (x : Session) :
    pinCount s x
      = if x.reader.mode = .retaining then
          (s.journal.store.filter fun r => x.reader.filter.accepts r && decide (x.reader.cursor ≤ r.seq)).length else 0 := by
  unfold pinCount Session.pins
  cases x.reader.mode <;> simp

theorem readerBytes_fields (x : Session) :
    readerBytes x s
      = fields
          [(1, if x.reader.mode = .retaining then 0 else 1), (2, x.reader.filter.kinds.toNat), (2, x.reader.filter.lines.toNat),
            (1, x.reader.filter.origins.toNat), (8, x.reader.cursor), (8, x.reader.readMark), (4, x.reader.missed),
            (2, if x.reader.mode = .retaining then
              (s.journal.store.filter fun r => x.reader.filter.accepts r && decide (x.reader.cursor ≤ r.seq)).length else 0)] := by
  unfold readerBytes
  rw [pinCount_eq, readerModeCode_eq, code_eq_be, ← be_one_toNat]
  simp only [fields_cons, fields_nil, List.append_assoc, List.append_nil]

theorem slotsWhere_eq (test : Entry → Bool) : slotsWhere s test = (List.finRange 64).filter fun i => (s.entry i).any test := by
  unfold slotsWhere
  refine List.filter_congr fun i _ => ?_
  cases s.entry i <;> rfl

theorem outputBytes_fields (k : Fin 8) :
    outputBytes s k
      = fields
          [(1, levelCode (s.out k).commanded), (1, levelCode (s.out k).driven), (1, levelCode (s.out k).rest), (1, levelCode (s.out k).safe),
           (1, flagCode (s.out k).gated), (1, ((s.claimOf (.out k)).holder.map portCode).getD 0xFF),
           (1, ((s.out k).pulse.map fun q => levelCode q.level).getD 0xFF), (3, ((s.out k).pulse.map fun q => q.left).getD 0),
           (1, ((List.finRange 64).filter fun i => (s.entry i).any fun e => e.state == .pulsing && e.line == some k).length)] := by
  have hh : ∀ h : Option Port, [holderByte h] = be 1 ((h.map portCode).getD 0xFF) := fun h => by
    rw [be_one]
    cases h <;> rfl
  unfold outputBytes pulsingOn
  dsimp only
  rw [slotsWhere_eq, hh, List.append_assoc, List.append_assoc]
  cases (s.out k).pulse <;>
    simp [flagCode, be_one, code, absentByte]

theorem claimBytes_fields (r : Resource) :
    claimBytes s r
      = fields
          ([(1, resourceCode r), (1, ((s.claimOf r).holder.map portCode).getD 0xFF),
            (1, ((s.claimOf r).holder.map fun h => flagCode ((s.session h).any fun y => y.liveness == .lapsed)).getD 0xFF),
            (1, (s.claimOf r).waiters.length)]
            ++ (s.claimOf r).waiters.map (fun w => (1, portCode w)) ++ List.replicate (3 - (s.claimOf r).waiters.length) (1, 0xFF)) := by
  unfold claimBytes
  dsimp only
  rw [fields_append, fields_append, fields_map_code, fields_replicate]
  cases (s.claimOf r).holder <;> simp [be_one, code, flagCode, isLapsed_eq, absentByte]

/-- The electors, in the order of their ports. -/
def electorList : List (Port × Elector) := [Port.a, .b, .c, .d].filterMap fun q => (s.permit.electors.get q).map fun e => (q, e)

/-- One elector as QUERY_PERMIT lists it. -/
def electorFields (y : Port × Elector) : List (Nat × Nat) :=
  [(1, portCode y.1), (1, voteCode y.2.vote), (1, flagCode y.2.forced), (1, flagCode ((s.session y.1).any fun x => x.liveness == .lapsed))]

theorem electorBytes_fields (q : Port) : electorBytes s q = ((s.permit.electors.get q).map fun e => (q, e)).elim [] fun y => fields (electorFields s y) := by
  unfold electorBytes
  cases s.permit.electors.get q with
  | none => rfl
  | some e =>
    simp only [Option.map_some, Option.elim_some, electorFields, fields_cons, be_flag, fields_nil, code_eq_be]
    cases s.session q <;> simp

theorem flatMap_elim {α β γ : Type} (g : α → Option β) (h : β → List γ) (L : List α) :
    (L.flatMap fun x => (g x).elim [] h) = (L.filterMap g).flatMap h := by
  induction L with
  | nil => rfl
  | cons x L ih => cases hg : g x <;> simp [hg, ih]

theorem electors_fields : allPorts.flatMap (electorBytes s) = fields ((electorList s).flatMap (electorFields s)) := by
  rw [fields_flatMap, electorList, ← flatMap_elim]
  exact List.flatMap_congr fun q _ => electorBytes_fields s q

theorem electoratePlaces_fields :
    electoratePlaces s = fields ((electorList s).flatMap (electorFields s) ++ List.replicate (16 - 4 * (electorList s).length) (1, 0xFF)) := by
  have hlen : (fields ((electorList s).flatMap (electorFields s))).length = 4 * (electorList s).length := by
    generalize electorList s = L
    induction L with
    | nil => rfl
    | cons y L ih =>
      rw [List.flatMap_cons, fields_append, List.length_append, ih, List.length_cons]
      have : (fields (electorFields s y)).length = 4 := rfl
      omega
  unfold electoratePlaces
  dsimp only
  rw [electors_fields, hlen, fields_append, fields_replicate]
  rfl

theorem votes_length : (votes s.permit).length = (electorList s).length := by
  unfold votes electorList
  rw [List.length_map, allPorts]
  simp only [List.length_filterMap_eq_countP, Option.isSome_map]

/-- A permit cause as fields: code, master and vote. -/
def permitCauseFields : PermitCause → List (Nat × Nat)
  | .vote q v => [(1, 0), (1, portCode q), (1, voteCode v)]
  | .partVote => [(1, 1), (1, 0xFF), (1, 0xFF)]
  | .delayExpired => [(1, 2), (1, 0xFF), (1, 0xFF)]
  | .electorate => [(1, 3), (1, 0xFF), (1, 0xFF)]

theorem permitCauseBytes_fields (c : PermitCause) : permitCauseBytes c = fields (permitCauseFields c) := by
  cases c <;> simp [permitCauseBytes, permitCauseFields, be_one, code, absentByte]

theorem permitBytes_fields :
    permitBytes s
      = fields
          ([(1, permitStateCode s.permit.state), (1, levelCode s.permit.prun), (1, levelCode s.permit.phold), (1, voteCode s.permit.aggregate),
            (1, voteCode s.permit.partVote), (1, (electorList s).length)]
            ++ (electorList s).flatMap (electorFields s) ++ List.replicate (16 - 4 * (electorList s).length) (1, 0xFF)
            ++ optionalFields 4 s.permit.timer (fun n => [(4, n)]) ++ [(2, s.permit.startDelay)]
            ++ optionalFields 11 s.permit.lastChange (fun y => (8, y.1) :: permitCauseFields y.2)) := by
  have hlast : ∀ y : Nat × PermitCause, lastChangeBytes y = fields ((8, y.1) :: permitCauseFields y.2) := fun y => by
    rw [lastChangeBytes, permitCauseBytes_fields, fields_cons]
  unfold permitBytes
  dsimp only
  rw [optField_fields 4 s.permit.timer (l := fun n => [(4, n)]) fun n => (List.append_nil _).symm, optField_fields 11 _ hlast,
    electoratePlaces_fields, votes_length]
  simp only [fields_append, fields_cons, fields_nil, code_eq_be, List.append_assoc, List.append_nil]

theorem conditionBytes_fields (c : Condition) :
    conditionBytes s c
      = fields
          ([(1, flagCode (s.condition c).firstLatched.isSome), (1, if (s.condition c).action = .stop then 1 else 0)]
            ++ optionalFields 8 (s.condition c).firstLatched (fun n => [(8, n)])
            ++ [(1, if c = .timeInvalid ∨ c = .refLost then flagCode (s.condition c).active else 0xFF)]) := by
  unfold conditionBytes
  dsimp only
  rw [optField_fields 8 (s.condition c).firstLatched (l := fun n => [(8, n)]) fun n => (List.append_nil _).symm, conditionActionCode_eq,
    code_eq_be, fields_append, fields_append, field_flag]
  have hactive : [if isLevelCondition c = true then flagByte (s.condition c).active else absentByte]
      = fields [(1, if c = .timeInvalid ∨ c = .refLost then flagCode (s.condition c).active else 0xFF)] := by
    rw [fields_cons, be_one]
    cases c <;> simp [isLevelCondition, flagCode, absentByte]
  rw [hactive]
  simp

end

end Sys2Proof.Machine
end

section
/-! SUPPORT. O16: the queries without an argument. -/

set_option Elab.async false

namespace Sys2Proof.Machine

/-! ### What an accepted frame leaves of what the queries read -/

theorem session_any_taken (s : State) (p q : Port) (n : Nat) {f : Session → Bool} (hf : ∀ x, f x.restarted = f x) :
    ((taken s p n).session q).any f = (s.session q).any f := by
  rw [session_taken]
  split
  · next h =>
    rw [h]
    cases s.session p with
    | none => rfl
    | some x => exact hf x
  · rfl

theorem lapsed_taken (s : State) (p q : Port) (n : Nat) :
    ((taken s p n).session q).any (fun y => y.liveness == .lapsed) = (s.session q).any fun y => y.liveness == .lapsed :=
  session_any_taken s p q n fun x => by rw [restarted_liveness]

theorem pins_restarted (x : Session) (r : Record) : x.restarted.pins r = x.pins r := by
  unfold Session.pins
  rw [restarted_reader]

theorem pinsRecord_eq (s : State) (r : Record) (q : Port) : pinsRecord s r q = (s.session q).any fun x => x.pins r := by
  unfold pinsRecord
  cases s.session q <;> rfl

theorem pinsRecord_taken (s : State) (r : Record) (p q : Port) (n : Nat) : pinsRecord (taken s p n) r q = pinsRecord s r q := by
  rw [pinsRecord_eq, pinsRecord_eq]
  exact session_any_taken s p q n fun x => pins_restarted x r

theorem pinnedBy_taken (s : State) (p : Port) (n : Nat) : pinnedBy (taken s p n) = pinnedBy s := by
  rw [pinnedBy_eq, pinnedBy_eq]
  simp only [pinsRecord_taken]
  rfl

theorem journalBytes_taken (s : State) (p : Port) (n : Nat) : journalBytes (taken s p n) = journalBytes s := by
  unfold journalBytes
  rw [pinnedBy_taken]
  rfl

theorem readerBytes_taken (s : State) (p : Port) (n : Nat) (x : Session) : readerBytes x.restarted (taken s p n) = readerBytes x s := by
  have hp : pinCount (taken s p n) x.restarted = pinCount s x := by
    unfold pinCount
    rw [show x.restarted.pins = x.pins from funext (pins_restarted x)]
    rfl
  unfold readerBytes
  rw [restarted_reader, hp]

theorem claimBytes_taken (s : State) (p : Port) (n : Nat) (r : Resource) : claimBytes (taken s p n) r = claimBytes s r := by
  unfold claimBytes
  simp only [isLapsed_eq, lapsed_taken]
  rfl

theorem permitBytes_taken (s : State) (p : Port) (n : Nat) : permitBytes (taken s p n) = permitBytes s := by
  rw [permitBytes_fields, permitBytes_fields]
  unfold electorFields
  simp only [lapsed_taken]
  rfl

/-! ### O16 -/

/-- A query from a LIVE session that answers with fields. -/
theorem query_live {s : State} {p : Port} {x : Session} {i : Instr} {tag : Byte} {act : Session → State → List Byte} {l : List (Nat × Nat)}
    (hr : Ready s p) (hx : OpenLive s p x) (hl : LevelsFormed s)
    (hrow : exec i s = .next (onCommand p tag 0 .liveSession (withSession p fun y u => (u, okay (act y u))) s))
    (hout : ∀ r : Reply, answeredOnly s i r.status r.payload = answeredFrame s p 7 tag r.status r.payload)
    (ha : act x.restarted (taken s p 0) = fields l) : Answers s i .ok (fields l) := by
  have h := answers_of_live (r := okay (act x.restarted (taken s p 0))) hr hx hl hrow (hout _) (withSession_taken hx.isOpen _)
  rw [ha] at h
  exact h

/-- A query from a LIVE or LAPSED session that answers with fields. -/
theorem query_any {s : State} {p : Port} {x : Session} {i : Instr} {tag : Byte} {act : Session → State → List Byte} {l : List (Nat × Nat)}
    (hr : Ready s p) (hx : s.session p = some x) (hl : LevelsFormed s)
    (hrow : exec i s = .next (onCommand p tag 0 .anySession (withSession p fun y u => (u, okay (act y u))) s))
    (hout : ∀ r : Reply, answeredOnly s i r.status r.payload = answeredFrame s p 7 tag r.status r.payload)
    (ha : act x.restarted (taken s p 0) = fields l) : Answers s i .ok (fields l) := by
  have h := answers_of_any (r := okay (act x.restarted (taken s p 0))) hr hx hl hrow (hout _) (withSession_taken hx _)
  rw [ha] at h
  exact h

/-- Settles O16: each payload is its list of fields, read of the state that the accepted frame leaves. -/
theorem queriesAnswerOnly : Obligations.QueriesAnswerOnly := by
  unfold Obligations.QueriesAnswerOnly
  intro s p tag x hr hl hx
  extract_lets flag signed lapsed time j pm electors row
  refine ⟨?_, ?_, fun hlive => ?_⟩
  · exact query_any hr hx hl rfl (fun _ => rfl) (timeBytes_fields (taken s p 0))
  · refine query_any hr hx hl rfl (fun _ => rfl) ((keepaliveBytes_fields x.restarted).trans ?_)
    rw [restarted_liveness, restarted_window]
  · have hlv : OpenLive s p x := ⟨hx, hlive⟩
    refine ⟨?_, ?_, ?_, ?_, ?_, ?_, ?_, ?_⟩
    · refine answers_of_any (r := okay (code (livenessCode .live))) hr hx hl (i := .renew p tag) (act := takeRenew p) rfl rfl ?_
      rw [takeRenew, withSession_taken hx, restarted_liveness, hlive]
    · exact query_live hr hlv hl rfl (fun _ => rfl) (congrArg (be 8 s.time.partTime ++ ·) (lines_fields (taken s p 0)))
    · exact query_live hr hlv hl rfl (fun _ => rfl) ((journalBytes_taken s p 0).trans (journalBytes_fields s))
    · exact query_live hr hlv hl (act := readerBytes) rfl (fun _ => rfl) ((readerBytes_taken s p 0 x).trans (readerBytes_fields s x))
    · refine query_live hr hlv hl rfl (fun _ => rfl) ?_
      rw [fields_append, fields_flatMap]
      refine congrArg₂ (· ++ ·) ?_ (List.flatMap_congr fun k _ => outputBytes_fields (taken s p 0) k)
      simp only [fields_cons, fields_nil, code_eq_be, List.append_assoc, List.append_nil]
      rfl
    · refine query_live hr hlv hl rfl (fun _ => rfl) ?_
      rw [fields_flatMap]
      exact List.flatMap_congr fun r _ => (claimBytes_taken s p 0 r).trans (claimBytes_fields s r)
    · exact query_live hr hlv hl rfl (fun _ => rfl) ((permitBytes_taken s p 0).trans (permitBytes_fields s))
    · refine query_live hr hlv hl rfl (fun _ => rfl) ?_
      rw [fields_append, fields_flatMap, field_code, fields_nil, List.append_nil]
      exact congrArg (· ++ _) (List.flatMap_congr fun c _ => conditionBytes_fields (taken s p 0) c)

end Sys2Proof.Machine
end

section
/-! SUPPORT. O17: the queries with an argument. -/

set_option Elab.async false

namespace Sys2Proof.Machine

/-! ### QUERY_ENTRY and LIST_ENTRIES -/

/-- Presence as a number. -/
def presentCode {α : Type} (x : Option α) : Nat := flagCode x.isSome

/-- An optional field is its presence and the value, or zeros. -/
theorem optField_be (w : Nat) (x : Option Nat) : optField w (x.map (be w)) = fields [(1, presentCode x), (w, x.getD 0)] := by
  cases x <;> simp [optField, presentCode, flagCode, be_zero, be_one]

theorem anchorCode_eq (a : Anchor) : anchorCode a = if a = .relative then 1 else 0 := by cases a <;> rfl

theorem handleBytes_fields (s : State) (i : Fin 64) (l : List Byte) :
    handleBytes (s.handle i) ++ l = fields [(1, i.val), (1, (s.handle i).generation.toNat)] ++ l := by
  simp [handleBytes, be_one, State.handle]

theorem descriptorBytes_fields (d : Descriptor) :
    descriptorBytes d
      = fields
          [(1, d.action.toNat), (1, d.line.toNat), (1, d.pulseLevel.toNat), (3, d.width.toNat), (1, d.timing.toNat), (8, d.timeValue.toNat),
           (1, d.trigLine.toNat), (1, d.trigEdge.toNat), (1, d.rearm.toNat), (4, d.period.toNat), (2, d.count.toNat),
           (1, d.latePolicy.toNat), (1, d.flags.toNat)] := by
  simp [descriptorBytes, be_one_toNat]

/-- The entry QUERY_ENTRY reports, field by field. -/
def entryFields (s : State) (i : Fin 64) (e : Entry) : List (Nat × Nat) :=
  let d := e.descriptor
  [(1, i.val), (1, (s.handle i).generation.toNat), (1, portCode e.owner), (8, e.admission),
   (1, d.action.toNat), (1, d.line.toNat), (1, d.pulseLevel.toNat), (3, d.width.toNat), (1, d.timing.toNat), (8, d.timeValue.toNat),
   (1, d.trigLine.toNat), (1, d.trigEdge.toNat), (1, d.rearm.toNat), (4, d.period.toNat), (2, d.count.toNat),
   (1, d.latePolicy.toNat), (1, d.flags.toNat),
   (1, entryStateCode e.state), (1, if e.anchor = .relative then 1 else 0),
   (1, presentCode e.due + 2 * presentCode e.remaining), (8, e.due.getD 0), (2, e.remaining.getD 0),
   (3, (e.running.map fun r => r.left).getD 0)]

theorem entryBytes_fields (s : State) (i : Fin 64) (e : Entry) : entryBytes (s.handle i) e = fields (entryFields s i e) := by
  have hp : (if e.due.isSome = true then 1 else 0) + (if e.remaining.isSome = true then 2 else 0)
      = presentCode e.due + 2 * presentCode e.remaining := by
    unfold presentCode flagCode
    split <;> split <;> rfl
  have hr : e.running.map RunningPulse.left = e.running.map fun r => r.left := rfl
  unfold entryBytes
  rw [hp, hr, descriptorBytes_fields, anchorCode_eq]
  simp only [List.append_assoc]
  rw [handleBytes_fields]
  simp [entryFields, code_eq_be]

/-- An entry's summary, field by field. -/
def summaryFields (s : State) (i : Fin 64) : List (Nat × Nat) := (s.entry i).toList.flatMap fun e =>
  [(1, i.val), (1, (s.handle i).generation.toNat), (1, portCode e.owner), (1, entryStateCode e.state), (1, actionCode e.action),
   (1, (e.line.map fun k => k.val).getD 0xFF), (1, presentCode e.due), (8, e.due.getD 0)]

theorem summaryBytes_fields (s : State) (i : Fin 64) : summaryBytes s i = fields (summaryFields s i) := by
  have hline : ∀ l : Option (Fin 8), [lineByte l] = be 1 ((l.map fun k => k.val).getD 0xFF) := fun l => by
    rw [be_one]
    cases l <;> rfl
  unfold summaryBytes summaryFields
  cases s.entry i with
  | none => rfl
  | some e =>
    dsimp only
    rw [optField_be, hline]
    simp only [List.append_assoc]
    rw [handleBytes_fields]
    simp [code_eq_be]

/-- The slots a LIST_ENTRIES lists of: those in scope, at or above one (R105). -/
def slotsFrom (s : State) (test : Entry → Bool) (fromSlot : Nat) : List (Fin 64) :=
  (List.finRange 64).filter fun i => decide (fromSlot ≤ i.val) && (s.entry i).any test

/-- The LIST_ENTRIES payload, field by field. -/
def listFields (s : State) (p : Port) (l : List (Fin 64)) : List (Nat × Nat) :=
  let first := l.take 16
  [(1, first.length), (1, if 16 < l.length then (first.getLast?.map fun i => i.val + 1).getD 0xFF else 0xFF),
    (1, ((List.finRange 64).filter fun i => (s.entry i).isNone).length), (1, owned s p), (1, s.schedule.quotas.get p)]
  ++ first.flatMap (summaryFields s)

theorem nextSlotByte_field (l : List (Fin 64)) :
    [nextSlotByte (l.take 16) (l.drop 16)]
      = be 1 (if 16 < l.length then ((l.take 16).getLast?.map fun i => i.val + 1).getD 0xFF else 0xFF) := by
  rw [be_one]
  unfold nextSlotByte
  by_cases h : 16 < l.length
  · rw [if_pos h]
    obtain ⟨x, xs, hx⟩ := List.exists_cons_of_length_pos (l := l.drop 16) (by rw [List.length_drop]; omega)
    rw [hx]
    cases (l.take 16).getLast? <;> rfl
  · rw [if_neg h, List.drop_eq_nil_of_le (Nat.not_lt.mp h)]
    cases (l.take 16).getLast? <;> rfl

theorem listBytes_fields (s : State) (p : Port) (test : Entry → Bool) (fromSlot : Nat) :
    listBytes p test fromSlot s = fields (listFields s p (slotsFrom s test fromSlot)) := by
  have hslots : (slotsWhere s test).filter (fun i => decide (fromSlot ≤ i.val)) = slotsFrom s test fromSlot := by
    rw [slotsWhere_eq, List.filter_filter]
    rfl
  unfold listBytes
  dsimp only
  rw [hslots, show Config.listLimit = 16 from rfl, nextSlotByte_field]
  unfold listFields freeSlots allSlots
  simp only [fields_append, fields_cons, fields_nil, fields_flatMap, code_eq_be, List.append_assoc, List.append_nil]
  rw [List.flatMap_congr fun i _ => summaryBytes_fields s i]

/-! ### READ_CONFIG -/

theorem groupOf_toNat (b : BitVec 16) : (groupOf b).toNat = b.toNat / 256 := by
  unfold groupOf
  rw [BitVec.extractLsb'_toNat, Nat.shiftRight_eq_div_pow]
  have := b.isLt
  omega

theorem instanceOf_toNat (b : BitVec 16) : (instanceOf b).toNat = b.toNat % 256 := by
  unfold instanceOf
  rw [BitVec.extractLsb'_toNat, Nat.shiftRight_zero]

/-- The group a number of R200 names, read at an index. -/
def readGroup (inst : Byte) (s : State) : Nat → Option Nat
  | 0x01 => paramRefHz.read? inst s
  | 0x02 => paramEnabled.read? inst s
  | 0x03 => paramEdgeSelect.read? inst s
  | 0x04 => paramFilterLength.read? inst s
  | 0x05 => paramChatterBudget.read? inst s
  | 0x06 => paramQuota.read? inst s
  | 0x07 => paramLateTolerance.read? inst s
  | 0x08 => paramRestLevel.read? inst s
  | 0x09 => paramSafeLevel.read? inst s
  | 0x0A => paramGatedFlag.read? inst s
  | 0x0B => paramStartDelay.read? inst s
  | 0x0C => paramConditionAction.read? inst s
  | _ => none

theorem parameterValue?_eq (param : BitVec 16) (s : State) :
    parameterValue? param s = readGroup (instanceOf param) s (param.toNat / 256) := by
  rw [← groupOf_toNat]
  rfl

/-- An identifier of a group and one of its instances. -/
theorem parameterValue?_id {g n id : Nat} (hg : g < 256) (hn : n < 256) (hid : id = 256 * g + n) (s : State) :
    parameterValue? (BitVec.ofNat 16 id) s = readGroup (BitVec.ofNat 8 n) s g := by
  subst hid
  have ht : (BitVec.ofNat 16 (256 * g + n)).toNat = 256 * g + n := by
    rw [BitVec.toNat_ofNat]
    omega
  have hi : instanceOf (BitVec.ofNat 16 (256 * g + n)) = BitVec.ofNat 8 n := BitVec.eq_of_toNat_eq (by
    rw [instanceOf_toNat, ht, BitVec.toNat_ofNat]
    omega)
  have hd : (256 * g + n) / 256 = g := by omega
  rw [parameterValue?_eq, hi, ht, hd]

theorem single?_eq_none {b : Byte} (h : 1 ≤ b.toNat) : single? b = none := if_neg fun h0 => by
  rw [h0] at h
  simp at h

theorem masterInstance?_eq_none {b : Byte} (h : 4 ≤ b.toNat) : masterInstance? b = none := by
  have hne : ∀ k : Nat, k < 4 → b ≠ BitVec.ofNat 8 k := fun k hk h0 => by
    rw [h0, BitVec.toNat_ofNat] at h
    omega
  unfold masterInstance?
  rw [if_neg (hne 0 (by omega)), if_neg (hne 1 (by omega)), if_neg (hne 2 (by omega)), if_neg (hne 3 (by omega))]

theorem masterInstance?_portCode (m : Port) : masterInstance? (BitVec.ofNat 8 (portCode m)) = some m := by
  cases m <;> rfl

theorem inputInstance?_val (n : Fin 16) : inputInstance? (BitVec.ofNat 8 n.val) = some n :=
  finOf?_val n (by rw [BitVec.toNat_ofNat]; omega)

theorem outputInstance?_val (k : Fin 8) : outputInstance? (BitVec.ofNat 8 k.val) = some k :=
  finOf?_val k (by rw [BitVec.toNat_ofNat]; omega)

/-- An identifier whose group has no such instance, or of no group, names no parameter (R200). -/
theorem readGroup_eq_none {g : Nat} {inst : Byte} (s : State)
    (h : ∀ row ∈ ([(1, 1), (2, 16), (3, 16), (4, 16), (5, 16), (6, 4), (7, 1), (8, 8), (9, 8), (10, 8), (11, 1), (12, 4)] : List (Nat × Nat)),
      g = row.1 → row.2 ≤ inst.toNat) : readGroup inst s g = none := by
  unfold readGroup Parameter.read?
  split
  · exact congrArg (Option.map _) (single?_eq_none (h (1, 1) (by simp) rfl))
  · exact congrArg (Option.map _) (finOf?_eq_none (h (2, 16) (by simp) rfl))
  · exact congrArg (Option.map _) (finOf?_eq_none (h (3, 16) (by simp) rfl))
  · exact congrArg (Option.map _) (finOf?_eq_none (h (4, 16) (by simp) rfl))
  · exact congrArg (Option.map _) (finOf?_eq_none (h (5, 16) (by simp) rfl))
  · exact congrArg (Option.map _) (masterInstance?_eq_none (h (6, 4) (by simp) rfl))
  · exact congrArg (Option.map _) (single?_eq_none (h (7, 1) (by simp) rfl))
  · exact congrArg (Option.map _) (finOf?_eq_none (h (8, 8) (by simp) rfl))
  · exact congrArg (Option.map _) (finOf?_eq_none (h (9, 8) (by simp) rfl))
  · exact congrArg (Option.map _) (finOf?_eq_none (h (10, 8) (by simp) rfl))
  · exact congrArg (Option.map _) (single?_eq_none (h (11, 1) (by simp) rfl))
  · exact congrArg (Option.map _) (conditionOf?_eq_none (h (12, 4) (by simp) rfl))
  · rfl

end Sys2Proof.Machine
end

section
/-! SUPPORT. O17: the rows. -/

set_option Elab.async false

namespace Sys2Proof.Machine

section
variable {s : State} {p : Port} {tag : Byte} {x : Session} (hr : Ready s p) (hl : LevelsFormed s) (hx : OpenLive s p x)
include hr hl hx

theorem queryEntry_of {slot generation : Byte} {r : Reply} (h : takeQueryEntry slot generation (taken s p 2) = (taken s p 2, r)) :
    Answers s (.queryEntry p tag slot generation) r.status r.payload :=
  answers_of_live hr hx hl rfl rfl h

theorem listEntries_of {scope fromSlot : Byte} {r : Reply} (h : takeListEntries p scope fromSlot (taken s p 2) = (taken s p 2, r)) :
    Answers s (.listEntries p tag scope fromSlot) r.status r.payload :=
  answers_of_live hr hx hl rfl rfl h

theorem listEntries_scope {scope fromSlot : Byte} {test : Entry → Bool} (hs : scopeOf? p scope = some test) (hf : fromSlot.toNat < 64) :
    Answers s (.listEntries p tag scope fromSlot) .ok (fields (listFields s p (slotsFrom s test fromSlot.toNat))) := by
  refine listEntries_of hr hl hx (r := okay _) ?_
  unfold takeListEntries
  rw [hs]
  dsimp only
  rw [if_pos hf, listBytes_fields]
  rfl

/-- READ_CONFIG of an identifier of group g, instance n. -/
theorem readConfig_of {g n id v : Nat} (hg : g < 256) (hn : n < 256) (hid : id = 256 * g + n)
    (h : readGroup (BitVec.ofNat 8 n) (taken s p 2) g = some v) :
    Answers s (.readConfig p tag (BitVec.ofNat 16 id)) .ok (fields [(2, id), (4, v)]) := by
  have hact : takeReadConfig (BitVec.ofNat 16 id) (taken s p 2) = (taken s p 2, okay (fields [(2, id), (4, v)])) := by
    have hnum : (BitVec.ofNat 16 id).toNat = id := by
      rw [BitVec.toNat_ofNat]
      omega
    unfold takeReadConfig
    rw [parameterValue?_id hg hn hid, h]
    dsimp only
    rw [hnum]
    simp
  exact answers_of_live (i := .readConfig p tag (BitVec.ofNat 16 id)) (act := takeReadConfig (BitVec.ofNat 16 id)) hr hx hl rfl rfl hact

theorem readConfig_refused {param : BitVec 16}
    (h : ∀ row ∈ ([(1, 1), (2, 16), (3, 16), (4, 16), (5, 16), (6, 4), (7, 1), (8, 8), (9, 8), (10, 8), (11, 1), (12, 4)] : List (Nat × Nat)),
      param.toNat / 256 = row.1 → row.2 ≤ param.toNat % 256) : Refuses s (.readConfig p tag param) .badArg := by
  have hact : takeReadConfig param (taken s p 2) = (taken s p 2, refuse .badArg) := by
    unfold takeReadConfig
    rw [parameterValue?_eq, readGroup_eq_none _ fun row hrow hg => by rw [instanceOf_toNat]; exact h row hrow hg]
  exact answers_of_live (r := refuse .badArg) (act := takeReadConfig param) hr hx hl rfl rfl hact

end

theorem scopeOf?_eq_none {p : Port} {b : Byte} (h : 2 ≤ b.toNat) : scopeOf? p b = none := by
  have h0 : b ≠ 0#8 := by rintro rfl; simp at h
  have h1 : b ≠ 1#8 := by rintro rfl; simp at h
  simp [scopeOf?, h0, h1]

theorem levelCode_eq (v : Level) : levelCode v = if v = .high then 1 else 0 := by cases v <;> rfl

theorem conditionOf?_conditionCode (c : Condition) : conditionOf? (BitVec.ofNat 8 (conditionCode c)).toNat = some c :=
  conditionOf?_of_code (by cases c <;> rfl)

/-- Settles O17: the handle, the scope and the identifier decide the row; each answer is its list of fields. -/
theorem addressedQueriesAnswer : Obligations.AddressedQueriesAnswer := by
  unfold Obligations.AddressedQueriesAnswer
  intro s p tag x hr hl hx
  extract_lets present level slots summary listing read
  refine ⟨fun slot generation h => ?_, fun i generation h => ?_, fun i e he => ?_, fun fromSlot hf => ⟨?_, ?_⟩, fun scope fromSlot h => ?_, ?_,
    fun param h => ?_⟩
  · refine queryEntry_of hr hl hx (r := refuse .badArg) ?_
    rw [takeQueryEntry, lookUp_outside h]
  · refine queryEntry_of hr hl hx (r := refuse .staleHandle) ?_
    rw [takeQueryEntry, lookUp_stale (s := taken s p 2) h]
  · refine queryEntry_of hr hl hx (r := okay _) ?_
    have hfound : lookUp (BitVec.ofNat 8 i.val) (s.handle i).generation (taken s p 2) = .found i e := lookUp_found (s := taken s p 2) he
    rw [takeQueryEntry, hfound]
    exact congrArg (fun bs => (taken s p 2, okay bs)) (entryBytes_fields (taken s p 2) i e)
  · exact listEntries_scope hr hl hx rfl hf
  · exact listEntries_scope hr hl hx rfl hf
  · refine listEntries_of hr hl hx (r := refuse .badArg) ?_
    unfold takeListEntries
    rcases h with h | h
    · rw [scopeOf?_eq_none h]
    · split
      · rfl
      · rw [if_neg (Nat.not_lt.mpr h)]
  · have key : ∀ {g n id v : Nat}, g < 256 → n < 256 → id = 256 * g + n → readGroup (BitVec.ofNat 8 n) (taken s p 2) g = some v →
        read id v := fun hg hn hid h => readConfig_of hr hl hx hg hn hid h
    have hcond : ∀ c, conditionCode c < 256 := fun c => by cases c <;> decide
    have hport : ∀ m, portCode m < 256 := fun m => by cases m <;> decide
    refine ⟨?_, fun n => ⟨?_, ?_, ?_, ?_⟩, fun m => ?_, ?_, fun k => ⟨?_, ?_, ?_⟩, ?_, fun c => ?_⟩
    · exact key (g := 1) (n := 0) (by omega) (by omega) rfl rfl
    · exact key (g := 2) (n := n.val) (by omega) (by omega) rfl (congrArg (Option.map _) (inputInstance?_val n))
    · exact key (g := 3) (n := n.val) (by omega) (by omega) rfl (congrArg (Option.map _) (inputInstance?_val n))
    · exact key (g := 4) (n := n.val) (by omega) (by omega) rfl (congrArg (Option.map _) (inputInstance?_val n))
    · exact key (g := 5) (n := n.val) (by omega) (by omega) rfl (congrArg (Option.map _) (inputInstance?_val n))
    · exact key (g := 6) (by omega) (hport m) rfl (congrArg (Option.map _) (masterInstance?_portCode m))
    · exact key (g := 7) (n := 0) (by omega) (by omega) rfl rfl
    · refine key (g := 8) (n := k.val) (by omega) (by omega) rfl ?_
      exact (congrArg (Option.map _) (outputInstance?_val k)).trans (congrArg some (levelCode_eq _))
    · refine key (g := 9) (n := k.val) (by omega) (by omega) rfl ?_
      exact (congrArg (Option.map _) (outputInstance?_val k)).trans (congrArg some (levelCode_eq _))
    · exact key (g := 10) (n := k.val) (by omega) (by omega) rfl (congrArg (Option.map _) (outputInstance?_val k))
    · exact key (g := 11) (n := 0) (by omega) (by omega) rfl rfl
    · refine key (g := 12) (by omega) (hcond c) rfl ?_
      exact (congrArg (Option.map _) (conditionOf?_conditionCode c)).trans (congrArg some (conditionActionCode_eq _))
  · exact readConfig_refused hr hl hx h

end Sys2Proof.Machine
end

section
/-! SUPPORT. CONFIGURE: the twelve groups and their checks (O43). -/

set_option Elab.async false

namespace Sys2Proof.Machine

/-! ### The values of R200 -/

theorem numberIn?_of {low high v : Nat} (h1 : low ≤ v) (h2 : v ≤ high) : numberIn? low high v = some v := if_pos ⟨h1, h2⟩
theorem numberIn?_eq_none {low high v : Nat} (h : ¬ (low ≤ v ∧ v ≤ high)) : numberIn? low high v = none := if_neg h

theorem yesNo?_of {v : Nat} (h : v ≤ 1) : yesNo? v = some (decide (v = 1)) := by
  obtain rfl | rfl : v = 0 ∨ v = 1 := by omega
  · rfl
  · rfl

theorem yesNo?_eq_none {v : Nat} (h : ¬ v ≤ 1) : yesNo? v = none := by
  unfold yesNo?
  rw [if_neg (by omega), if_neg (by omega)]

theorem levelValue?_of {v : Nat} (h : v ≤ 1) : levelValue? v = some (if v = 1 then .high else .low) := by
  obtain rfl | rfl : v = 0 ∨ v = 1 := by omega
  · rfl
  · rfl

theorem levelValue?_eq_none {v : Nat} (h : ¬ v ≤ 1) : levelValue? v = none := by
  unfold levelValue?
  rw [if_neg (by omega), if_neg (by omega)]

theorem edgeSelectOf?_of {v : Nat} (h : v ≤ 2) : edgeSelectOf? v = some (if v = 0 then .rise else if v = 1 then .fall else .both) := by
  obtain rfl | rfl | rfl : v = 0 ∨ v = 1 ∨ v = 2 := by omega
  · rfl
  · rfl
  · rfl

theorem edgeSelectOf?_eq_none {v : Nat} (h : ¬ v ≤ 2) : edgeSelectOf? v = none := by
  unfold edgeSelectOf?
  rw [if_neg (by omega), if_neg (by omega), if_neg (by omega)]

theorem conditionActionOf?_of {v : Nat} (h : v ≤ 1) : conditionActionOf? v = some (if v = 1 then .stop else .note) := by
  obtain rfl | rfl : v = 0 ∨ v = 1 := by omega
  · rfl
  · rfl

theorem conditionActionOf?_eq_none {v : Nat} (h : ¬ v ≤ 1) : conditionActionOf? v = none := by
  unfold conditionActionOf?
  rw [if_neg (by omega), if_neg (by omega)]

/-! ### The instances of R200 -/

/-- The instances of a group are the numbers below n. -/
def Instances {ι : Type} (index? : Byte → Option ι) (n : Nat) : Prop := ∀ b : Byte, (index? b).isSome = decide (b.toNat < n)

theorem instances_finOf (n : Nat) : Instances (fun b => finOf? n b.toNat) n := fun b => by
  dsimp only
  unfold finOf?
  by_cases h : b.toNat < n <;> simp [h]

theorem instances_single : Instances single? 1 := fun b => by
  by_cases h : b = 0#8
  · subst h
    rfl
  · have : ¬ b.toNat < 1 := by bv_omega
    rw [single?_eq_none (Nat.not_lt.mp this)]
    simp [this]

theorem instances_master : Instances masterInstance? 4 := fun b => by
  by_cases h : b.toNat < 4
  · obtain rfl | rfl | rfl | rfl : b = 0#8 ∨ b = 1#8 ∨ b = 2#8 ∨ b = 3#8 := by bv_omega
    all_goals rfl
  · rw [masterInstance?_eq_none (Nat.not_lt.mp h)]
    simp [h]

theorem instances_condition : Instances (fun b => conditionOf? b.toNat) 4 := fun b => by
  dsimp only
  by_cases h : b.toNat < 4
  · obtain h | h | h | h : b.toNat = 0 ∨ b.toNat = 1 ∨ b.toNat = 2 ∨ b.toNat = 3 := by omega
    all_goals (rw [h]; rfl)
  · rw [conditionOf?_eq_none (Nat.not_lt.mp h)]
    simp [h]

/-! ### A row of CONFIGURE is the write of its group -/

/-- What a row of R200 says of a group: its instances, its values, and whether it is written in STOPPED only (R132). -/
structure GroupOf {ι α : Type} (row : Port → Byte → Byte → BitVec 32 → Instr) (x : Parameter ι α) (n : Nat) (values : Nat → Bool)
    (stopped : Bool) : Prop where
  exec   : ∀ p tag inst value s, exec (row p tag inst value) s = .next (onCommand p tag 6 .liveSession (x.configure p inst value) s)
  frame  : ∀ p tag inst value s st l, answeredOnly s (row p tag inst value) st l = answeredFrame s p 13 tag st l
  index  : Instances x.index? n
  value  : ∀ v, (x.value? v).isSome = values v
  barred : stopped = true → ∀ i v s, x.barred i v s = (s.permit.state != .stopped)

theorem isSome_numberIn (low high v : Nat) : (numberIn? low high v).isSome = decide (low ≤ v ∧ v ≤ high) := by
  unfold numberIn?
  by_cases h : low ≤ v ∧ v ≤ high <;> simp [h]

theorem isSome_numberTo (high v : Nat) : (numberIn? 0 high v).isSome = decide (v ≤ high) := by
  rw [isSome_numberIn]
  simp

theorem isSome_yesNo (v : Nat) : (yesNo? v).isSome = decide (v ≤ 1) := by
  by_cases h : v ≤ 1
  · rw [yesNo?_of h]
    simp [h]
  · rw [yesNo?_eq_none h]
    simp [h]

theorem isSome_levelValue (v : Nat) : (levelValue? v).isSome = decide (v ≤ 1) := by
  by_cases h : v ≤ 1
  · rw [levelValue?_of h]
    simp [h]
  · rw [levelValue?_eq_none h]
    simp [h]

theorem isSome_edgeSelectOf (v : Nat) : (edgeSelectOf? v).isSome = decide (v ≤ 2) := by
  by_cases h : v ≤ 2
  · rw [edgeSelectOf?_of h]
    simp [h]
  · rw [edgeSelectOf?_eq_none h]
    simp [h]

theorem isSome_conditionActionOf (v : Nat) : (conditionActionOf? v).isSome = decide (v ≤ 1) := by
  by_cases h : v ≤ 1
  · rw [conditionActionOf?_of h]
    simp [h]
  · rw [conditionActionOf?_eq_none h]
    simp [h]

theorem group_refHz : GroupOf .configureRefHz paramRefHz 1 (fun v => decide (1000000 ≤ v ∧ v ≤ 50000000)) false :=
  ⟨fun _ _ _ _ _ => rfl, fun _ _ _ _ _ _ _ => rfl, instances_single, isSome_numberIn _ _, nofun⟩
theorem group_enabled : GroupOf .configureEnabled paramEnabled 16 (fun v => decide (v ≤ 1)) false :=
  ⟨fun _ _ _ _ _ => rfl, fun _ _ _ _ _ _ _ => rfl, instances_finOf 16, isSome_yesNo, nofun⟩
theorem group_edgeSelect : GroupOf .configureEdgeSelect paramEdgeSelect 16 (fun v => decide (v ≤ 2)) false :=
  ⟨fun _ _ _ _ _ => rfl, fun _ _ _ _ _ _ _ => rfl, instances_finOf 16, isSome_edgeSelectOf, nofun⟩
theorem group_filterLength : GroupOf .configureFilterLength paramFilterLength 16 (fun v => decide (v ≤ 65535)) false :=
  ⟨fun _ _ _ _ _ => rfl, fun _ _ _ _ _ _ _ => rfl, instances_finOf 16, isSome_numberTo _, nofun⟩
theorem group_chatterBudget : GroupOf .configureChatterBudget paramChatterBudget 16 (fun v => decide (v ≤ 255)) false :=
  ⟨fun _ _ _ _ _ => rfl, fun _ _ _ _ _ _ _ => rfl, instances_finOf 16, isSome_numberTo _, nofun⟩
theorem group_quota : GroupOf .configureQuota paramQuota 4 (fun v => decide (1 ≤ v ∧ v ≤ 64)) false :=
  ⟨fun _ _ _ _ _ => rfl, fun _ _ _ _ _ _ _ => rfl, instances_master, isSome_numberIn _ _, nofun⟩
theorem group_lateTolerance : GroupOf .configureLateTolerance paramLateTolerance 1 (fun v => decide (v ≤ 65535)) false :=
  ⟨fun _ _ _ _ _ => rfl, fun _ _ _ _ _ _ _ => rfl, instances_single, isSome_numberTo _, nofun⟩
theorem group_restLevel : GroupOf .configureRestLevel paramRestLevel 8 (fun v => decide (v ≤ 1)) false :=
  ⟨fun _ _ _ _ _ => rfl, fun _ _ _ _ _ _ _ => rfl, instances_finOf 8, isSome_levelValue, nofun⟩
theorem group_safeLevel : GroupOf .configureSafeLevel paramSafeLevel 8 (fun v => decide (v ≤ 1)) true :=
  ⟨fun _ _ _ _ _ => rfl, fun _ _ _ _ _ _ _ => rfl, instances_finOf 8, isSome_levelValue, fun _ _ _ _ => rfl⟩
theorem group_gatedFlag : GroupOf .configureGatedFlag paramGatedFlag 8 (fun v => decide (v ≤ 1)) true :=
  ⟨fun _ _ _ _ _ => rfl, fun _ _ _ _ _ _ _ => rfl, instances_finOf 8, isSome_yesNo, fun _ _ _ _ => rfl⟩
theorem group_startDelay : GroupOf .configureStartDelay paramStartDelay 1 (fun v => decide (v ≤ 60000)) false :=
  ⟨fun _ _ _ _ _ => rfl, fun _ _ _ _ _ _ _ => rfl, instances_single, isSome_numberTo _, nofun⟩
theorem group_conditionAction : GroupOf .configureConditionAction paramConditionAction 4 (fun v => decide (v ≤ 1)) true :=
  ⟨fun _ _ _ _ _ => rfl, fun _ _ _ _ _ _ _ => rfl, instances_condition, isSome_conditionActionOf, fun _ _ _ _ => rfl⟩

/-- Each row of R200 is the write of a group. -/
theorem group_of_row {row : (Port → Byte → Byte → BitVec 32 → Instr) × Nat × (Nat → Bool) × Bool} (h : row ∈ configureRows) :
    ∃ (ι α : Type) (x : Parameter ι α), GroupOf row.1 x row.2.1 row.2.2.1 row.2.2.2 := by
  simp only [configureRows, List.mem_cons, List.not_mem_nil, or_false] at h
  rcases h with rfl | rfl | rfl | rfl | rfl | rfl | rfl | rfl | rfl | rfl | rfl | rfl
  · exact ⟨_, _, _, group_refHz⟩
  · exact ⟨_, _, _, group_enabled⟩
  · exact ⟨_, _, _, group_edgeSelect⟩
  · exact ⟨_, _, _, group_filterLength⟩
  · exact ⟨_, _, _, group_chatterBudget⟩
  · exact ⟨_, _, _, group_quota⟩
  · exact ⟨_, _, _, group_lateTolerance⟩
  · exact ⟨_, _, _, group_restLevel⟩
  · exact ⟨_, _, _, group_safeLevel⟩
  · exact ⟨_, _, _, group_gatedFlag⟩
  · exact ⟨_, _, _, group_startDelay⟩
  · exact ⟨_, _, _, group_conditionAction⟩

/-! ### The checks -/

section
variable {ι α : Type} {x : Parameter ι α} {p : Port} {inst : Byte} {value : BitVec 32} {s : State}

theorem configure_notHolder (h : s.holds p .config = false) : x.configure p inst value s = (s, refuse .notHolder) := by
  unfold Parameter.configure
  rw [if_pos (by simp [h])]

theorem configure_badArg (h : s.holds p .config = true) (hb : x.index? inst = none ∨ x.value? value.toNat = none) :
    x.configure p inst value s = (s, refuse .badArg) := by
  unfold Parameter.configure
  rw [if_neg (by simp [h])]
  rcases hb with hb | hb
  · rw [hb]
  · rw [hb]
    cases x.index? inst <;> rfl

theorem configure_wrongState {i : ι} {v : α} (h : s.holds p .config = true) (hi : x.index? inst = some i)
    (hv : x.value? value.toNat = some v) (hb : x.barred i v s = true) : x.configure p inst value s = (s, refuse .wrongState) := by
  unfold Parameter.configure
  rw [if_neg (by simp [h]), hi]
  dsimp only
  rw [hv]
  dsimp only
  rw [if_pos hb]

/-- An accepted write: its record, then the value (R133). -/
theorem configure_stores {i : ι} {v : α} (h : s.holds p .config = true) (hi : x.index? inst = some i) (hv : x.value? value.toNat = some v)
    (hb : x.barred i v s = false) :
    x.configure p inst value s
      = (x.store i v (offer (.master p) (.config (paramId x.group inst) (x.stored i s) value.toNat) s),
          okay (be 4 (x.stored i s) ++ be 4 value.toNat)) := by
  unfold Parameter.configure
  rw [if_neg (by simp [h]), hi]
  dsimp only
  rw [hv]
  dsimp only
  rw [if_neg (by simp [hb])]

variable {row : Port → Byte → Byte → BitVec 32 → Instr} {n : Nat} {values : Nat → Bool} {stopped : Bool} {tag : Byte} {y : Session}

theorem GroupOf.refuses (hg : GroupOf row x n values stopped) (hr : Ready s p) (hl : LevelsFormed s) (hy : OpenLive s p y) {st : Status}
    (h : x.configure p inst value (taken s p 6) = (taken s p 6, refuse st)) : Refuses s (row p tag inst value) st :=
  answers_of_live (r := refuse st) (act := x.configure p inst value) hr hy hl (hg.exec ..) (hg.frame ..) h

end

/-- Settles O43: each row is the write of a group, and each check refuses it. -/
theorem configureChecks : Obligations.ConfigureChecks := by
  unfold Obligations.ConfigureChecks
  intro s p tag inst value y hr hl hy
  have hh : (taken s p 6).holds p .config = s.holds p .config := rfl
  refine ⟨fun group hgroup => ?_, fun row hrow => ?_, fun m hm hc h1 h64 howned => ?_⟩
  · have hact : configureAct p group inst value = configureNothing p := by
      unfold configureAct
      split
      all_goals first
        | rfl
        | (rename_i heq; rcases hgroup with rfl | hgroup
           · simp at heq
           · omega)
    have hc : commonChecks p (.known .liveSession (configureAct p group inst value)) (taken s p 6)
        = (taken s p 6, refuse (if s.holds p .config = true then .badArg else .notHolder)) := by
      rw [commonChecks_live hy, hact]
      unfold configureNothing
      rw [hh]
      split <;> rfl
    rw [exec_commandWrite_frame p tag 0x44#8 _ s (by simp [be]), frameCommand_configure, onFrame_ready hr]
    refine congrArg Host.Outcome.next ?_
    rw [show ([group, inst] ++ be 4 value.toNat).length = 6 from rfl, hc]
    exact conclude_respond_taken hl tag (refuse _)
  · obtain ⟨ι, α, x, hg⟩ := group_of_row hrow
    refine ⟨fun hc => ?_, fun hc hbad => ?_, fun hc hi hv hs hst => ?_⟩
    · exact hg.refuses hr hl hy (configure_notHolder (hh.trans hc))
    · refine hg.refuses hr hl hy (configure_badArg (hh.trans hc) (hbad.imp (fun h => ?_) fun h => ?_))
      · have := hg.index inst
        rw [decide_eq_false (Nat.not_lt.mpr h)] at this
        simpa using this
      · have := hg.value value.toNat
        rw [h] at this
        simpa using this
    · have h1 := hg.index inst
      rw [decide_eq_true hi] at h1
      have h2 := hg.value value.toNat
      rw [hv] at h2
      obtain ⟨i, hi⟩ := Option.isSome_iff_exists.mp h1
      obtain ⟨v, hv⟩ := Option.isSome_iff_exists.mp h2
      refine hg.refuses hr hl hy (configure_wrongState (hh.trans hc) hi hv ?_)
      rw [hg.barred hs]
      exact bne_iff_ne.mpr hst
  · have hi : masterInstance? inst = some m := by
      have : inst = BitVec.ofNat 8 (portCode m) := by
        rw [← hm, BitVec.ofNat_toNat, BitVec.setWidth_eq]
      rw [this]
      exact masterInstance?_portCode m
    exact group_quota.refuses hr hl hy (configure_wrongState (hh.trans hc) hi (numberIn?_of h1 h64) (decide_eq_true howned))

end Sys2Proof.Machine
end

section
/-! SUPPORT. CONFIGURE: what an accepted write stores and does (O44). -/

set_option Elab.async false

namespace Sys2Proof.Machine

theorem paramId_eq (g : Byte) {n : Nat} (hn : n < 256) : paramId g (BitVec.ofNat 8 n) = BitVec.ofNat 16 (256 * g.toNat + n) := by
  apply BitVec.eq_of_toNat_eq
  unfold paramId
  rw [BitVec.toNat_append, BitVec.toNat_ofNat, BitVec.toNat_ofNat, Nat.shiftLeft_eq, Nat.mod_eq_of_lt hn, ← Nat.shiftLeft_eq,
    ← Nat.shiftLeft_add_eq_or_of_lt hn, Nat.shiftLeft_eq]
  have := g.isLt
  omega

/-- A CONFIGURE answered, with its record and those that follow it, and nothing stored yet. -/
def configureWrote (s : State) (p : Port) (tag : Byte) (id : BitVec 16) (old v : Nat) (more : List (Origin × Body)) : State :=
  { answeredFrame s p 13 tag .ok (be 4 old ++ be 4 v) with
    journal := s.journal.storing s.time.partTime (quality s) ((.master p, .config id old v) :: more) }

/-- An accepted write once its record is stored, before the value. -/
def configureRecorded (s : State) (p : Port) (id : BitVec 16) (old v : Nat) : State :=
  { taken s p 6 with journal := s.journal.storing s.time.partTime (quality s) [(.master p, .config id old v)] }

section
variable {ι α : Type} {x : Parameter ι α} {p : Port} {inst : Byte} {value : BitVec 32} {s : State}
  {row : Port → Byte → Byte → BitVec 32 → Instr} {n : Nat} {values : Nat → Bool} {stopped : Bool} {tag : Byte} {y : Session} {i : ι} {v : α}

theorem exec_configure_stores (hg : GroupOf row x n values stopped) (hr : Ready s p) (hy : OpenLive s p y) (hh : s.holds p .config = true)
    (hroom : RoomFor 1 s) (hi : x.index? inst = some i) (hv : x.value? value.toNat = some v) (hb : x.barred i v (taken s p 6) = false) :
    exec (row p tag inst value) s
      = .next (conclude (respond p tag (okay (be 4 (x.stored i (taken s p 6)) ++ be 4 value.toNat))
          (x.store i v (configureRecorded s p (paramId x.group inst) (x.stored i (taken s p 6)) value.toNat)))) := by
  rw [hg.exec, onCommand_live hr hy, configure_stores (s := taken s p 6) hh hi hv hb,
    offer_eq_storing (s := taken s p 6) (hroom.congr rfl rfl)]
  rfl

theorem respond_configureRecorded (s : State) (p : Port) (tag : Byte) (id : BitVec 16) (old v : Nat) :
    respond p tag (okay (be 4 old ++ be 4 v)) (configureRecorded s p id old v) = configureWrote s p tag id old v [] :=
  congrArg (fun u : State =>
    { u with journal := s.journal.storing s.time.partTime (quality s) [(.master p, .config id old v)] }) (respond_taken s p 6 tag _)

/-- A write that stores its value beside the ports. -/
theorem exec_configure_accepts (hg : GroupOf row x n values stopped) (hr : Ready s p) (hy : OpenLive s p y) (hh : s.holds p .config = true)
    (hroom : RoomFor 1 s) (hi : x.index? inst = some i) (hv : x.value? value.toNat = some v) (hb : x.barred i v (taken s p 6) = false)
    (hc : ∀ r u, respond p tag r (x.store i v u) = x.store i v (respond p tag r u)) {id : BitVec 16} (hid : paramId x.group inst = id) :
    exec (row p tag inst value) s
      = .next (conclude (x.store i v (configureWrote s p tag id (x.stored i (taken s p 6)) value.toNat []))) := by
  rw [← hid, exec_configure_stores hg hr hy hh hroom hi hv hb, hc, respond_configureRecorded]

end

/-! ### Output lines -/

theorem respond_ite {c : Prop} [Decidable c] (p : Port) (tag : Byte) (r : Reply) (a b : State) :
    respond p tag r (if c then a else b) = if c then respond p tag r a else respond p tag r b := apply_ite (respond p tag r) c a b

theorem setOut_self (s : State) (k : Fin 8) : s.setOut k (s.out k) = s :=
   congrArg (fun v : Vector OutLine 8 => { s with outs := v }) (Vector.set_getElem_self ..)

theorem storeSafeLevel_eq (k : Fin 8) (v : Level) (s : State) :
    storeSafeLevel k v s
      = s.setOut k
          (if (s.out k).safe = v then s.out k
          else if (s.out k).gated then { s.out k with safe := v, commanded := v, pulse := none }
          else { s.out k with safe := v }) := by
  unfold storeSafeLevel
  dsimp only
  split
  · exact (setOut_self s k).symm
  · split
    · unfold handLevel
      rw [out_setOut_same, setOut_setOut]
    · rfl

theorem storeGatedFlag_keeps {k : Fin 8} {v : Bool} {s : State} (h : v = false ∨ (s.out k).gated = true) :
    storeGatedFlag k v s = s.setOut k { s.out k with gated := v } := by
  unfold storeGatedFlag
  split
  · next hv =>
    subst hv
    exact (setOut_self s k).symm
  · next hv =>
    cases v with
    | false => rfl
    | true => exact absurd (h.resolve_left (by simp)) hv

/-- A gated flag that is set, with room for the records of the entries it takes (R99, R113). -/
theorem storeGatedFlag_sets {k : Fin 8} {s : State} {L : List (Fin 64)} (hg : (s.out k).gated = false)
    (hL : Listed s (fun e => e.line = some k) admittedBefore L) (hr : RoomFor L.length s) :
    storeGatedFlag k true s
      = (State.mapEntries { s with journal := s.journal.storing s.time.partTime (quality s) (cancelRecords s .permitStop L) }
          fun e => if e.line = some k then none else some e).setOut k
            { s.out k with gated := true, commanded := (s.out k).safe, pulse := none } := by
  have hocc : ∀ i ∈ L, (s.entry i).isSome = true := fun i hi => by
    obtain ⟨e, he, _⟩ := (hL.1 i).mp hi
    exact Option.isSome_iff_exists.mpr ⟨e, he⟩
  have hcancel : cancelWhere .permitStop (fun e => e.line == some k) s = s.cancelled .permitStop L := by
    rw [cancelWhere, hL.byAdmission (fun e => by simp)]
    exact cancel_foldl hL.nodup_admission hocc hr
  have hslots : (s.emptied L).schedule = (s.mapEntries fun e => if e.line = some k then none else some e).schedule := by
    have h := emptied_eq_mapEntries (s := s) (L := L) (t := fun e => e.line == some k) fun i => (hL.1 i).trans (by simp)
    simpa using h
  unfold storeGatedFlag
  rw [if_neg (by simp [hg]), if_pos rfl, hcancel]
  unfold handLevel
  dsimp only
  rw [out_setOut_same, setOut_setOut]
  unfold State.cancelled
  rw [hslots]
  rfl

/-! ### Condition actions -/

/-- Drives that the conclusion of the command forms again need not be formed before (R109). -/
theorem conclude_redriven {s : State} (ht : s.tickWork = []) (hr : s.rstn = .high) (hp : s.permit.state ≠ .held) (f : OutLine → Level) :
    conclude (s.gatedLines fun o => { o with driven := f o }) = conclude s := by
  have hline : ∀ o : OutLine, (if o.gated then { o with driven := f o } else o).formed s.permit.state = o.formed s.permit.state := fun o => by
    unfold OutLine.formed OutLine.drive
    by_cases hg : o.gated = true
    · rw [if_pos hg]
      dsimp only
      rw [if_pos hg, if_pos hg]
      cases h : s.permit.state with
      | held => exact absurd h hp
      | stopped => rfl
      | arming => rfl
      | running => rfl
    · rw [if_neg hg]
  have hdrives : formDrives (s.gatedLines fun o => { o with driven := f o }) = formDrives s := by
    unfold formDrives State.gatedLines
    dsimp only
    rw [Vector.map_map]
    exact congrArg (fun v : Vector OutLine 8 => { s with outs := v }) (congrArg (Vector.map · s.outs) (funext hline))
  have hopen : tickOpen (s.gatedLines fun o => { o with driven := f o }) = tickOpen s := rfl
  have hrst : (s.gatedLines fun o => { o with driven := f o }).rstn = s.rstn := rfl
  unfold conclude
  rw [hopen, hrst, tickOpen_of_nil ht, hr, hdrives]
  rfl

/-- From STOPPED the permit stays there, arms or runs (R146). -/
theorem permitAfter_ne_held {pm : Permit} (h : pm.state = .stopped) (time : Nat) (cause : PermitCause) :
    (permitAfter pm time cause).state ≠ .held := by
  rw [permitAfter_state, h]
  split
  · simp
  · cases formAggregate pm <;> simp [nextPermitState]
    split <;> simp

/-- A start of the permit, once the command concludes: its record, PERMIT for every session, and nothing else (R147). -/
theorem conclude_started {s : State} {pm : Permit} {cause : PermitCause} (ht : s.tickWork = []) (hr : s.rstn = .high)
    (hs : s.permit.state = .stopped) (hne : pm.state ≠ .stopped) (hh : pm.state ≠ .held) :
    conclude (permitChanged s pm cause none [])
      = conclude { s.permitted pm [permitRecord s pm cause] with ports := noticed 0x04#8 s.ports } := by
  cases hnew : pm.state with
  | stopped => exact absurd hnew hne
  | held => exact absurd hnew hh
  | arming =>
    rw [permitChanged_arming cause none [] hnew (by rw [hs]; simp), permitNoticed_none]
    exact conclude_redriven (s := { s.permitted pm [permitRecord s pm cause] with ports := noticed 0x04#8 s.ports }) ht hr hh _
  | running =>
    rw [permitChanged_running cause none [] hnew (by rw [hs]; simp) (by rw [hs]; simp), permitNoticed_none]
    exact conclude_redriven (s := { s.permitted pm [permitRecord s pm cause] with ports := noticed 0x04#8 s.ports }) ht hr hh _

/-- The conditions with an action changed, and the part vote formed again (R168). -/
def actionChanged (c : Condition) (v : ConditionAction) (x : Conditions) : Conditions :=
  { x.set c { x.get c with action := v } with partVote := formPartVote (x.set c { x.get c with action := v }) }

theorem storeConditionAction_same {c : Condition} {v : ConditionAction} {s : State} (h : (s.condition c).action = v) :
    storeConditionAction c v s = s := if_pos h

theorem storeConditionAction_eq {c : Condition} {v : ConditionAction} {s : State} (h : (s.condition c).action ≠ v) :
    storeConditionAction c v s = takePartVote { s with conditions := actionChanged c v s.conditions } := if_neg h

end Sys2Proof.Machine
end

section
/-! SUPPORT. O44: what an accepted CONFIGURE stores and does. -/

set_option Elab.async false

namespace Sys2Proof.Machine

/-- A group in a state of the permit that its writes need. -/
theorem notBarred_of_stopped {ι α : Type} {x : Parameter ι α} (hx : x.barred = stoppedOnly) (i : ι) (v : α) {s : State}
    (h : s.permit.state = .stopped) : x.barred i v s = false := by
  rw [hx]
  unfold stoppedOnly
  rw [h]
  rfl

section
variable {s : State} {p : Port} {tag : Byte} {value : BitVec 32} {x : Session} (hr : Ready s p) (hy : OpenLive s p x)
  (hh : s.holds p .config = true) (hroom : RoomFor 1 s)
include hr hy hh hroom

/-- A changed condition action, by whether the permit starts (R146, R167, R168). -/
theorem exec_configureConditionAction {c : Condition} (hv : value.toNat ≤ 1) (hst : s.permit.state = .stopped) (hroom2 : RoomFor 2 s)
    {action : ConditionAction} (haction : action = if value.toNat = 1 then .stop else .note) {pm : Permit}
    (hpm : pm = votedPermit s.permit (formPartVote (s.conditions.set c { s.condition c with action := action })) s.time.partTime)
    (hne : (s.condition c).action ≠ action) :
    (pm.state = .stopped →
        exec (.configureConditionAction p tag (BitVec.ofNat 8 (conditionCode c)) value) s
          = .next (conclude
              { configureWrote s p tag (BitVec.ofNat 16 (0xC00 + conditionCode c)) (conditionActionCode (s.condition c).action) value.toNat [] with
                conditions := actionChanged c action s.conditions, permit := pm }))
      ∧ (pm.state ≠ .stopped →
        exec (.configureConditionAction p tag (BitVec.ofNat 8 (conditionCode c)) value) s
          = .next (conclude
              (let u := configureWrote s p tag (BitVec.ofNat 16 (0xC00 + conditionCode c)) (conditionActionCode (s.condition c).action) value.toNat
                [(.part, .permit .stopped pm.state .partVote)]
              { u with conditions := actionChanged c action s.conditions, permit := pm, ports := noticed 0x04#8 u.ports }))) := by
  have hid : paramId 0x0C#8 (BitVec.ofNat 8 (conditionCode c)) = BitVec.ofNat 16 (0xC00 + conditionCode c) :=
    paramId_eq _ (by cases c <;> decide)
  have hexec := exec_configure_stores (tag := tag) group_conditionAction hr hy hh hroom (conditionOf?_conditionCode c)
    (conditionActionOf?_of hv) (notBarred_of_stopped (s := taken s p 6) rfl c _ hst)
  rw [← haction, show paramConditionAction.group = 0x0C#8 from rfl, hid,
    show paramConditionAction.stored c (taken s p 6) = conditionActionCode (s.condition c).action from rfl] at hexec
  generalize hrec : configureRecorded s p (BitVec.ofNat 16 (0xC00 + conditionCode c)) (conditionActionCode (s.condition c).action) value.toNat
    = w at hexec
  have hwcond : w.conditions = s.conditions := by rw [← hrec]; rfl
  have hwpermit : w.permit = s.permit := by rw [← hrec]; rfl
  have hwtime : w.time = s.time := by rw [← hrec]; rfl
  have hstore : paramConditionAction.store c action w = takePartVote { w with conditions := actionChanged c action s.conditions } := by
    rw [← hwcond]
    exact storeConditionAction_eq (s := w) (by unfold State.condition; rw [hwcond]; exact hne)
  have hvoted : votedPermit w.permit (actionChanged c action s.conditions).partVote w.time.partTime = pm := by
    rw [hwpermit, hwtime, hpm]
    rfl
  have hresp := respond_configureRecorded s p tag (BitVec.ofNat 16 (0xC00 + conditionCode c)) (conditionActionCode (s.condition c).action)
    value.toNat
  rw [hrec] at hresp
  refine ⟨fun hs => ?_, fun hs => ?_⟩
  · have ht := takePartVote_same (s := { w with conditions := actionChanged c action s.conditions })
      (by dsimp only; rw [hvoted, hwpermit, hst, hs])
    dsimp only at ht
    rw [hexec, hstore, ht, hvoted]
    exact congrArg (fun u : State => Host.Outcome.next (conclude
      { u with conditions := actionChanged c action s.conditions, permit := pm })) hresp
  · have hheld : pm.state ≠ .held := by
      rw [hpm]
      unfold votedPermit
      split
      · rw [hst]
        simp
      · refine permitAfter_ne_held ?_ _ _
        exact hst
    have hroomw : RoomFor (1 + 2 * ([] : List (Fin 64)).length) w :=
      RoomFor.storing (s := s) (t := s.time.partTime) (q := quality s) (l := [_]) hroom2 (by rw [← hrec]; rfl) (by rw [← hrec]; rfl)
    have htakes : PermitTakes { w with conditions := actionChanged c action s.conditions } pm [] := by
      unfold PermitTakes
      rw [if_neg (by rw [hwpermit, hst]; exact hs), if_neg hs, if_neg (by rw [hwpermit, hst]; simp)]
    have ht := takePartVote_eq (s := { w with conditions := actionChanged c action s.conditions }) (L := [])
      (by dsimp only; rw [hvoted]; exact htakes) (hroomw.congr rfl rfl)
    dsimp only at ht
    rw [hexec, hstore, ht, hvoted, respond_permitChanged]
    have hw : respond p tag (okay (be 4 (conditionActionCode (s.condition c).action) ++ be 4 value.toNat))
        { w with conditions := actionChanged c action s.conditions }
        = { configureWrote s p tag (BitVec.ofNat 16 (0xC00 + conditionCode c)) (conditionActionCode (s.condition c).action) value.toNat [] with
            conditions := actionChanged c action s.conditions } :=
      congrArg (fun u : State => { u with conditions := actionChanged c action s.conditions }) hresp
    rw [hw]
    have hstart := conclude_started
      (s := { configureWrote s p tag (BitVec.ofNat 16 (0xC00 + conditionCode c)) (conditionActionCode (s.condition c).action) value.toNat [] with
        conditions := actionChanged c action s.conditions }) (pm := pm) (cause := .partVote) (quiet_facts hr.calm).1 hr.rstn hst hs hheld
    rw [hstart]
    refine congrArg (fun u => Host.Outcome.next (conclude u)) ?_
    have hj := storing_storing s.journal s.time.partTime (quality s)
      [(Origin.master p, Body.config (BitVec.ofNat 16 (0xC00 + conditionCode c)) (conditionActionCode (s.condition c).action) value.toNat)]
      [(Origin.part, Body.permit s.permit.state pm.state .partVote)]
    conv at hj => rhs; rw [hst]
    exact congrArg (fun j : Journal =>
      { configureWrote s p tag (BitVec.ofNat 16 (0xC00 + conditionCode c)) (conditionActionCode (s.condition c).action) value.toNat [] with
        conditions := actionChanged c action s.conditions, permit := pm, journal := j
        ports := noticed 0x04#8 (answeredFrame s p 13 tag .ok
          (be 4 (conditionActionCode (s.condition c).action) ++ be 4 value.toNat)).ports }) hj

end

/-- Settles O44: each accepted write is its group's store of the value once the record stands. -/
theorem configureStores : Obligations.ConfigureStores := by
  unfold Obligations.ConfigureStores
  intro s p tag value x hr hl hy hh hroom v level wrote
  have h16 : ∀ n : Fin 16, n.val < 256 := fun n => by omega
  have h8 : ∀ k : Fin 8, k.val < 256 := fun k => by omega
  refine ⟨fun h1 h2 => ?_, fun n => ?_, fun m h1 h2 ho => ?_, fun h => ?_, fun h => ?_, fun k h => ?_, fun c h hst hroom2 => ?_⟩
  · exact exec_configure_accepts group_refHz hr hy hh hroom (i := ()) rfl (numberIn?_of h1 h2) rfl (fun _ _ => rfl) rfl
  · extract_lets inst line c
    refine ⟨fun h => ?_, fun h => ?_, fun h => ?_, fun h => ?_⟩
    · exact exec_configure_accepts group_enabled hr hy hh hroom (inputInstance?_val n) (yesNo?_of h) rfl (fun _ _ => rfl) (paramId_eq _ (h16 n))
    · exact exec_configure_accepts group_edgeSelect hr hy hh hroom (inputInstance?_val n) (edgeSelectOf?_of h) rfl (fun _ _ => rfl)
        (paramId_eq _ (h16 n))
    · exact exec_configure_accepts group_filterLength hr hy hh hroom (inputInstance?_val n) (numberIn?_of (Nat.zero_le _) h) rfl (fun _ _ => rfl)
        (paramId_eq _ (h16 n))
    · exact exec_configure_accepts group_chatterBudget hr hy hh hroom (inputInstance?_val n) (numberIn?_of (Nat.zero_le _) h) rfl (fun _ _ => rfl)
        (paramId_eq _ (h16 n))
  · have hport : portCode m < 256 := by cases m <;> decide
    exact exec_configure_accepts group_quota hr hy hh hroom (masterInstance?_portCode m) (numberIn?_of h1 h2)
      (decide_eq_false (Nat.not_lt.mpr ho)) (fun _ _ => rfl) (paramId_eq _ hport)
  · exact exec_configure_accepts group_lateTolerance hr hy hh hroom (i := ()) rfl (numberIn?_of (Nat.zero_le _) h) rfl (fun _ _ => rfl) rfl
  · exact exec_configure_accepts group_startDelay hr hy hh hroom (i := ()) rfl (numberIn?_of (Nat.zero_le _) h) rfl (fun _ _ => rfl) rfl
  · extract_lets inst o line
    refine ⟨?_, fun hst => ⟨?_, fun hkeeps => ?_, fun L hv hg hL hroomL => ?_⟩⟩
    · exact exec_configure_accepts group_restLevel hr hy hh hroom (outputInstance?_val k) (levelValue?_of h) rfl (fun _ _ => rfl)
        (paramId_eq _ (h8 k))
    · have hstore := exec_configure_accepts (tag := tag) group_safeLevel hr hy hh hroom (outputInstance?_val k) (levelValue?_of h)
        (notBarred_of_stopped (s := taken s p 6) rfl k _ hst) (fun r u => by
          show respond p tag r (storeSafeLevel k _ u) = storeSafeLevel k _ (respond p tag r u)
          rw [storeSafeLevel_eq, storeSafeLevel_eq]
          rfl) (paramId_eq _ (h8 k))
      refine hstore.trans (congrArg (fun u => Host.Outcome.next (conclude u)) ?_)
      exact storeSafeLevel_eq k _ _
    · have hk : ∀ u : State, u.outs = s.outs → decide (v = 1) = false ∨ (u.out k).gated = true := fun u hu => by
        refine hkeeps.imp (fun h0 => by simp [h0]) fun hg => ?_
        unfold State.out
        rw [hu]
        exact hg
      have hexec := exec_configure_stores (tag := tag) group_gatedFlag hr hy hh hroom (outputInstance?_val k) (yesNo?_of h)
        (notBarred_of_stopped (s := taken s p 6) rfl k _ hst)
      refine hexec.trans (congrArg (fun u => Host.Outcome.next (conclude u)) ?_)
      have hstore := storeGatedFlag_keeps (hk (configureRecorded s p (paramId paramGatedFlag.group inst)
        (paramGatedFlag.stored k (taken s p 6)) v) rfl)
      refine (congrArg (respond p tag _) hstore).trans ?_
      have hresp := respond_configureRecorded s p tag (paramId paramGatedFlag.group inst) (paramGatedFlag.stored k (taken s p 6)) v
      refine (congrArg (fun u : State => u.setOut k { o with gated := decide (v = 1) }) hresp).trans ?_
      rw [paramId_eq _ (h8 k)]
      rfl
    · have hexec := exec_configure_stores (tag := tag) group_gatedFlag hr hy hh hroom (outputInstance?_val k) (yesNo?_of h)
        (notBarred_of_stopped (s := taken s p 6) rfl k _ hst)
      rw [decide_eq_true hv] at hexec
      refine hexec.trans (congrArg (fun u => Host.Outcome.next (conclude u)) ?_)
      have hstored : paramGatedFlag.stored k (taken s p 6) = 0 := congrArg yesNoCode hg
      rw [hstored, paramId_eq _ (h8 k)]
      have hroomk : RoomFor L.length (configureRecorded s p (BitVec.ofNat 16 (256 * paramGatedFlag.group.toNat + k.val)) 0 v) :=
        RoomFor.storing (s := s) (t := s.time.partTime) (q := quality s) (l := [_]) (hroomL.mono (by rw [List.length_singleton]; omega)) rfl rfl
      have hstore := storeGatedFlag_sets (s := configureRecorded s p (BitVec.ofNat 16 (256 * paramGatedFlag.group.toNat + k.val)) 0 v)
        (k := k) (L := L) hg hL hroomk
      refine (congrArg (respond p tag _) hstore).trans ?_
      have hresp := respond_configureRecorded s p tag (BitVec.ofNat 16 (256 * paramGatedFlag.group.toNat + k.val)) 0 v
      have hj := storing_storing s.journal s.time.partTime (quality s)
        [(Origin.master p, Body.config (BitVec.ofNat 16 (256 * paramGatedFlag.group.toNat + k.val)) 0 v)] (cancelRecords s .permitStop L)
      have hset := (congrArg (fun u : State => (State.mapEntries
        { u with
          journal := s.journal.storing s.time.partTime (quality s)
            ((Origin.master p, Body.config (BitVec.ofNat 16 (256 * paramGatedFlag.group.toNat + k.val)) 0 v) :: cancelRecords s .permitStop L) }
        (fun e => if e.line = some k then none else some e)).setOut k { o with gated := true, commanded := o.safe, pulse := none }) hresp)
      refine Eq.trans ?_ hset
      exact congrArg (fun j : Journal => respond p tag (okay (be 4 0 ++ be 4 v)) ((State.mapEntries { taken s p 6 with journal := j }
        (fun e => if e.line = some k then none else some e)).setOut k { o with gated := true, commanded := o.safe, pulse := none })) hj
  · intro i r action changed vote pm wrote'
    have key := exec_configureConditionAction (tag := tag) hr hy hh hroom (c := c) h hst hroom2 rfl (pm := pm) rfl
    refine ⟨fun hs => ?_, fun hne hs => (key hne).1 hs, fun hne hs => (key hne).2 hs⟩
    have hexec := exec_configure_stores (tag := tag) group_conditionAction hr hy hh hroom (conditionOf?_conditionCode c)
      (conditionActionOf?_of h) (notBarred_of_stopped (s := taken s p 6) rfl c _ hst)
    refine hexec.trans (congrArg (fun u => Host.Outcome.next (conclude u)) ?_)
    have hid : paramId paramConditionAction.group (BitVec.ofNat 8 (conditionCode c)) = BitVec.ofNat 16 (0xC00 + conditionCode c) :=
      paramId_eq _ (by cases c <;> decide)
    rw [hid]
    exact (congrArg (respond p tag _) (storeConditionAction_same (s := configureRecorded s p _ _ _) hs)).trans
      (respond_configureRecorded s p tag _ _ _)

end Sys2Proof.Machine
end

section
/-! SUPPORT. Notes, pins and the re-examination (O30, O31). -/

set_option Elab.async false

namespace Sys2Proof.Machine

theorem pushed_eq (r : Record) (x : Session) : pushed r x = x.pushPast r := by
  unfold pushed Session.pushPast satSucc Config.countLimit
  by_cases hc : x.reader.cursor = r.seq
  · by_cases ha : x.reader.filter.accepts r = true <;> simp [hc, ha]
  · simp [hc]

/-- The levels are formed from what the store holds, not from the counts or the state of the journal, nor from raises. -/
theorem conclude_recounted (s : State) {j : Journal} (h : j.store = s.journal.store) (c : Conditions) :
    conclude { s with journal := j, conditions := c } = { conclude s with journal := j, conditions := c } := by
  have hatn : ∀ u : State, u.journal = s.journal → ∀ p, atnLevel { u with journal := j, conditions := c } p = atnLevel u p := fun u hu p => by
    have hs : ∀ x, pendingSet { u with journal := j, conditions := c } x = pendingSet u x := fun x => by
      unfold pendingSet journalLevel holdsMatch
      rw [hu]
      dsimp only
      rw [h]
    unfold atnLevel
    rw [show State.session { u with journal := j, conditions := c } p = u.session p from rfl]
    split
    · rfl
    · rw [hs]
  have hform : ∀ u : State, u.journal = s.journal →
      formAtn { u with journal := j, conditions := c } = { formAtn u with journal := j, conditions := c } := fun u hu => by
    unfold formAtn
    have hp : (u.ports.mapIdx fun p x => { x with atn := atnLevel { u with journal := j, conditions := c } p })
        = u.ports.mapIdx fun p x => { x with atn := atnLevel u p } := by
      simp only [hatn u hu]
    exact congrArg (fun v => { u with journal := j, conditions := c, ports := v }) hp
  have hopen : tickOpen { s with journal := j, conditions := c } = tickOpen s := rfl
  unfold conclude
  rw [hopen]
  split
  · exact hform (formDrives s) rfl
  · exact hform s rfl

/-- An answer beside which the journal is only recounted. -/
theorem conclude_respond_recounted {s : State} {p : Port} {n : Nat} (hl : LevelsFormed s) (tag : Byte) (r : Reply) (j : Journal)
    (h : j.store = s.journal.store) (c : Conditions) :
    conclude (respond p tag r { taken s p n with journal := j, conditions := c })
      = { answeredFrame s p (n + 7) tag r.status r.payload with journal := j, conditions := c } :=
  (conclude_recounted (respond p tag r (taken s p n)) h c).trans
    (congrArg (fun u : State => { u with journal := j, conditions := c }) (conclude_respond_taken hl tag r))

/-! ### POST_NOTE -/

section
variable {s : State} {p : Port} {tag : Byte} {note : List Byte} {x : Session} (hr : Ready s p) (hx : OpenLive s p x)

theorem noteFits_iff {note : List Byte} : noteFits note = true ↔ 1 ≤ note.length ∧ note.length ≤ 16 := by
  unfold noteFits
  simp

theorem exec_postNote (h1 : 1 ≤ note.length) (h2 : note.length ≤ 16) :
    exec (.postNote p tag note) s = .next (onCommand p tag note.length .liveSession (takePostNote p note) s) := by
  have h : postNoteCommand p note = .known .liveSession (takePostNote p note) := if_pos (noteFits_iff.mpr ⟨h1, h2⟩)
  show Host.Outcome.next (onFrame p tag note.length (postNoteCommand p note) s) = _
  rw [h]
  rfl

/-- What the journal answers a block that offers a record, by its state (R43, R44). -/
theorem offerSeq_withholding {s : State} (h : s.journal.state = .withholding) : offerSeq s = none := by
  unfold offerSeq
  rw [h]
  split <;> rfl

theorem offerSeq_pinned {s : State} (hfull : 512 ≤ s.journal.store.length) (hp : oldestPinned s = true) : offerSeq s = none := by
  unfold offerSeq Config.journalCapacity
  split
  · rfl
  · split
    · rfl
    · simp [Nat.not_lt.mpr hfull]

theorem offerSeq_unpinned {s : State} (hr : s.rstn = .high) (ha : s.journal.state = .accepting) (hp : oldestPinned s = false) :
    offerSeq s = some s.journal.counter := by
  unfold offerSeq
  rw [if_neg (rstn_ne_low hr), ha, hp]
  dsimp only
  split <;> rfl

theorem offerSeq_room {s : State} (h : RoomFor 1 s) : offerSeq s = some s.journal.counter := by
  have hroom := h.room
  unfold offerSeq Config.journalCapacity
  rw [if_neg (rstn_ne_low h.rstn), h.accepting]
  dsimp only
  rw [if_pos (by omega)]

theorem takePostNote_stored {seq : Nat} (h : offerSeq s = some seq) :
    takePostNote p note s
      = (offer (.master p) (.note note) s, okay (be 8 seq)) := by
  unfold takePostNote
  rw [h]

theorem takePostNote_withheld (h : offerSeq s = none) :
    takePostNote p note s
      = (offer (.master p) (.note note) s, { status := .withheld, payload := [] }) := by
  unfold takePostNote
  rw [h]

theorem oldestPinned_taken (s : State) (p : Port) (n : Nat) : oldestPinned (taken s p n) = oldestPinned s :=
  oldestPinned_of_readers rfl fun q => by
    rw [session_taken]
    split
    · next h =>
      rw [h, Option.map_map]
      exact congrArg (fun f => (s.session p).map f) (funext restarted_reader)
    · rfl

theorem offer_pinned {s : State} (hr : s.rstn = .high) (ha : s.journal.state = .accepting) (hfull : 512 ≤ s.journal.store.length)
    (hp : oldestPinned s = true) (o : Origin) (b : Body) : offer o b s = enterWithholding s := by
  unfold offer offerAs Config.journalCapacity
  rw [if_neg (rstn_ne_low hr), ha]
  dsimp only
  rw [if_neg (Nat.not_lt.mpr hfull), if_pos hp]

theorem offer_unpinned {s : State} (hr : s.rstn = .high) (ha : s.journal.state = .accepting) (hfull : 512 ≤ s.journal.store.length)
    (hp : oldestPinned s = false) (o : Origin) (b : Body) :
    offer o b s = storeRecord s.time.partTime (quality s) o b (retireOldest s) := by
  unfold offer offerAs Config.journalCapacity
  rw [if_neg (rstn_ne_low hr), ha]
  dsimp only
  rw [if_neg (Nat.not_lt.mpr hfull), if_neg (by simp [hp])]

/-- Settles O30: each of the four cases of the append decision, with the note's answer. -/
theorem postNoteDecides : Obligations.PostNoteDecides := by
  unfold Obligations.PostNoteDecides
  intro s p tag note x hr hl hx
  have hpin := oldestPinned_taken s p note.length
  refine ⟨fun h => ?_, fun h1 h2 => ⟨fun hroom => ?_, fun hw => ?_, fun ha hfull hp => ?_, fun r rest ha hfull hstore hp => ?_⟩⟩
  · have hbad : postNoteCommand p note = .badLength := if_neg fun hf => by
      obtain ⟨h1, h2⟩ := noteFits_iff.mp hf
      rcases h with rfl | h
      · simp at h1
      · omega
    show Host.Outcome.next (onFrame p tag note.length (postNoteCommand p note) s) = _
    rw [hbad, onFrame_ready hr]
    exact congrArg Host.Outcome.next (conclude_respond_taken hl tag (refuse .badLength))
  · rw [exec_postNote h1 h2, onCommand_live hr hx, takePostNote_stored (s := taken s p note.length) (offerSeq_room (hroom.congr rfl rfl)),
      offer_eq_storing (s := taken s p note.length) (hroom.congr rfl rfl)]
    refine congrArg (fun u => Host.Outcome.next (conclude u)) ?_
    exact congrArg (fun u : State => { u with journal := s.journal.storing s.time.partTime (quality s) [(.master p, .note note)] })
      (respond_taken s p note.length tag (okay (be 8 s.journal.counter)))
  · have hoffer : offer (.master p) (.note note) (taken s p note.length) = withhold (taken s p note.length) :=
      offer_of_withholding (s := taken s p note.length) hr.rstn hw _ _
    rw [exec_postNote h1 h2, onCommand_live hr hx, takePostNote_withheld (offerSeq_withholding (s := taken s p note.length) hw), hoffer]
    refine congrArg Host.Outcome.next ?_
    exact conclude_respond_recounted (p := p) (n := note.length) hl tag { status := .withheld, payload := [] }
      { s.journal with withheld := satSucc s.journal.withheld } rfl s.conditions
  · have hoffer : offer (.master p) (.note note) (taken s p note.length) = enterWithholding (taken s p note.length) :=
      offer_pinned (s := taken s p note.length) hr.rstn ha hfull (hpin.trans hp) _ _
    rw [exec_postNote h1 h2, onCommand_live hr hx, takePostNote_withheld (offerSeq_pinned (s := taken s p note.length) hfull (hpin.trans hp)),
      hoffer]
    refine congrArg Host.Outcome.next ?_
    have henter : enterWithholding (taken s p note.length)
        = { taken s p note.length with
            journal := { s.journal with state := .withholding, withheld := 1 }
            conditions := { s.conditions with raises := s.conditions.raises ++ [.journalWithheld] } } :=
      if_neg (rstn_ne_low hr.rstn)
    rw [henter]
    exact conclude_respond_recounted (p := p) (n := note.length) hl tag { status := .withheld, payload := [] }
      { s.journal with state := .withholding, withheld := 1 } rfl _
  · have hoffer := offer_unpinned (s := taken s p note.length) hr.rstn ha hfull (hpin.trans hp) (.master p) (.note note)
    have hstate : exec (.postNote p tag note) s
        = .next (conclude (respond p tag (okay (be 8 s.journal.counter)) (offer (.master p) (.note note) (taken s p note.length)))) := by
      rw [exec_postNote h1 h2, onCommand_live hr hx,
        takePostNote_stored (offerSeq_unpinned (s := taken s p note.length) hr.rstn ha (hpin.trans hp))]
      rfl
    have hun : Unchanged [.journal, .ports] s (offer (.master p) (.note note) (taken s p note.length)) := by
      rw [hoffer]
      unfold retireOldest
      rw [show (taken s p note.length).journal = s.journal from rfl, hstore]
      intro b hb
      cases b <;> first | rfl | exact absurd (by decide) hb
    refine ⟨_, hstate, ?_, queue_answered (kept_offer _ _ _) tag _, fun q => ?_,
      hun.answered_state hr hl (by decide) (congrArg Permit.state (hun .permit (by decide))) tag _⟩
    · rw [conclude_journal, respond_journal, hoffer]
      unfold storeRecord
      rw [retireOldest_journal, show (taken s p note.length).journal = s.journal from rfl, hstore]
      rfl
    · rw [conclude_session, session_respond, hoffer]
      show (retireOldest (taken s p note.length)).session q = _
      rw [session_retireOldest, show (taken s p note.length).journal = s.journal from rfl, hstore, session_taken_heard]
      exact congrArg (fun f => (heard s p q).map f) (funext fun y => (pushed_eq r y).symm)

end

/-! ### Pins and the re-examination -/

theorem pinned_iff {s : State} {r : Record} :
    pinned s r = true
      ↔ ∃ p x, s.session p = some x ∧ x.reader.mode = .retaining ∧ x.reader.filter.accepts r = true ∧ x.reader.cursor ≤ r.seq := by
  have hp : ∀ p, pinsRecord s r p = true ↔ ∃ x, s.session p = some x ∧ x.reader.mode = .retaining ∧ x.reader.filter.accepts r = true
      ∧ x.reader.cursor ≤ r.seq := fun p => by
    unfold pinsRecord Session.pins
    cases s.session p with
    | none => simp
    | some x => simp [and_assoc]
  have hall : ∀ p : Port, p ∈ allPorts := fun p => by cases p <;> decide
  unfold pinned
  rw [List.any_eq_true]
  constructor
  · rintro ⟨p, -, h⟩
    exact ⟨p, (hp p).mp h⟩
  · rintro ⟨p, h⟩
    exact ⟨p, hall p, (hp p).mpr h⟩

theorem oldestPinned_cons {s : State} {r : Record} {rest : List Record} (h : s.journal.store = r :: rest) : oldestPinned s = pinned s r := by
  unfold oldestPinned
  rw [h]

/-- Settles O31. An offer retires the oldest record only where nothing pins it. -/
theorem pinsAndTheGap : Obligations.PinsAndTheGap := by
  unfold Obligations.PinsAndTheGap
  refine ⟨fun s o b r hmem hp => ?_, fun s r => pinned_iff, fun s h => ?_, fun s r rest hw hstore hp => ?_⟩
  · rcases offerAs_cases s.time.partTime (quality s) o b s with ⟨_, e⟩ | ⟨_, _, e⟩ | ⟨_, _, _, e⟩ | ⟨_, _, _, _, e⟩ | ⟨_, _, _, hun, e⟩
    · rw [offer, e]
      exact hmem
    · rw [offer, e]
      exact hmem
    · rw [offer, e]
      exact List.mem_append_left _ hmem
    · have hj : (enterWithholding s).journal = { s.journal with state := .withholding, withheld := 1 } :=
        (kept_handRaise .journalWithheld _).unchanged .journal (by decide)
      rw [offer, e, hj]
      exact hmem
    · rw [offer, e]
      refine List.mem_append_left _ ?_
      rw [retireOldest_journal]
      cases hs : s.journal.store with
      | nil => rw [hs] at hmem; exact absurd hmem (by simp)
      | cons r0 rest =>
        rw [hs] at hmem
        rcases List.mem_cons.mp hmem with rfl | hm
        · rw [oldestPinned_cons hs, hp] at hun
          exact absurd hun (by simp)
        · exact hm
  · rcases reexamine_cases s with ⟨_, e⟩ | ⟨_, _, e⟩ | ⟨hw, hun, _⟩
    · exact e
    · exact e
    · rcases h with h | h
      · rw [hw] at h; exact absurd h (by simp)
      · rw [hun] at h; exact absurd h (by simp)
  · have he : reexamine s
        = (storeRecord s.time.partTime (quality s) .part (.gap s.journal.withheld) (retireOldest s)).setJournal
            { (storeRecord s.time.partTime (quality s) .part (.gap s.journal.withheld) (retireOldest s)).journal with
              withheld := 0, state := .accepting } := by
      unfold reexamine
      rw [hw]
      dsimp only
      rw [if_neg (by simp [hp])]
    refine ⟨?_, fun q => ?_, (kept_reexamine s).links, ?_⟩
    · rw [he]
      unfold storeRecord
      rw [State.setJournal_journal, State.setJournal_journal, retireOldest_journal, hstore]
      rfl
    · rw [he]
      show (retireOldest s).session q = _
      rw [session_retireOldest, hstore]
      exact congrArg (fun f => (s.session q).map f) (funext fun y => (pushed_eq r y).symm)
    · rw [he]
      unfold retireOldest
      rw [hstore]
      intro b hb
      cases b <;> first | rfl | exact absurd (by decide) hb

end Sys2Proof.Machine
end

section
/-! SUPPORT. The commands of the readers (O32, O33). -/

set_option Elab.async false

namespace Sys2Proof.Machine

/-! ### Answers after a re-examination -/

theorem beside_respond (p : Port) (tag : Byte) (r : Reply) : BesideJournal (respond p tag r) := by
  obtain ⟨g, hg, hr⟩ := respond_linked p tag r
  have he : respond p tag r = fun s => s.linked g := funext hr
  rw [he]
  exact beside_linked hg fun s q => by rw [← hr, session_respond]

theorem respond_reexamine (p : Port) (tag : Byte) (r : Reply) (s : State) : respond p tag r (reexamine s) = reexamine (respond p tag r s) :=
  (beside_respond p tag r).reexamine s

theorem respond_setSession (p : Port) (tag : Byte) (r : Reply) (s : State) (y : Option Session) :
    respond p tag r (s.setSession p y) = (respond p tag r s).setSession p y := by
  unfold respond State.setSession
  simp only [setPort_setPort, port_setPort_same]

theorem setSession_self {s : State} {p : Port} {y : Option Session} (h : s.session p = y) : s.setSession p y = s := by
  have hp : s.ports.set p { s.port p with session := y } = s.ports := PerPort.ext_get fun q => by
    rw [PerPort.get_set]
    split
    · next hq =>
      subst hq
      subst h
      rfl
    · rfl
  exact congrArg (fun v => { s with ports := v }) hp

/-- A taken command that writes its own session, answered. -/
theorem respond_taken_setSession (s : State) (p : Port) (n : Nat) (tag : Byte) (r : Reply) (y : Option Session) :
    respond p tag r ((taken s p n).setSession p y) = (answeredFrame s p (n + 7) tag r.status r.payload).setSession p y := by
  rw [respond_setSession, respond_taken]

/-! ### The scan of READ_JOURNAL -/

/-- The last record examined by a read of n matches: the n-th match, or the newest (R61). -/
def lastExamined (f : Filter) (n : Nat) (l : List Record) : Option Record :=
  if n ≤ (l.filter f.accepts).length then ((l.filter f.accepts).take n).getLast? else l.getLast?

theorem scan_matches (f : Filter) : ∀ (n : Nat) (l : List Record), (scan f n l).1 = (l.filter f.accepts).take n
  | 0, l => by simp [scan]
  | n + 1, [] => rfl
  | n + 1, r :: rest => by
    unfold scan
    split
    · next h => simp [h, scan_matches f n rest]
    · next h => simp [h, scan_matches f (n + 1) rest]

theorem scan_last (f : Filter) : ∀ (n : Nat) (l : List Record), 1 ≤ n → (scan f n l).2 = (lastExamined f n l).map Record.seq
  | n + 1, [], _ => by simp [scan, lastExamined]
  | n + 1, r :: rest, _ => by
    have hlast : ∀ m, lastExamined f m (r :: rest) = if f.accepts r = true then
        (if m ≤ (rest.filter f.accepts).length + 1 then ((r :: rest.filter f.accepts).take m).getLast? else (r :: rest).getLast?)
        else if m ≤ (rest.filter f.accepts).length then ((rest.filter f.accepts).take m).getLast? else (r :: rest).getLast? := fun m => by
      unfold lastExamined
      by_cases h : f.accepts r = true <;> simp [h]
    rw [hlast]
    unfold scan
    split
    · next h =>
      cases n with
      | zero => simp [scan]
      | succ n =>
        dsimp only
        rw [scan_last f (n + 1) rest (by omega)]
        unfold lastExamined
        by_cases hn : n + 1 ≤ (rest.filter f.accepts).length
        · rw [if_pos hn, if_pos (by omega), List.take_succ_cons, List.getLast?_cons]
          cases ((rest.filter f.accepts).take (n + 1)).getLast? <;> rfl
        · rw [if_neg hn, if_neg (by omega), List.getLast?_cons]
          cases rest.getLast? <;> rfl
    · next h =>
      dsimp only
      rw [scan_last f (n + 1) rest (by omega)]
      unfold lastExamined
      by_cases hn : n + 1 ≤ (rest.filter f.accepts).length
      · rw [if_pos hn, if_pos hn]
        have hne : ((rest.filter f.accepts).take (n + 1)) ≠ [] := fun h0 => by
          have := congrArg List.length h0
          rw [List.length_take, List.length_nil] at this
          omega
        obtain ⟨z, hz⟩ := Option.isSome_iff_exists.mp (List.getLast?_isSome.mpr hne)
        rw [hz]
        rfl
      · rw [if_neg hn, if_neg hn, List.getLast?_cons]
        cases rest.getLast? <;> rfl

/-! ### READ_JOURNAL -/

section
variable {s : State} {p : Port} {tag : Byte} {x : Session}

theorem takeReadJournal_badArg {n commit : Byte} (hx : s.session p = some x) (h : n.toNat = 0 ∨ 8 < n.toNat ∨ 2 ≤ commit.toNat) :
    takeReadJournal p n commit (taken s p 2) = (taken s p 2, refuse .badArg) := by
  rw [takeReadJournal, withSession_taken hx]
  by_cases hc : 2 ≤ commit.toNat
  · rw [flagOf?_eq_none hc]
  · rw [flagOf?_of_lt (Nat.not_le.mp hc)]
    dsimp only
    refine if_pos ?_
    rcases h with h | h | h
    · exact .inl (BitVec.eq_of_toNat_eq h)
    · exact .inr h
    · exact absurd h hc

/-- A reader after a read, by the last record examined (R62). -/
theorem afterRead_eq (r : Reader) (last : Option Record) (c : Bool) :
    r.afterRead (last.map Record.seq) c
      = { r with
          readMark := (last.map fun z => z.seq + 1).getD r.cursor
          cursor := if c = true then (last.map fun z => z.seq + 1).getD r.cursor else r.cursor } := by
  cases last <;> rfl

/-- Settles O32: the scan finds the first matches, and its last record is the last examined. -/
theorem readJournalScans : Obligations.ReadJournalScans := by
  unfold Obligations.ReadJournalScans
  intro s p tag n commit x hr hl hx
  have hrow : exec (.readJournal p tag n commit) s = .next (onCommand p tag 2 .anySession (takeReadJournal p n commit) s) := rfl
  refine ⟨fun h => ?_, fun h1 h8 hc => ?_⟩
  · exact answers_of_any hr hx hl (r := refuse .badArg) hrow rfl (takeReadJournal_badArg hx h)
  · intro held matching got last mark more y read
    have hscan1 : (scan x.restarted.reader.filter n.toNat (scanStart (taken s p 2) x.restarted)).1 = got := by
      rw [scan_matches, restarted_reader]
      unfold scanStart
      rw [restarted_reader]
      rfl
    have hscan2 : (scan x.restarted.reader.filter n.toNat (scanStart (taken s p 2) x.restarted)).2 = last.map Record.seq := by
      rw [scan_last _ _ _ h1, restarted_reader]
      unfold scanStart
      rw [restarted_reader]
      rfl
    have hmark : ∀ c : Bool, (x.restarted.reader.afterRead (last.map Record.seq) c)
        = { x.reader with readMark := mark, cursor := if c = true then mark else x.reader.cursor } := fun c => by
      rw [restarted_reader]
      exact afterRead_eq x.reader last c
    have hact : takeReadJournal p n commit (taken s p 2)
        = ((if commit = 1#8 then reexamine ((taken s p 2).setSession p (some y)) else (taken s p 2).setSession p (some y)),
            okay (be 1 got.length ++ [flagByte more] ++ be 4 x.reader.missed ++ got.flatMap recordBytes)) := by
      rw [takeReadJournal, withSession_taken hx, flagOf?_of_lt hc]
      dsimp only
      have hrange : ¬ (n = 0#8 ∨ Config.readLimit < n.toNat) := fun h => by
        rcases h with rfl | h
        · simp at h1
        · exact absurd h8 (Nat.not_le.mpr h)
      rw [if_neg hrange, hscan1, hscan2, hmark]
      have hy : ({ x.restarted with reader := { x.reader with readMark := mark, cursor := if (commit == 1#8) = true then mark else x.reader.cursor } } :
          Session) = y := by
        simp only [beq_iff_eq]
        rfl
      rw [hy]
      simp only [beq_iff_eq]
      rfl
    rw [hrow, onCommand_any hr hx, hact]
    dsimp only
    rw [apply_ite (respond p tag _), respond_reexamine, respond_taken_setSession]
    rfl

end

/-! ### The commands that move the reader -/

section
variable {s : State} {p : Port} {x : Session}

theorem restarted_with_reader (x : Session) : { x.restarted with reader := x.reader } = x.restarted := by
  rw [← restarted_reader]

/-- A reader command answered OK: the reader it sets, then the re-examination. -/
theorem reader_command {n : Nat} {f : TakenFrom} {act : Act} {reader : Reader} {tag : Byte}
    (hchecks : onCommand p tag n f act s = conclude (respond p tag (act (taken s p n)).2 (act (taken s p n)).1))
    (hact : act (taken s p n) = (reexamine ((taken s p n).setSession p (some { x.restarted with reader := reader })), okay [])) :
    onCommand p tag n f act s
      = conclude (reexamine ((answeredFrame s p (n + 7) tag .ok []).setSession p (some { x.restarted with reader := reader }))) := by
  rw [hchecks, hact]
  dsimp only
  rw [respond_reexamine, respond_taken_setSession]
  rfl

/-- The reader command of a row, answered OK. -/
theorem exec_reader {i : Instr} {n : Nat} {f : TakenFrom} {act : Act} {reader : Reader} {tag : Byte}
    (hrow : exec i s = .next (onCommand p tag n f act s)) (hout : answeredOnly s i .ok [] = answeredFrame s p (n + 7) tag .ok [])
    (hchecks : onCommand p tag n f act s = conclude (respond p tag (act (taken s p n)).2 (act (taken s p n)).1))
    (hact : act (taken s p n) = (reexamine ((taken s p n).setSession p (some { x.restarted with reader := reader })), okay [])) :
    exec i s = .next (conclude (reexamine ((answeredOnly s i .ok []).setSession p (some { x.restarted with reader := reader })))) := by
  rw [hrow, hout, reader_command hchecks hact]

section
variable (hx : s.session p = some x) (n : Nat)
include hx

theorem takeAckJournal_refused {upto : BitVec 64} (h1 : x.reader.cursor ≤ upto.toNat) (h2 : x.reader.readMark ≤ upto.toNat) :
    takeAckJournal p upto (taken s p n) = (taken s p n, refuse .badArg) := by
  rw [takeAckJournal, withSession_taken hx, restarted_reader]
  exact if_pos ⟨h2, h1⟩

theorem takeAckJournal_moves {upto : BitVec 64} (h1 : x.reader.cursor ≤ upto.toNat) (h2 : upto.toNat < x.reader.readMark) :
    takeAckJournal p upto (taken s p n)
      = (reexamine ((taken s p n).setSession p (some { x.restarted with reader := { x.reader with cursor := upto.toNat + 1 } })), okay []) := by
  rw [takeAckJournal, withSession_taken hx, restarted_reader, if_neg (fun h => absurd h.1 (Nat.not_le.mpr h2)), if_pos h1]

theorem takeAckJournal_below {upto : BitVec 64} (h : upto.toNat < x.reader.cursor) :
    takeAckJournal p upto (taken s p n)
      = (reexamine ((taken s p n).setSession p (some { x.restarted with reader := x.reader })), okay []) := by
  have hself : (taken s p n).setSession p (some x.restarted) = taken s p n :=
    setSession_self (by rw [session_taken, if_pos rfl, hx]; rfl)
  rw [takeAckJournal, withSession_taken hx, restarted_reader, if_neg (fun hc => absurd hc.2 (Nat.not_le.mpr h)),
    if_neg (Nat.not_le.mpr h), restarted_with_reader, hself]

theorem takeSeekJournal_to {where_ : Byte} {seq : BitVec 64} {t : Nat} (h : seekTarget? where_ seq.toNat (taken s p n) = some t) :
    takeSeekJournal p where_ seq (taken s p n)
      = (reexamine ((taken s p n).setSession p (some { x.restarted with reader := { x.reader with cursor := t, readMark := t } })), okay []) := by
  rw [takeSeekJournal, withSession_taken hx, h, restarted_reader]

theorem takeSeekJournal_refused {where_ : Byte} {seq : BitVec 64} (h : seekTarget? where_ seq.toNat (taken s p n) = none) :
    takeSeekJournal p where_ seq (taken s p n) = (taken s p n, refuse .badArg) := by
  rw [takeSeekJournal, withSession_taken hx, h]

theorem takeSetFilter_inRange {f : Filter} (h : f.inRange = true) :
    takeSetFilter p f (taken s p n)
      = (reexamine ((taken s p n).setSession p (some { x.restarted with reader := { x.reader with filter := f, readMark := x.reader.cursor } })),
          okay []) := by
  rw [takeSetFilter, withSession_taken hx, if_pos h, restarted_reader]

theorem takeSetFilter_refused {f : Filter} (h : f.inRange = false) :
    takeSetFilter p f (taken s p n) = (taken s p n, refuse .badArg) := by
  rw [takeSetFilter, withSession_taken hx, if_neg (by simp [h])]

theorem takeSetReaderMode_to {mode : Byte} {m : ReaderMode} (h : readerModeOf? mode = some m) :
    takeSetReaderMode p mode (taken s p n)
      = (reexamine ((taken s p n).setSession p (some { x.restarted with reader := { x.reader with mode := m } })), okay []) := by
  rw [takeSetReaderMode, withSession_taken hx, h, restarted_reader]

theorem takeSetReaderMode_refused {mode : Byte} (h : readerModeOf? mode = none) :
    takeSetReaderMode p mode (taken s p n) = (taken s p n, refuse .badArg) := by
  rw [takeSetReaderMode, withSession_taken hx, h]

end

/-- Where a seek goes, by what it names (R66). -/
theorem seekTarget?_named {seq : Nat} (u : State) (h1 : oldestSeq u ≤ seq) (h2 : seq ≤ endSeq u) : seekTarget? 2#8 seq u = some seq := by
  unfold seekTarget?
  rw [if_pos rfl, if_pos ⟨h1, h2⟩]

theorem seekTarget?_outside {seq : Nat} (u : State) (h : seq < oldestSeq u ∨ endSeq u < seq) : seekTarget? 2#8 seq u = none := by
  unfold seekTarget?
  rw [if_pos rfl, if_neg (by omega)]

theorem seekTarget?_none {where_ : Byte} {seq : BitVec 64} (u : State) (h : 3 ≤ where_.toNat ∨ (where_.toNat ≤ 1 ∧ seq ≠ 0#64)) :
    seekTarget? where_ seq.toNat u = none := by
  have h2 : where_ ≠ 2#8 := by
    rintro rfl
    rcases h with h | h
    · simp at h
    · simp at h
  unfold seekTarget?
  rw [if_neg h2]
  rcases h with h | ⟨_, h⟩
  · rw [readerStart?_eq_none (by omega)]
    exact ite_self _
  · exact if_neg fun h0 => h (BitVec.eq_of_toNat_eq h0)

end

/-- Settles O33: each command's act by where its argument lies; the answer is placed beside the re-examination. -/
theorem readerCommandsMoveTheReader : Obligations.ReaderCommandsMoveTheReader := by
  unfold Obligations.ReaderCommandsMoveTheReader
  intro s p tag x hr hl hx
  dsimp only
  refine ⟨fun upto => ⟨fun h => ?_, fun h1 h2 => ?_, fun h1 h2 => ?_⟩, fun hlive => ?_⟩
  · exact exec_reader rfl rfl (onCommand_any hr hx tag _) (takeAckJournal_below hx 8 h)
  · exact exec_reader rfl rfl (onCommand_any hr hx tag _) (takeAckJournal_moves hx 8 h1 h2)
  · exact answers_of_any hr hx hl (r := refuse .badArg) (act := takeAckJournal p upto) rfl rfl (takeAckJournal_refused hx 8 h1 h2)
  · have hlv : OpenLive s p x := ⟨hx, hlive⟩
    have hlive' : ∀ (n : Nat) (act : Act), onCommand p tag n .liveSession act s
        = conclude (respond p tag (act (taken s p n)).2 (act (taken s p n)).1) := fun n act => onCommand_live hr hlv tag _ act
    refine ⟨fun seq => ⟨fun h0 => ?_, fun h1 h2 => ?_, fun h => ?_, fun where_ h => ?_⟩, fun kinds lines origins => ⟨fun h1 h2 => ?_, fun h => ?_⟩,
      ?_, ?_, fun mode h => ?_⟩
    · subst h0
      exact ⟨exec_reader rfl rfl (hlive' 9 _) (takeSeekJournal_to hx 9 rfl), exec_reader rfl rfl (hlive' 9 _) (takeSeekJournal_to hx 9 rfl)⟩
    · exact exec_reader rfl rfl (hlive' 9 _) (takeSeekJournal_to hx 9 (seekTarget?_named (taken s p 9) h1 h2))
    · exact answers_of_live hr hlv hl (r := refuse .badArg) (act := takeSeekJournal p 2#8 seq) rfl rfl
        (takeSeekJournal_refused hx 9 (seekTarget?_outside (taken s p 9) h))
    · exact answers_of_live hr hlv hl (r := refuse .badArg) (act := takeSeekJournal p where_ seq) rfl rfl
        (takeSeekJournal_refused hx 9 (seekTarget?_none (taken s p 9) h))
    · have hin : Filter.inRange { kinds := kinds, lines := lines, origins := origins } = true :=
        (filter_inRange_iff _).mpr fun h => h.elim (fun h => h h1) fun h => h h2
      exact exec_reader rfl rfl (hlive' 5 _) (takeSetFilter_inRange hx 5 hin)
    · have hout : Filter.inRange { kinds := kinds, lines := lines, origins := origins } = false :=
        Bool.eq_false_iff.mpr fun hin => (filter_inRange_iff _).mp hin h
      exact answers_of_live hr hlv hl (r := refuse .badArg)
        (act := takeSetFilter p { kinds := kinds, lines := lines, origins := origins }) rfl rfl (takeSetFilter_refused hx 5 hout)
    · exact exec_reader rfl rfl (hlive' 1 _) (takeSetReaderMode_to hx 1 rfl)
    · exact exec_reader rfl rfl (hlive' 1 _) (takeSetReaderMode_to hx 1 rfl)
    · exact answers_of_live hr hlv hl (r := refuse .badArg) (act := takeSetReaderMode p mode) rfl rfl
        (takeSetReaderMode_refused hx 1 (readerModeOf?_eq_none h))

end Sys2Proof.Machine
end

section
/-! SUPPORT. Descriptors in range (O34), and the immediate actions of SET_LINE (O40). -/

set_option Elab.async false

namespace Sys2Proof.Machine

/-! ### The fields of a descriptor -/

theorem byte_cases {b : Byte} {n : Nat} (h : b.toNat = n) : b = BitVec.ofNat 8 n := by
  rw [← h, BitVec.ofNat_toNat, BitVec.setWidth_eq]

/-- The action a byte in range names. -/
def actionNamed (b : Byte) : Action :=
  if b = 0#8 then .set else if b = 1#8 then .clear else if b = 2#8 then .toggle else if b = 3#8 then .pulse else .mark

theorem actionOf?_eq_some {b : Byte} {a : Action} : actionOf? b = some a ↔ b.toNat ≤ 4 ∧ a = actionNamed b := by
  by_cases h : b.toNat ≤ 4
  · have hc : b.toNat = 0 ∨ b.toNat = 1 ∨ b.toNat = 2 ∨ b.toNat = 3 ∨ b.toNat = 4 := by omega
    rcases hc with hc | hc | hc | hc | hc <;> rw [byte_cases hc] <;> simp [actionOf?, actionNamed, eq_comm]
  · have hne : ∀ k : Nat, k ≤ 4 → b ≠ BitVec.ofNat 8 k := fun k hk hb => by
      rw [hb, BitVec.toNat_ofNat] at h
      omega
    unfold actionOf?
    rw [if_neg (hne 0 (by omega)), if_neg (hne 1 (by omega)), if_neg (hne 2 (by omega)), if_neg (hne 3 (by omega)), if_neg (hne 4 (by omega))]
    simp [h]

theorem actionNamed_pulse {b : Byte} (h : b.toNat ≤ 4) : actionNamed b = .pulse ↔ b = 3#8 := by
  have hc : b.toNat = 0 ∨ b.toNat = 1 ∨ b.toNat = 2 ∨ b.toNat = 3 ∨ b.toNat = 4 := by omega
  rcases hc with hc | hc | hc | hc | hc <;> rw [byte_cases hc] <;> simp [actionNamed]

theorem actionNamed_mark {b : Byte} (h : b.toNat ≤ 4) : actionNamed b = .mark ↔ b = 4#8 := by
  have hc : b.toNat = 0 ∨ b.toNat = 1 ∨ b.toNat = 2 ∨ b.toNat = 3 ∨ b.toNat = 4 := by omega
  rcases hc with hc | hc | hc | hc | hc <;> rw [byte_cases hc] <;> simp [actionNamed]

theorem finOf?_eq_some {n x : Nat} {k : Fin n} : finOf? n x = some k ↔ x = k.val := by
  unfold finOf?
  by_cases h : x < n
  · rw [dif_pos h, Option.some.injEq, Fin.ext_iff]
  · rw [dif_neg h]
    simp only [reduceCtorEq, false_iff]
    omega

theorem finOf?_isSome {n x : Nat} : (finOf? n x).isSome = true ↔ x < n := by
  unfold finOf?
  by_cases h : x < n <;> simp [h]

theorem specLine?_isSome {a : Action} {b : Byte} : (specLine? a b).isSome = true ↔ if a = .mark then b = 0xFF#8 else b.toNat < 8 := by
  unfold specLine?
  cases a
  case mark => by_cases h : b = 0xFF#8 <;> simp [h, absentByte]
  all_goals simp [finOf?_isSome]

theorem specLine?_value {a : Action} {b : Byte} {l : Option (Fin 8)} (h : specLine? a b = some l) :
    l.map (fun k => k.val) = if a = .mark then none else some b.toNat := by
  unfold specLine? at h
  cases a
  case mark =>
    by_cases hb : b = absentByte
    · rw [if_pos hb] at h
      obtain rfl := Option.some.inj h
      rfl
    · rw [if_neg hb] at h
      exact absurd h (by simp)
  all_goals
    obtain ⟨k, hk, rfl⟩ := Option.map_eq_some_iff.mp h
    simp [finOf?_eq_some.mp hk]

theorem levelOf?_eq_some {b : Byte} {l : Level} : levelOf? b = some l ↔ b.toNat ≤ 1 ∧ l = if b = 1#8 then .high else .low := by
  by_cases h : b.toNat ≤ 1
  · have hc : b.toNat = 0 ∨ b.toNat = 1 := by omega
    rcases hc with hc | hc <;> rw [byte_cases hc] <;> simp [levelOf?, eq_comm]
  · have h0 : b ≠ 0#8 := by rintro rfl; simp at h
    have h1 : b ≠ 1#8 := by rintro rfl; simp at h
    simp [levelOf?, h0, h1, h]

theorem width_pos {w : BitVec 24} : 1 ≤ w.toNat ↔ w ≠ 0#24 := by
  constructor
  · rintro h rfl
    simp at h
  · intro h
    by_contra hc
    exact h (BitVec.eq_of_toNat_eq (by rw [BitVec.toNat_ofNat]; omega))

theorem some_ite_iff {α : Type} {c : Prop} [Decidable c] {a v : α} : (if c then some a else none) = some v ↔ c ∧ v = a := by
  rw [Option.ite_none_right_eq_some, Option.some.injEq, eq_comm (a := a)]

/-- What pulse level and width give. -/
theorem specPulse?_eq_some {isPulse : Bool} {level : Byte} {width : BitVec 24} {v : Level × Nat} :
    specPulse? isPulse level width = some v
      ↔ (if isPulse = true then level.toNat ≤ 1 ∧ width ≠ 0#24 else level = 0xFF#8 ∧ width = 0#24)
        ∧ v = if isPulse = true then (if level = 1#8 then .high else .low, width.toNat) else (.low, 0) := by
  unfold specPulse?
  cases isPulse
  · simp only [Bool.false_eq_true, if_false]
    rw [some_ite_iff, absentByte]
  · rw [if_pos rfl, if_pos rfl, if_pos rfl]
    cases hl : levelOf? level with
    | none =>
      have hn : ¬ level.toNat ≤ 1 := fun h => by
        have := levelOf?_eq_some.mpr ⟨h, rfl⟩
        rw [hl] at this
        cases this
      simp [hn]
    | some l =>
      obtain ⟨h1, rfl⟩ := levelOf?_eq_some.mp hl
      dsimp only
      by_cases hw : width = 0#24
      · rw [if_neg (by rw [hw]; decide)]
        simp [hw]
      · rw [if_pos (width_pos.mpr hw)]
        simp [h1, hw, eq_comm]

theorem triggerEdgeOf?_eq_some {b : Byte} {e : TriggerEdge} :
    triggerEdgeOf? b = some e ↔ b.toNat ≤ 2 ∧ e = if b = 0#8 then .rise else if b = 1#8 then .fall else .either := by
  by_cases h : b.toNat ≤ 2
  · have hc : b.toNat = 0 ∨ b.toNat = 1 ∨ b.toNat = 2 := by omega
    rcases hc with hc | hc | hc <;> rw [byte_cases hc] <;> simp [triggerEdgeOf?, eq_comm]
  · have h0 : b ≠ 0#8 := by rintro rfl; simp at h
    have h1 : b ≠ 1#8 := by rintro rfl; simp at h
    have h2 : b ≠ 2#8 := by rintro rfl; simp at h
    simp [triggerEdgeOf?, h0, h1, h2, h]

theorem flagOf?_eq_some {b : Byte} {f : Bool} : flagOf? b = some f ↔ b.toNat ≤ 1 ∧ f = decide (b = 1#8) := by
  by_cases h : b.toNat ≤ 1
  · have hc : b.toNat = 0 ∨ b.toNat = 1 := by omega
    rcases hc with hc | hc <;> rw [byte_cases hc] <;> simp [flagOf?, eq_comm]
  · rw [flagOf?_eq_none (by omega)]
    simp [h]

theorem latePolicyOf?_eq_some {b : Byte} {l : LatePolicy} : latePolicyOf? b = some l ↔ b.toNat ≤ 1 ∧ l = if b = 1#8 then .skip else .fireLate := by
  by_cases h : b.toNat ≤ 1
  · have hc : b.toNat = 0 ∨ b.toNat = 1 := by omega
    rcases hc with hc | hc <;> rw [byte_cases hc] <;> simp [latePolicyOf?, eq_comm]
  · have h0 : b ≠ 0#8 := by rintro rfl; simp at h
    have h1 : b ≠ 1#8 := by rintro rfl; simp at h
    simp [latePolicyOf?, h0, h1, h]

/-- Which timings are in range. -/
def TimingInRange (d : Descriptor) : Prop :=
  if d.timing = 2#8 then d.trigLine.toNat < 16 ∧ d.trigEdge.toNat ≤ 2 ∧ d.rearm.toNat ≤ 1 ∧ d.timeValue.toNat ≤ 4294967295
  else
    d.trigLine = 0xFF#8 ∧ d.trigEdge = 0xFF#8 ∧ d.rearm = 0#8
      ∧ (d.timing = 0#8 ∨ (d.timing = 1#8 ∧ d.timeValue.toNat ≤ 4294967295))

/-- What a timing in range gives. -/
def TimingGives (d : Descriptor) (v : Timing × Bool) : Prop :=
  (d.timing = 0#8 → v.1 = .absolute d.timeValue.toNat)
    ∧ (d.timing = 1#8 → v.1 = .relative d.timeValue.toNat)
    ∧ (d.timing = 2#8 → ∃ n : Fin 16, n.val = d.trigLine.toNat
        ∧ v.1 = .trigger
          { line := n, edge := if d.trigEdge = 0#8 then .rise else if d.trigEdge = 1#8 then .fall else .either
            offset := d.timeValue.toNat })
    ∧ v.2 = decide (d.rearm = 1#8)

theorem specTiming?_inRange {d : Descriptor} (h : TimingInRange d) : ∃ v, specTiming? d = some v ∧ TimingGives d v := by
  unfold TimingInRange at h
  unfold specTiming? TimingGives maxDelay
  by_cases ht : d.timing = 2#8
  · rw [if_pos ht] at h ⊢
    obtain ⟨h1, h2, h3, h4⟩ := h
    obtain ⟨n, hn⟩ := Option.isSome_iff_exists.mp (finOf?_isSome.mpr h1)
    rw [hn, triggerEdgeOf?_eq_some.mpr ⟨h2, rfl⟩, flagOf?_eq_some.mpr ⟨h3, rfl⟩]
    dsimp only
    rw [if_pos h4]
    refine ⟨_, rfl, fun h0 => ?_, fun h0 => ?_, fun _ => ⟨n, (finOf?_eq_some.mp hn).symm, rfl⟩, rfl⟩
    · rw [ht] at h0
      cases h0
    · rw [ht] at h0
      cases h0
  · rw [if_neg ht] at h ⊢
    obtain ⟨h1, h2, h3, h4⟩ := h
    rw [if_pos ⟨h1, h2, h3⟩, h3]
    rcases h4 with h4 | ⟨h4, h5⟩
    · rw [if_pos h4, h4]
      exact ⟨_, rfl, by simp⟩
    · rw [if_neg (by rw [h4]; decide), if_pos ⟨h4, h5⟩, h4]
      exact ⟨_, rfl, by simp⟩

theorem specTiming?_isSome {d : Descriptor} : (specTiming? d).isSome = true ↔ TimingInRange d := by
  refine ⟨fun h => ?_, fun h => ?_⟩
  · unfold specTiming? maxDelay at h
    unfold TimingInRange
    by_cases ht : d.timing = 2#8
    · rw [if_pos ht] at h ⊢
      cases hl : finOf? 16 d.trigLine.toNat with
      | none => simp [hl] at h
      | some n =>
        cases he : triggerEdgeOf? d.trigEdge with
        | none => simp [hl, he] at h
        | some e =>
          cases hf : flagOf? d.rearm with
          | none => simp [hl, he, hf] at h
          | some f =>
            have h1 := finOf?_isSome.mp (Option.isSome_iff_exists.mpr ⟨n, hl⟩)
            refine ⟨h1, (triggerEdgeOf?_eq_some.mp he).1, (flagOf?_eq_some.mp hf).1, ?_⟩
            by_contra hv
            simp [hl, he, hf, hv] at h
    · rw [if_neg ht] at h ⊢
      by_cases hm : d.trigLine = absentByte ∧ d.trigEdge = absentByte ∧ d.rearm = 0#8
      · obtain ⟨h1, h2, h3⟩ := hm
        refine ⟨h1, h2, h3, ?_⟩
        rw [if_pos ⟨h1, h2, h3⟩] at h
        by_cases h0 : d.timing = 0#8
        · exact .inl h0
        · rw [if_neg h0] at h
          refine .inr ?_
          by_contra hc
          rw [if_neg hc] at h
          cases h
      · rw [if_neg hm] at h
        cases h
  · obtain ⟨v, hv, _⟩ := specTiming?_inRange h
    rw [hv]
    rfl

theorem specTiming?_gives {d : Descriptor} {v : Timing × Bool} (h : specTiming? d = some v) : TimingGives d v := by
  obtain ⟨w, hw, hg⟩ := specTiming?_inRange (specTiming?_isSome.mp (Option.isSome_iff_exists.mpr ⟨v, h⟩))
  rw [h] at hw
  cases hw
  exact hg

theorem specRepeat?_eq_some {d : Descriptor} {v : Option Nat × Option Nat} :
    specRepeat? d = some v
      ↔ (if d.period = 0#32 then d.count = 0#16 else 10 ≤ d.period.toNat)
        ∧ v = (if d.period = 0#32 then none else some d.period.toNat, if d.count = 0#16 then none else some d.count.toNat) := by
  unfold specRepeat?
  by_cases hp : d.period = 0#32
  · rw [if_pos hp, if_pos hp, if_pos hp]
    rw [some_ite_iff]
    exact and_congr_right fun hc => by rw [if_pos hc]
  · rw [if_neg hp, if_neg hp, if_neg hp]
    by_cases h10 : d.period.toNat < 10
    · rw [if_pos h10]
      exact ⟨fun h0 => absurd h0 (by simp), fun h0 => absurd h0.1 (Nat.not_le.mpr h10)⟩
    · rw [if_neg h10, Option.some.injEq, eq_comm]
      exact (and_iff_right (Nat.not_lt.mp h10)).symm

theorem widthFits_iff {a : Action} {w : Nat} {period : Option Nat} :
    widthFits a w period = true ↔ (a = .pulse → ∀ q, period = some q → w < q) := by
  unfold widthFits
  cases a <;> cases period <;> simp

/-! ### The descriptor -/

/-- A descriptor in range, field by field, and what the fields are read as. -/
theorem descriptorSpec?_eq_some {d : Descriptor} {spec : EntrySpec} :
    descriptorSpec? d = some spec
      ↔ ∃ action line pulse timing rep late, actionOf? d.action = some action ∧ specLine? action d.line = some line
        ∧ specPulse? (action == .pulse) d.pulseLevel d.width = some pulse ∧ specTiming? d = some timing ∧ specRepeat? d = some rep
        ∧ latePolicyOf? d.latePolicy = some late ∧ (widthFits action pulse.2 rep.1 && (d.flags &&& 0xFC#8) == 0#8) = true
        ∧ spec = { action := action, line := line, pulseLevel := pulse.1, width := pulse.2, timing := timing.1, rearm := timing.2,
                   period := rep.1, count := rep.2, late := late, journalFlag := d.flags.getLsbD 0, notifyFlag := d.flags.getLsbD 1 } := by
  unfold descriptorSpec?
  simp only [Option.bind_eq_bind, Option.bind_eq_some_iff, Option.ite_none_right_eq_some, Option.some.injEq]
  constructor
  · rintro ⟨a, ha, l, hl, q, hq, t, ht, r, hr, lt, hlt, hw, hs⟩
    exact ⟨a, l, q, t, r, lt, ha, hl, hq, ht, hr, hlt, hw, hs.symm⟩
  · rintro ⟨a, l, q, t, r, lt, ha, hl, hq, ht, hr, hlt, hw, hs⟩
    exact ⟨a, ha, l, hl, q, hq, t, ht, r, hr, lt, hlt, hw, hs.symm⟩

/-- Bits 0 and 1 of a flags byte whose other bits are clear. -/
theorem flags_bits {b : Byte} (h : b &&& 0xFC#8 = 0#8) :
    b.getLsbD 0 = decide (b.toNat % 2 = 1) ∧ b.getLsbD 1 = decide (2 ≤ b.toNat) := by
  revert b
  decide +kernel

/-- Settles O34: a descriptor is read field by field, and each field's reading says its range and its value. -/
theorem descriptorRange : Obligations.DescriptorRange := by
  unfold Obligations.DescriptorRange
  refine ⟨fun d => ⟨fun h => ?_, fun ⟨h1, h2, h3, h4, h5, h6, h7, h8⟩ => ?_⟩, fun d spec h => ?_⟩
  · obtain ⟨spec, hspec⟩ := Option.isSome_iff_exists.mp h
    obtain ⟨a, l, q, t, r, lt, ha, hl, hq, ht, hr, hlt, hw, -⟩ := descriptorSpec?_eq_some.mp hspec
    obtain ⟨h4, rfl⟩ := actionOf?_eq_some.mp ha
    obtain ⟨hq1, rfl⟩ := specPulse?_eq_some.mp hq
    obtain ⟨hr1, rfl⟩ := specRepeat?_eq_some.mp hr
    obtain ⟨hw1, hw2⟩ := Bool.and_eq_true_iff.mp hw
    have hline := specLine?_isSome.mp (Option.isSome_iff_exists.mpr ⟨l, hl⟩)
    have htiming := specTiming?_isSome.mp (Option.isSome_iff_exists.mpr ⟨t, ht⟩)
    simp only [beq_iff_eq, actionNamed_pulse h4] at hq1
    simp only [actionNamed_mark h4] at hline
    refine ⟨h4, hline, hq1, htiming, hr1, fun h3 hp => ?_, (latePolicyOf?_eq_some.mp hlt).1, by simpa using hw2⟩
    have hfit := widthFits_iff.mp hw1 ((actionNamed_pulse h4).mpr h3) d.period.toNat (if_neg hp)
    rw [if_pos (by rw [(actionNamed_pulse h4).mpr h3]; rfl)] at hfit
    exact hfit
  · obtain ⟨l, hl⟩ := Option.isSome_iff_exists.mp (specLine?_isSome (a := actionNamed d.action) (b := d.line) |>.mpr (by
      simpa only [actionNamed_mark h1] using h2))
    obtain ⟨t, ht⟩ := Option.isSome_iff_exists.mp (specTiming?_isSome.mpr h4)
    have hq := specPulse?_eq_some (isPulse := actionNamed d.action == .pulse) (level := d.pulseLevel) (width := d.width) |>.mpr
      ⟨by simpa only [beq_iff_eq, actionNamed_pulse h1] using h3, rfl⟩
    have hr := specRepeat?_eq_some.mpr ⟨h5, rfl⟩
    refine Option.isSome_iff_exists.mpr ⟨_, descriptorSpec?_eq_some.mpr ⟨_, l, _, t, _, _, actionOf?_eq_some.mpr ⟨h1, rfl⟩, hl, hq, ht, hr,
      latePolicyOf?_eq_some.mpr ⟨h7, rfl⟩, Bool.and_eq_true_iff.mpr ⟨widthFits_iff.mpr fun ha p hp => ?_, by simpa using h8⟩, rfl⟩⟩
    have h3' := (actionNamed_pulse h1).mp ha
    rw [if_pos (by rw [ha]; rfl)]
    by_cases hz : d.period = 0#32
    · rw [if_pos hz] at hp
      cases hp
    · rw [if_neg hz] at hp
      obtain rfl := Option.some.inj hp
      exact h6 h3' hz
  · obtain ⟨a, l, q, t, r, lt, ha, hl, hq, ht, hr, hlt, hw, rfl⟩ := descriptorSpec?_eq_some.mp h
    obtain ⟨h4, rfl⟩ := actionOf?_eq_some.mp ha
    obtain ⟨-, rfl⟩ := specPulse?_eq_some.mp hq
    obtain ⟨-, rfl⟩ := specRepeat?_eq_some.mp hr
    obtain ⟨-, rfl⟩ := latePolicyOf?_eq_some.mp hlt
    obtain ⟨-, hw2⟩ := Bool.and_eq_true_iff.mp hw
    obtain ⟨ht0, ht1, ht2, htr⟩ := specTiming?_gives ht
    have hflags := flags_bits (by simpa using hw2)
    have hline := specLine?_value hl
    simp only [actionNamed_mark h4] at hline
    refine ⟨rfl, hline, fun h3 => ?_, ht0, ht1, ht2, htr, rfl, rfl, rfl, hflags.1, hflags.2⟩
    dsimp only
    rw [if_pos (by rw [(actionNamed_pulse h4).mpr h3]; rfl)]
    exact ⟨rfl, rfl⟩

end Sys2Proof.Machine
end

section
/-! SUPPORT. O40: SET_LINE, and the end of an immediate pulse. -/

set_option Elab.async false

namespace Sys2Proof.Machine

theorem lineAction?_eq_none {action level : Byte} {width : BitVec 24}
    (h : 4 ≤ action.toNat ∨ (action.toNat ≤ 2 ∧ (level ≠ 0xFF#8 ∨ width ≠ 0#24)) ∨ (action.toNat = 3 ∧ (2 ≤ level.toNat ∨ width = 0#24))) :
    lineAction? action level width = none := by
  have hpulse : specPulse? (action == 3#8) level width = none → lineAction? action level width = none := fun hq => by
    unfold lineAction?
    rw [hq]
    cases actionOf? action with
    | none => rfl
    | some a => cases a <;> rfl
  rcases h with h | ⟨h, hc⟩ | ⟨h, hc⟩
  · unfold lineAction?
    cases ha : actionOf? action with
    | none => rfl
    | some a =>
      obtain ⟨h4, rfl⟩ := actionOf?_eq_some.mp ha
      have hm : actionNamed action = .mark := (actionNamed_mark h4).mpr (byte_cases (by omega))
      rw [hm]
  · refine hpulse (Option.eq_none_iff_forall_ne_some.mpr fun v hv => ?_)
    have h3 : (action == 3#8) = false := by
      rw [beq_eq_false_iff_ne]
      rintro rfl
      simp at h
    rw [h3] at hv
    obtain ⟨⟨h1, h2⟩, -⟩ := specPulse?_eq_some.mp hv
    exact hc.elim (fun hc => hc h1) fun hc => hc h2
  · refine hpulse (Option.eq_none_iff_forall_ne_some.mpr fun v hv => ?_)
    obtain rfl := byte_cases h
    obtain ⟨⟨h1, h2⟩, -⟩ := specPulse?_eq_some.mp hv
    exact hc.elim (fun hc => by omega) fun hc => h2 hc

theorem lineAction?_plain {action : Byte} (h : action ∈ [0#8, 1#8, 2#8]) :
    lineAction? action 0xFF#8 0#24 = some (if action = 0#8 then .set else if action = 1#8 then .clear else .toggle) := by
  simp only [List.mem_cons, List.not_mem_nil, or_false] at h
  rcases h with rfl | rfl | rfl <;> rfl

theorem lineAction?_pulse {level : Byte} {width : BitVec 24} (h1 : level.toNat ≤ 1) (h2 : width ≠ 0#24) :
    lineAction? 3#8 level width = some (.pulse (if level = 1#8 then .high else .low) width.toNat) := by
  have hq := specPulse?_eq_some (isPulse := 3#8 == 3#8) (level := level) (width := width) |>.mpr ⟨⟨h1, h2⟩, rfl⟩
  unfold lineAction?
  rw [hq]
  rfl

/-- A line that drives as its rule says, written beside formed drives. -/
theorem LevelsFormed.setOut {s : State} (h : LevelsFormed s) {k : Fin 8} {o : OutLine} (ho : o.formed s.permit.state = o) :
    LevelsFormed (s.setOut k o) := by
  refine ⟨congrArg (fun u : State => { u with outs := s.outs.set k o }) h.1, fun hr ht => ?_⟩
  have hd : s.outs.map (fun o => o.formed s.permit.state) = s.outs := congrArg State.outs (h.2 hr ht)
  have hmap : (s.outs.set k o).map (fun o => o.formed s.permit.state) = s.outs.set k o := by
    rw [Vector.map_set, hd, ho]
  exact congrArg (fun v => { s with outs := v }) hmap

section
variable {s : State} {p : Port} {tag line action level : Byte} {width : BitVec 24} {k : Fin 8}

theorem takeSetLine_noLine (h : 8 ≤ line.toNat) : takeSetLine p line action level width s = (s, refuse .badArg) := by
  unfold takeSetLine
  rw [finOf?_eq_none h]

theorem takeSetLine_notHolder (hk : line.toNat = k.val) (h : s.holds p (.out k) = false) :
    takeSetLine p line action level width s = (s, refuse .notHolder) := by
  unfold takeSetLine
  rw [finOf?_val k hk]
  exact if_pos (by simp [h])

theorem takeSetLine_wrongState (hk : line.toNat = k.val) (h : s.holds p (.out k) = true) (hg : (s.out k).gated = true)
    (hp : s.permit.state ≠ .running) : takeSetLine p line action level width s = (s, refuse .wrongState) := by
  unfold takeSetLine
  rw [finOf?_val k hk]
  dsimp only
  rw [if_neg (by simp [h]), if_pos (by simp [hg, hp])]

theorem takeSetLine_acts (hk : line.toNat = k.val) (h : s.holds p (.out k) = true) (hg : (s.out k).gated = false ∨ s.permit.state = .running) :
    takeSetLine p line action level width s
      = (lineAction? action level width).elim (s, refuse .badArg) fun a => actOnLine k a s := by
  unfold takeSetLine
  rw [finOf?_val k hk]
  dsimp only
  rw [if_neg (by simp [h]), if_neg (by rcases hg with hg | hg <;> simp [hg])]
  cases lineAction? action level width <;> rfl

/-- A line that follows its commanded level drives what an action commands. -/
theorem formed_of_follows {o : OutLine} {st : PermitState} (h : o.gated = false ∨ st = .running) : o.formed st = { o with driven := o.commanded } := by
  unfold OutLine.formed OutLine.drive
  rcases h with h | h
  · rw [if_neg (by simp [h])]
  · subst h
    exact congrArg (fun v => { o with driven := v }) (ite_self _)

/-- An accepted action of SET_LINE: the levels after it, answered. -/
theorem exec_setLine_sets (hr : Ready s p) (hl : LevelsFormed s) (hx : ∃ x, OpenLive s p x) (hk : line.toNat = k.val)
    (hh : s.holds p (.out k) = true) (hg : (s.out k).gated = false ∨ s.permit.state = .running) {a : LineAction}
    (ha : lineAction? action level width = some a) {v : Level} {pulse : Option ImmediatePulse}
    (hv : a.apply (s.out k) = { s.out k with commanded := v, pulse := pulse }) :
    exec (.setLine p tag line action level width) s
      = .next ((answeredOnly s (.setLine p tag line action level width) .ok (code (levelCode v) ++ code (levelCode v))).setOut k
          { s.out k with commanded := v, driven := v, pulse := pulse }) := by
  obtain ⟨x, hx⟩ := hx
  have ho : (a.apply (s.out k)).formed s.permit.state = { s.out k with commanded := v, driven := v, pulse := pulse } := by
    rw [hv]
    exact formed_of_follows (o := { s.out k with commanded := v, pulse := pulse }) hg
  have hact : takeSetLine p line action level width (taken s p 6)
      = ((taken s p 6).setOut k { s.out k with commanded := v, driven := v, pulse := pulse }, okay (code (levelCode v) ++ code (levelCode v))) := by
    rw [takeSetLine_acts (s := taken s p 6) hk hh hg, ha]
    unfold Option.elim actOnLine
    dsimp only
    rw [show (a.apply ((taken s p 6).out k)).formed (taken s p 6).permit.state = _ from ho]
  have hrow : exec (.setLine p tag line action level width) s
      = .next (onCommand p tag 6 .liveSession (takeSetLine p line action level width) s) := rfl
  rw [hrow, onCommand_live hr hx, hact]
  have hresp := respond_taken s p 6 tag (okay (code (levelCode v) ++ code (levelCode v)))
  have hset : respond p tag (okay (code (levelCode v) ++ code (levelCode v)))
      ((taken s p 6).setOut k { s.out k with commanded := v, driven := v, pulse := pulse })
      = (answeredFrame s p 13 tag .ok (code (levelCode v) ++ code (levelCode v))).setOut k
          { s.out k with commanded := v, driven := v, pulse := pulse } :=
    congrArg (fun u : State => u.setOut k { s.out k with commanded := v, driven := v, pulse := pulse }) hresp
  have hformed : LevelsFormed (answeredFrame s p 13 tag .ok (code (levelCode v) ++ code (levelCode v))) := by
    have h := conclude_formed (respond p tag (okay (code (levelCode v) ++ code (levelCode v))) (taken s p 6))
    rw [conclude_respond_taken hl] at h
    exact h
  dsimp only
  rw [hset, conclude_eq_self (hformed.setOut (formed_of_follows (o := { s.out k with commanded := v, driven := v, pulse := pulse }) hg))]
  rfl

end

/-- Settles O40: the checks in order, then the action on the line. -/
theorem linesAct : Obligations.LinesAct := by
  unfold Obligations.LinesAct
  intro s p tag line action level width k
  refine ⟨fun hd q hq hleft => ?_, fun hr hl hx => ?_⟩
  · have hev : exec (.immediatePulseEnd k) s = .next (conclude (endImmediatePulse k (s.without (.immediatePulseEnd k)))) := exec_tickRow_due hd
    rw [hev]
    unfold endImmediatePulse
    rw [show ((s.without (.immediatePulseEnd k)).out k).pulse = some q from hq]
    dsimp only
    rw [if_pos hleft]
    rfl
  · intro sets toggled
    have hrefuse : ∀ {st : Status}, takeSetLine p line action level width (taken s p 6) = (taken s p 6, refuse st) →
        Refuses s (.setLine p tag line action level width) st := fun h => by
      obtain ⟨x, hx⟩ := hx
      exact answers_of_live hr hx hl (r := refuse _) (act := takeSetLine p line action level width) rfl rfl h
    refine ⟨fun h => hrefuse (takeSetLine_noLine h), fun hk h => hrefuse (takeSetLine_notHolder (s := taken s p 6) hk h), fun hk hh =>
      ⟨fun ⟨hg, hp⟩ => hrefuse (takeSetLine_wrongState (s := taken s p 6) hk hh hg hp), fun hg => ⟨fun h => ?_, fun h1 h2 => ?_, fun hw => ?_⟩⟩⟩
    · refine hrefuse ?_
      rw [takeSetLine_acts (s := taken s p 6) hk hh hg, lineAction?_eq_none h]
      rfl
    · subst h1 h2
      refine ⟨exec_setLine_sets hr hl hx hk hh hg (lineAction?_plain (by simp)) rfl,
        exec_setLine_sets hr hl hx hk hh hg (lineAction?_plain (by simp)) rfl,
        exec_setLine_sets hr hl hx hk hh hg (lineAction?_plain (by simp)) ?_⟩
      have hn : ∀ l : Level, levelNot l = if l = .high then .low else .high := fun l => by cases l <;> rfl
      exact congrArg (fun v => { s.out k with commanded := v, pulse := none }) (hn _)
    · exact ⟨exec_setLine_sets hr hl hx hk hh hg (lineAction?_pulse (by decide) hw) rfl,
        exec_setLine_sets hr hl hx hk hh hg (lineAction?_pulse (by decide) hw) rfl⟩

end Sys2Proof.Machine
end

section
/-! SUPPORT. ADD_ENTRY: its checks and what an admission places (O35, and the late admissions of O39). -/

set_option Elab.async false

namespace Sys2Proof.Machine

/-! ### The checks -/

/-- The line on which checks 1 and 2 are made (R79). -/
theorem descriptorClaimLine?_eq_some {d : Descriptor} {k : Fin 8} :
    descriptorClaimLine? d = some k ↔ d.action.toNat ≤ 3 ∧ d.line.toNat = k.val := by
  unfold descriptorClaimLine?
  cases ha : actionOf? d.action with
  | none =>
    have h4 : ¬ d.action.toNat ≤ 4 := fun h => by
      have := actionOf?_eq_some.mpr ⟨h, rfl⟩
      rw [ha] at this
      cases this
    exact ⟨fun h => absurd h (by simp), fun h => absurd h.1 (by omega)⟩
  | some a =>
    obtain ⟨h4, rfl⟩ := actionOf?_eq_some.mp ha
    by_cases hm : d.action = 4#8
    · rw [(actionNamed_mark h4).mpr hm, hm]
      exact ⟨fun h => absurd h (by simp), fun h => absurd h.1 (by decide)⟩
    · have h3 : d.action.toNat ≤ 3 := by
        have : d.action.toNat ≠ 4 := fun h => hm (byte_cases h)
        omega
      have hne : actionNamed d.action ≠ .mark := fun h => hm ((actionNamed_mark h4).mp h)
      rw [← finOf?_eq_some, and_iff_right h3]
      cases h : actionNamed d.action
      case mark => exact absurd h hne
      all_goals rfl

section
variable {s : State} {p : Port} {d : Descriptor}

theorem lacksLine_iff : lacksLine p d s = true ↔ ∃ k : Fin 8, (d.action.toNat ≤ 3 ∧ d.line.toNat = k.val) ∧ s.holds p (.out k) = false := by
  unfold lacksLine
  cases h : descriptorClaimLine? d with
  | none =>
    refine ⟨fun h0 => absurd h0 (by simp), fun ⟨k, hk, _⟩ => ?_⟩
    rw [descriptorClaimLine?_eq_some.mpr hk] at h
    cases h
  | some k =>
    refine ⟨fun h0 => ⟨k, descriptorClaimLine?_eq_some.mp h, by simpa using h0⟩, fun ⟨j, hj, h0⟩ => ?_⟩
    rw [descriptorClaimLine?_eq_some.mpr hj] at h
    cases h
    simp [h0]

/-- A gated line in STOPPED or ARMING takes no entry (R79, R99). -/
def Shut (s : State) (k : Fin 8) : Prop := (s.out k).gated = true ∧ (s.permit.state = .stopped ∨ s.permit.state = .arming)

theorem gateShut_iff : gateShut d s = true ↔ ∃ k : Fin 8, (d.action.toNat ≤ 3 ∧ d.line.toNat = k.val) ∧ Shut s k := by
  have hshut : ∀ k, ((s.out k).gated && (s.permit.state == .stopped || s.permit.state == .arming)) = true ↔ Shut s k := fun k => by
    unfold Shut
    simp
  unfold gateShut
  cases h : descriptorClaimLine? d with
  | none =>
    refine ⟨fun h0 => absurd h0 (by simp), fun ⟨k, hk, _⟩ => ?_⟩
    rw [descriptorClaimLine?_eq_some.mpr hk] at h
    cases h
  | some k =>
    refine ⟨fun h0 => ⟨k, descriptorClaimLine?_eq_some.mp h, (hshut k).mp h0⟩, fun ⟨j, hj, h0⟩ => ?_⟩
    rw [descriptorClaimLine?_eq_some.mpr hj] at h
    obtain rfl := Option.some.inj h
    exact (hshut _).mpr h0

theorem lowestFree_eq_some {i : Fin 64} (hi : s.entry i = none) (hlow : ∀ j, j < i → (s.entry j).isSome = true) : lowestFree s = some i := by
  have hsorted : (allSlots.filter fun j => (s.entry j).isNone).Pairwise (· < ·) :=
    (List.pairwise_lt_finRange 64).filter _
  have hmem : i ∈ allSlots.filter fun j => (s.entry j).isNone := List.mem_filter.mpr ⟨List.mem_finRange i, by simp [hi]⟩
  unfold lowestFree
  cases hl : allSlots.filter fun j => (s.entry j).isNone with
  | nil => rw [hl] at hmem; exact absurd hmem (by simp)
  | cons j rest =>
    rw [hl] at hmem hsorted
    rcases List.mem_cons.mp hmem with rfl | hrest
    · rfl
    · have hlt : j < i := (List.pairwise_cons.mp hsorted).1 i hrest
      have hj : (s.entry j).isNone = true := by
        have : j ∈ allSlots.filter fun j => (s.entry j).isNone := by rw [hl]; exact List.mem_cons_self
        exact (List.mem_filter.mp this).2
      have := hlow j hlt
      rw [Option.isNone_iff_eq_none.mp hj] at this
      cases this

theorem lowestFree_eq_none (h : ∀ i, (s.entry i).isSome = true) : lowestFree s = none := by
  unfold lowestFree
  rw [List.filter_eq_nil_iff.mpr fun i _ => by simp [Option.isSome_iff_ne_none.mp (h i)]]
  rfl

theorem takeAddEntry_notHolder {k : Fin 8} (hk : d.action.toNat ≤ 3 ∧ d.line.toNat = k.val) (h : s.holds p (.out k) = false) :
    takeAddEntry p d s = (s, refuse .notHolder) := if_pos (lacksLine_iff.mpr ⟨k, hk, h⟩)

theorem takeAddEntry_wrongState {k : Fin 8} (hk : d.action.toNat ≤ 3 ∧ d.line.toNat = k.val) (h : s.holds p (.out k) = true)
    (hs : Shut s k) : takeAddEntry p d s = (s, refuse .wrongState) := by
  unfold takeAddEntry
  rw [if_neg, if_pos (gateShut_iff.mpr ⟨k, hk, hs⟩)]
  intro hl
  obtain ⟨j, ⟨_, hj⟩, hn⟩ := lacksLine_iff.mp hl
  obtain rfl : j = k := Fin.ext (hj.symm.trans hk.2)
  rw [h] at hn
  cases hn

/-- Checks 1 and 2 passed (R79). -/
def MayAdd (s : State) (p : Port) (d : Descriptor) : Prop :=
  ∀ k : Fin 8, d.action.toNat ≤ 3 ∧ d.line.toNat = k.val → s.holds p (.out k) = true ∧ ¬ Shut s k

theorem takeAddEntry_of (h : MayAdd s p d) :
    takeAddEntry p d s
      = (descriptorSpec? d).elim (s, refuse .badArg) fun x =>
          if s.schedule.quotas.get p ≤ owned s p then (s, refuse .quota)
          else (lowestFree s).elim (s, refuse .tableFull) fun i => enterEntry p d x i s := by
  unfold takeAddEntry
  rw [if_neg, if_neg]
  · cases descriptorSpec? d with
    | none => rfl
    | some x => cases lowestFree s <;> rfl
  · intro hg
    obtain ⟨k, hk, hs⟩ := gateShut_iff.mp hg
    exact (h k hk).2 hs
  · intro hl
    obtain ⟨k, hk, hn⟩ := lacksLine_iff.mp hl
    rw [(h k hk).1] at hn
    cases hn

end

/-! ### What an admission places -/

theorem admissionBytes_fields (h : Handle) (admission : Nat) (after : Option Entry) :
    admissionBytes h admission after
      = fields ([(1, h.slot.val), (1, h.generation.toNat), (8, admission), (1, (after.map fun e => entryStateCode e.state).getD 4)]
          ++ optionalFields 8 (after.bind Entry.due) fun n => [(8, n)]) := by
  have hopt : ∀ due : Option Nat, optField 8 (due.map (be 8)) = fields (optionalFields 8 due fun n => [(8, n)]) := fun due =>
    optField_fields 8 due fun n => (List.append_nil _).symm
  unfold admissionBytes
  rw [fields_append, ← hopt]
  cases after <;> simp [handleBytes, be_one, code, completedCode]

section
variable {s : State} {i : Fin 64} {e : Entry}

theorem handle_placeEntry_same : (placeEntry i e s).handle i = { slot := i, generation := (s.handle i).generation + 1#8 } := by
  unfold State.handle placeEntry
  simp

/-- A slot written again after an admission. -/
theorem placeEntry_putEntry (x : Option Entry) :
    (placeEntry i e s).putEntry i x
      = { s with
          schedule :=
            { s.schedule with
              slots := s.schedule.slots.set i { generation := (s.handle i).generation + 1#8, entry := x }
              admission := s.schedule.admission + 1 } } := by
  unfold State.putEntry placeEntry State.handle
  simp

end

end Sys2Proof.Machine
end

section
/-! SUPPORT. O35: what ADD_ENTRY places and answers. -/

set_option Elab.async false

namespace Sys2Proof.Machine

/-! ### The row, once the checks are passed -/

/-- The fields of the answer to an admission (R199). -/
def admittedFields (s : State) (i : Fin 64) (after : Option Entry) : List (Nat × Nat) :=
  [(1, i.val), (1, ((s.handle i).generation + 1#8).toNat), (8, s.schedule.admission), (1, (after.map fun e => entryStateCode e.state).getD 4)]
    ++ optionalFields 8 (after.bind Entry.due) fun n => [(8, n)]

/-- The schedule once an entry has been admitted to slot i, with what is then left there. -/
def placedSchedule (s : State) (i : Fin 64) (x : Option Entry) : Schedule :=
  { s.schedule with
    slots := s.schedule.slots.set i { generation := (s.handle i).generation + 1#8, entry := x }
    admission := s.schedule.admission + 1 }

section
variable {s : State} {p : Port} {tag : Byte} {d : Descriptor} {x : Session} {spec : EntrySpec} {i : Fin 64} {e : Entry}

theorem placeEntry_putEntry_eq (s : State) (i : Fin 64) (e : Entry) (y : Option Entry) :
    (placeEntry i e s).putEntry i y = { s with schedule := placedSchedule s i y } := placeEntry_putEntry y

theorem placeEntry_eq (s : State) (i : Fin 64) (e : Entry) : placeEntry i e s = { s with schedule := placedSchedule s i (some e) } := by
  rw [← placeEntry_putEntry_eq s i e, putEntry_entry]
  rw [entry_placeEntry, if_pos rfl]

/-- An ADD_ENTRY whose five checks are passed, and the slot it takes (R75, R79). -/
structure AddPasses (s : State) (p : Port) (d : Descriptor) (spec : EntrySpec) (i : Fin 64) : Prop where
  ready  : Ready s p
  live   : ∃ x, OpenLive s p x
  may    : MayAdd s p d
  inRange : descriptorSpec? d = some spec
  quota  : owned s p < s.schedule.quotas.get p
  free   : s.entry i = none
  lowest : ∀ j, j < i → (s.entry j).isSome = true

/-- ADD_ENTRY with its five checks passed: the entry placed, what follows of it at once, and the answer. -/
theorem exec_addEntry (h : AddPasses s p d spec i) (tag : Byte) (he : e = newEntry p d spec s.schedule.admission s.time.partTime) {u : State}
    (hu : afterAdmission i e (placeEntry i e (taken s p 26)) = u) (hh : u.handle i = (placeEntry i e (taken s p 26)).handle i)
    {after : Option Entry} (ha : u.entry i = after) :
    exec (.addEntry p tag d) s = .next (conclude (respond p tag (okay (fields (admittedFields s i after))) u)) := by
  obtain ⟨hr, ⟨x, hx⟩, hmay, hspec, hquota, hi, hlow⟩ := h
  have hrow : exec (.addEntry p tag d) s = .next (onCommand p tag 26 .liveSession (takeAddEntry p d) s) := rfl
  have hact : takeAddEntry p d (taken s p 26) = (u, okay (fields (admittedFields s i after))) := by
    rw [takeAddEntry_of (s := taken s p 26) hmay, hspec]
    dsimp only [Option.elim]
    have hmore : ¬ (taken s p 26).schedule.quotas.get p ≤ owned (taken s p 26) p := Nat.not_le.mpr hquota
    rw [if_neg hmore, lowestFree_eq_some (s := taken s p 26) hi hlow]
    dsimp only
    unfold enterEntry
    dsimp only
    have hnew : newEntry p d spec (taken s p 26).schedule.admission (taken s p 26).time.partTime = e := he.symm
    have hadm : e.admission = s.schedule.admission := by rw [he]; rfl
    rw [hnew, hu, admissionBytes_fields, ha, hh, handle_placeEntry_same, hadm]
    rfl
  rw [hrow, onCommand_live hr hx, hact]

/-! ### What follows at once -/

section
variable {u : State}

theorem afterAdmission_awaits (h : e.state = .awaitingTrigger) : afterAdmission i e u = u := if_pos h

theorem afterAdmission_later {due : Nat} (hd : e.due = some due) (hlt : u.time.partTime < due) : afterAdmission i e u = u := by
  have hlate : e.lateAt u.time.partTime = false := by
    unfold Entry.lateAt
    rw [hd]
    exact decide_eq_false (Nat.not_le.mpr hlt)
  unfold afterAdmission
  split
  · rfl
  · rw [if_neg (by rw [hd]; simp), if_neg (by rw [hlate]; simp)]

theorem afterAdmission_late {due : Nat} (hst : e.state ≠ .awaitingTrigger) (hd : e.due = some due) (hle : due ≤ u.time.partTime) :
    afterAdmission i e u = takeLate u.time.partTime u i := by
  have hlate : e.lateAt u.time.partTime = true := by
    unfold Entry.lateAt
    rw [hd]
    exact decide_eq_true hle
  unfold afterAdmission
  rw [if_neg hst, if_neg (by rw [hd]; simp), if_pos hlate]

/-- Work that only stores records and writes the slot. -/
theorem worked_records (u : State) (i : Fin 64) (l : Option (Fin 8)) (y : Option Entry) (rs : List (Origin × Body)) :
    u.worked i l { left := y, act := fun o => o, records := rs, raises := [], ports := fun z => z }
      = { u with journal := u.journal.storing u.time.partTime (quality u) rs }.putEntry i y := by
  unfold State.worked
  dsimp only
  rw [modOut_id, List.append_nil]

variable (he : u.entry i = some e)
include he

theorem takeLate_deferred {due : Nat} (hd : e.due = some due) (hrun : e.running = none) (hdef : deferredNow u e = true) :
    takeLate u.time.partTime u i = u.putEntry i (some { e with state := .deferred }) := by
  have hw := (works_takeLate he hd u.time.partTime).all
  unfold Work.late at hw
  rw [if_pos hdef] at hw
  rw [hw (.inl ⟨rfl, rfl⟩)]
  have hid : pulseEnded e = fun o => o := funext fun o => by
    unfold pulseEnded
    rw [hrun]
  have he' : ({ e with state := .deferred, running := none } : Entry) = { e with state := .deferred } := by rw [← hrun]
  unfold Work.deferred
  rw [hid, he']
  exact worked_put u i e.line _

theorem closeOccurrence_completes (hd : e.due = none) (hrun : e.running = none) (hre : e.rearm = false) (hroom : RoomFor 1 u) :
    closeOccurrence i u
      = { u with
          journal := u.journal.storing u.time.partTime (quality u) [(.master e.owner, .entryCompleted (u.handle i) e.action e.line)] }.putEntry
          i none := by
  have hclosed : e.closed = none := by
    unfold Entry.closed
    rw [hrun, hd, hre]
    rfl
  have hw := (works_closeOccurrence he e.line).all
  unfold Work.close completedRecords at hw
  rw [hclosed, if_pos rfl] at hw
  rw [hw (.inr hroom)]
  exact worked_records u i e.line none _

theorem takeLate_skipped {due : Nat} (hd : e.due = some due) (hdef : deferredNow u e = false) (hskip : e.late = .skip) (hp : e.period = none)
    (hj : e.journalFlag = false) (hrun : e.running = none) (hre : e.rearm = false) (hroom : RoomFor 1 u) :
    takeLate u.time.partTime u i
      = { u with
          journal := u.journal.storing u.time.partTime (quality u) [(.master e.owner, .entryCompleted (u.handle i) e.action e.line)] }.putEntry
          i none := by
  have hid : pulseEnded e = fun o => o := funext fun o => by
    unfold pulseEnded
    rw [hrun]
  have hnever : ¬ e.late = .fireLate := by rw [hskip]; simp
  have hleft : movedOn e (lateRunning e) (gridPoints e.period due u.time.partTime) due = none := by
    have hrunning : lateRunning e = none := if_neg hnever
    unfold movedOn nextDue
    rw [hrunning, hp, hre]
    rfl
  have hskipped : skippedRecords u i e = [] := if_neg (by rw [hj]; simp)
  have hw := (works_takeLate he hd u.time.partTime).all
  have hwork : Work.late u u.time.partTime i e due
      = { left := none, act := fun o => o, records := [(.master e.owner, .entryCompleted (u.handle i) e.action e.line)], raises := []
          ports := fun z => z } := by
    unfold Work.late
    rw [if_neg (by rw [hdef]; simp), caught_eq hd, hleft, if_pos rfl, if_neg hnever, if_neg hnever, if_neg (fun h => hnever h.1), hskipped, hid]
    simp only [hnever, if_false]
    rfl
  rw [hwork] at hw
  rw [hw (.inr hroom)]
  exact worked_records u i e.line none _

end

/-! ### Answers beside the schedule -/

theorem LevelsFormed.setSchedule (h : LevelsFormed s) (y : Schedule) : LevelsFormed { s with schedule := y } :=
  ⟨congrArg (fun u : State => { u with schedule := y }) h.1, fun hr ht => congrArg (fun u : State => { u with schedule := y }) (h.2 hr ht)⟩

theorem answered_formed (hl : LevelsFormed s) (p : Port) (n : Nat) (tag : Byte) (r : Reply) :
    LevelsFormed (answeredFrame s p (n + 7) tag r.status r.payload) := by
  have h := conclude_formed (respond p tag r (taken s p n))
  rw [conclude_respond_taken hl] at h
  exact h

/-- An answer beside a change of the schedule alone. -/
theorem conclude_respond_schedule (hl : LevelsFormed s) (n : Nat) (r : Reply) (y : Schedule) :
    conclude (respond p tag r { taken s p n with schedule := y }) = { answeredFrame s p (n + 7) tag r.status r.payload with schedule := y } := by
  have h : respond p tag r { taken s p n with schedule := y } = { answeredFrame s p (n + 7) tag r.status r.payload with schedule := y } :=
    congrArg (fun u : State => { u with schedule := y }) (respond_taken s p n tag r)
  rw [h]
  exact conclude_eq_self ((answered_formed hl p n tag r).setSchedule y)

/-- An admission after which the entry waits. -/
theorem exec_addEntry_waits (h : AddPasses s p d spec i) (hl : LevelsFormed s) (tag : Byte)
    (he : e = newEntry p d spec s.schedule.admission s.time.partTime) {f : Entry}
    (hafter : afterAdmission i e (placeEntry i e (taken s p 26)) = (placeEntry i e (taken s p 26)).putEntry i (some f)) :
    exec (.addEntry p tag d) s
      = .next { answeredFrame s p 33 tag .ok (fields (admittedFields s i (some f))) with schedule := placedSchedule s i (some f) } := by
  have hentry : ((placeEntry i e (taken s p 26)).putEntry i (some f)).entry i = some f := by rw [entry_putEntry, if_pos rfl]
  have hplaced : (placeEntry i e (taken s p 26)).putEntry i (some f) = { taken s p 26 with schedule := placedSchedule s i (some f) } :=
    placeEntry_putEntry_eq (taken s p 26) i e (some f)
  rw [exec_addEntry h tag he hafter (handle_putEntry ..) hentry, hplaced]
  exact congrArg Host.Outcome.next (conclude_respond_schedule hl 26 _ _)

/-- The record of an admitted entry of which nothing is left (R87, R88). -/
def admittedCompleted (s : State) (i : Fin 64) (e : Entry) : Origin × Body :=
  (.master e.owner, .entryCompleted { slot := i, generation := (s.handle i).generation + 1#8 } e.action e.line)

/-- An admission of which nothing is left. -/
theorem exec_addEntry_completes (h : AddPasses s p d spec i) (tag : Byte) (he : e = newEntry p d spec s.schedule.admission s.time.partTime)
    (hafter : afterAdmission i e (placeEntry i e (taken s p 26))
      = State.putEntry
        { placeEntry i e (taken s p 26) with
          journal := s.journal.storing s.time.partTime (quality s)
            [(.master e.owner, .entryCompleted ((placeEntry i e (taken s p 26)).handle i) e.action e.line)] } i none) :
    exec (.addEntry p tag d) s
      = .next (conclude
          { answeredFrame s p 33 tag .ok (fields (admittedFields s i none)) with
            schedule := placedSchedule s i none
            journal := s.journal.storing s.time.partTime (quality s) [admittedCompleted s i e] }) := by
  rw [handle_placeEntry_same] at hafter
  have hplaced : afterAdmission i e (placeEntry i e (taken s p 26))
      = { taken s p 26 with
          schedule := placedSchedule s i none
          journal := s.journal.storing s.time.partTime (quality s) [admittedCompleted s i e] } :=
    hafter.trans (congrArg (fun v : State => { v with
      journal := s.journal.storing s.time.partTime (quality s) [admittedCompleted s i e] }) (placeEntry_putEntry_eq (taken s p 26) i e none))
  have hentry : (afterAdmission i e (placeEntry i e (taken s p 26))).entry i = none := by rw [hafter, entry_putEntry, if_pos rfl]
  have hhandle : (afterAdmission i e (placeEntry i e (taken s p 26))).handle i = (placeEntry i e (taken s p 26)).handle i := by
    rw [hafter, handle_putEntry]
    rfl
  rw [exec_addEntry h tag he rfl hhandle hentry, hplaced]
  refine congrArg (fun v => Host.Outcome.next (conclude v)) ?_
  exact congrArg (fun v : State => { v with
    schedule := placedSchedule s i none
    journal := s.journal.storing s.time.partTime (quality s) [admittedCompleted s i e] })
    (respond_taken s p 26 tag (okay (fields (admittedFields s i none))))

end

/-! ### The entry a descriptor gives -/

theorem boundedDue_eq (d : Nat) : boundedDue d = if d ≤ 2 ^ 64 - 1 then some d else none := by
  unfold boundedDue Config.maxPartTime
  split <;> split <;> first | rfl | omega

/-- An entry without a trigger never rearms (R78). -/
theorem rearm_of_spec {d : Descriptor} {spec : EntrySpec} (h : descriptorSpec? d = some spec) (ht : ∀ g, spec.timing ≠ .trigger g) :
    spec.rearm = false := by
  obtain ⟨_, _, _, t, _, _, _, _, _, ht', _, _, _, rfl⟩ := descriptorSpec?_eq_some.mp h
  have hrange := specTiming?_isSome.mp (Option.isSome_iff_exists.mpr ⟨t, ht'⟩)
  obtain ⟨_, _, h2, hre⟩ := specTiming?_gives ht'
  unfold TimingInRange at hrange
  by_cases h : d.timing = 2#8
  · obtain ⟨n, _, hn⟩ := h2 h
    exact absurd hn (ht _)
  · rw [if_neg h] at hrange
    rw [hrange.2.2.1] at hre
    exact hre

/-- The state of a new entry by its timing. -/
theorem newEntry_state {p : Port} {d : Descriptor} {spec : EntrySpec} {a t : Nat} :
    ((newEntry p d spec a t).state = .awaitingTrigger ∧ (newEntry p d spec a t).due = none ∧ ∃ g, spec.timing = .trigger g)
      ∨ ((newEntry p d spec a t).state = .pending ∧ ∀ g, spec.timing ≠ .trigger g) := by
  unfold newEntry
  cases spec.timing with
  | absolute due => exact .inr ⟨rfl, by simp⟩
  | relative r => exact .inr ⟨rfl, by simp⟩
  | trigger g => exact .inl ⟨rfl, rfl, g, rfl⟩

/-- Settles O35: the checks in order; then what follows an admission at once, by the entry's timing and due time. -/
theorem addEntryAdmits : Obligations.AddEntryAdmits := by
  unfold Obligations.AddEntryAdmits
  intro s p tag d x hr hl hx row names shut
  have hrefuse : ∀ {st : Status}, takeAddEntry p d (taken s p 26) = (taken s p 26, refuse st) → Refuses s row st := fun h =>
    answers_of_live hr hx hl (r := refuse _) (act := takeAddEntry p d) rfl rfl h
  refine ⟨fun k hk h => hrefuse (takeAddEntry_notHolder (s := taken s p 26) hk h),
    fun k hk h hs => hrefuse (takeAddEntry_wrongState (s := taken s p 26) hk h hs), fun hmay => ?_⟩
  have hact := takeAddEntry_of (s := taken s p 26) (p := p) (d := d) hmay
  refine ⟨fun h => hrefuse (hact.trans (by rw [h]; rfl)), fun spec hspec => ?_⟩
  rw [hspec] at hact
  refine ⟨fun h => hrefuse (hact.trans (if_pos h)), fun h hfull => hrefuse (hact.trans ((if_neg (Nat.not_le.mpr h)).trans ?_)),
    fun i hquota hi hlow => ?_⟩
  · rw [lowestFree_eq_none (s := taken s p 26) hfull]
    rfl
  have hadm : AddPasses s p d spec i := ⟨hr, ⟨x, hx⟩, hmay, hspec, hquota, hi, hlow⟩
  intro e generation placed admitted
  have hentry : (placeEntry i e (taken s p 26)).entry i = some e := by rw [entry_placeEntry, if_pos rfl]
  have hself : (placeEntry i e (taken s p 26)).putEntry i (some e) = placeEntry i e (taken s p 26) := putEntry_entry hentry
  have hstate : (e.state = .awaitingTrigger ∧ e.due = none ∧ ∃ g, spec.timing = .trigger g) ∨ (e.state = .pending ∧ ∀ g, spec.timing ≠ .trigger g) :=
    newEntry_state
  have hpending : ∀ due, e.due = some due → e.state = .pending ∧ ∀ g, spec.timing ≠ .trigger g := fun due hd =>
    hstate.resolve_left fun h => by rw [h.2.1] at hd; cases hd
  have hfields : ∀ (f : Entry) (state : Nat) (due : Option Nat), entryStateCode f.state = state → f.due = due →
      admittedFields s i (some f) = [(1, i.val), (1, generation.toNat), (8, s.schedule.admission), (1, state)]
        ++ optionalFields 8 due fun n => [(8, n)] := fun f state due hs hd => by
    subst hs hd
    rfl
  refine ⟨⟨rfl, rfl, rfl, rfl, rfl, rfl, rfl, rfl, rfl, rfl, rfl, rfl, rfl, rfl, rfl, fun due ht => ?_, fun r ht => ?_, fun g ht => ?_⟩,
    fun haw => ?_, fun due hd hlt => ?_, fun due hd hle hdef => ?_, fun h hroom => ?_⟩
  · show (newEntry ..).anchor = _ ∧ (newEntry ..).due = _ ∧ (newEntry ..).trigger = _ ∧ (newEntry ..).state = _
    unfold newEntry
    rw [ht]
    exact ⟨rfl, rfl, rfl, rfl⟩
  · show (newEntry ..).anchor = _ ∧ (newEntry ..).trigger = _ ∧ (newEntry ..).state = _ ∧ (newEntry ..).due = _
    unfold newEntry
    rw [ht]
    exact ⟨rfl, rfl, rfl, boundedDue_eq _⟩
  · show (newEntry ..).anchor = _ ∧ (newEntry ..).due = _ ∧ (newEntry ..).trigger = _ ∧ (newEntry ..).state = _
    unfold newEntry
    rw [ht]
    exact ⟨rfl, rfl, rfl, rfl⟩
  · have hdue : e.due = none := (hstate.resolve_right fun h => by rw [h.1] at haw; cases haw).2.1
    have hexec := exec_addEntry_waits hadm hl tag rfl ((afterAdmission_awaits haw).trans hself.symm)
    rw [hfields e 0 none (by rw [haw]; rfl) hdue] at hexec
    exact hexec
  · have hexec := exec_addEntry_waits hadm hl tag rfl ((afterAdmission_later (u := placeEntry i e (taken s p 26)) hd hlt).trans hself.symm)
    rw [hfields e 1 (some due) (by rw [(hpending due hd).1]; rfl) hd] at hexec
    exact hexec
  · have hafter : afterAdmission i e (placeEntry i e (taken s p 26))
        = (placeEntry i e (taken s p 26)).putEntry i (some { e with state := .deferred }) :=
      (afterAdmission_late (u := placeEntry i e (taken s p 26)) (by rw [(hpending due hd).1]; simp) hd hle).trans (takeLate_deferred (u := placeEntry i e (taken s p 26)) hentry hd rfl hdef)
    have hexec := exec_addEntry_waits hadm hl tag rfl hafter
    rw [hfields { e with state := .deferred } 2 (some due) rfl hd] at hexec
    exact hexec
  · have hroomP : RoomFor 1 (placeEntry i e (taken s p 26)) := hroom.congr rfl rfl
    refine exec_addEntry_completes hadm tag rfl ?_
    rcases h with ⟨hd, hp⟩ | ⟨due, hd, hle, hdef, hskip, hper, hj⟩
    · have hnot : ∀ g, spec.timing ≠ .trigger g := (hstate.resolve_left fun h => by rw [h.1] at hp; cases hp).2
      have hafter : afterAdmission i e (placeEntry i e (taken s p 26)) = closeOccurrence i (placeEntry i e (taken s p 26)) := by
        unfold afterAdmission
        rw [if_neg (by rw [hp]; simp), if_pos (by rw [hd]; rfl)]
      exact hafter.trans (closeOccurrence_completes hentry hd rfl (rearm_of_spec hspec hnot) hroomP)
    · obtain ⟨hp, hnot⟩ := hpending due hd
      exact (afterAdmission_late (u := placeEntry i e (taken s p 26)) (by rw [hp]; simp) hd hle).trans
        (takeLate_skipped (u := placeEntry i e (taken s p 26)) hentry hd hdef hskip hper hj rfl (rearm_of_spec hspec hnot) hroomP)

end Sys2Proof.Machine
end

section
/-! SUPPORT. O28: the settings of a line as they take effect at a tick, and the end of a chatter window. -/

set_option Elab.async false

namespace Sys2Proof.Machine

/-- The journal once a nonzero excess is reported with a tracked level (R26, R32, R33). -/
def reported (s : State) (n : Fin 16) (v : Level) : Journal :=
  if (s.line n).excess = 0 then s.journal
  else s.journal.storing s.time.partTime (quality s) [(.part, .chatter n (s.line n).excess v)]

theorem reportExcess_eq {s : State} {n : Fin 16} {v : Level} (hv : (s.line n).tracked = some v)
    (h : (s.line n).excess ≠ 0 → RoomFor 1 s) : reportExcess n s = { s with journal := reported s n v } := by
  unfold reportExcess reported
  dsimp only
  by_cases h0 : (s.line n).excess = 0
  · rw [if_pos h0, if_pos h0]
  · rw [if_neg h0, if_neg h0, offer_eq_storing (h h0), hv]
    rfl

/-- A change of one line behind the report of its excess. -/
theorem modLine_reportExcess {s : State} {n : Fin 16} {v : Level} (hv : (s.line n).tracked = some v)
    (h : (s.line n).excess ≠ 0 → RoomFor 1 s) (f : EventLine → EventLine) :
    modLine n f (reportExcess n s) = ({ s with journal := reported s n v }).setEventLine n (f (s.line n)) := by
  rw [reportExcess_eq hv h]
  rfl

theorem newFilter_eq (l : EventLine) :
    l.newFilter
      = { l with
          inForce := { l.inForce with filter := l.cfg.filter }
          qual := if l.tracked = some l.raw ∨ l.cfg.filter = 0 then .idle else .qualifying l.raw 0 } := by
  unfold EventLine.newFilter EventLine.beginInterval
  dsimp only
  split <;> rfl

/-- Settles O28: each event of a line is one change of that line, behind the report of its excess where the rule asks for one. -/
theorem lineEvents_holds : Obligations.LineEvents := by
  unfold Obligations.LineEvents
  intro s n l first report
  refine ⟨fun h => exec_tickRow_due h, fun h => ?_, fun h => exec_tickRow_due h, fun v hv hroom => ⟨fun h => ?_, fun h => ?_, fun h => ?_⟩⟩
  · rw [← newFilter_eq l]
    exact exec_tickRow_due h
  · refine (exec_tickRow_due h).trans (congrArg (fun u => Host.Outcome.next (conclude u)) ?_)
    exact modLine_reportExcess (s := s.without (.lineDisable n)) hv (fun hx => (hroom hx).congr rfl rfl) EventLine.disable
  · refine (exec_tickRow_due h).trans (congrArg (fun u => Host.Outcome.next (conclude u)) ?_)
    exact modLine_reportExcess (s := s.without (.budgetChange n)) hv (fun hx => (hroom hx).congr rfl rfl) EventLine.newBudget
  · refine (exec_tickRow_due h).trans (congrArg (fun u => Host.Outcome.next (conclude u)) ?_)
    exact modLine_reportExcess (s := s.without (.chatterWindowEnd n)) hv (fun hx => (hroom hx).congr rfl rfl)
      fun l => { l with admitted := 0, excess := 0 }

end Sys2Proof.Machine
end

section
/-! SUPPORT. Operations on one slot after another: what they leave of the other slots, and what each finds when its turn comes (O27, O29, O39). -/

set_option Elab.async false

namespace Sys2Proof.Machine

/-! ### One slot at a time -/

/-- What the operations on the schedule's slots leave as it is, and read: part time, the permit unit and the gated flags. -/
structure SameRules (s t : State) : Prop where
  time   : t.time = s.time
  permit : t.permit = s.permit
  gates  : ∀ k, (t.out k).gated = (s.out k).gated

theorem SameRules.refl (s : State) : SameRules s s := ⟨rfl, rfl, fun _ => rfl⟩

theorem SameRules.trans {s t u : State} (h : SameRules s t) (k : SameRules t u) : SameRules s u :=
  ⟨k.time.trans h.time, k.permit.trans h.permit, fun i => (k.gates i).trans (h.gates i)⟩

theorem SameRules.of_moves {bs : List Block} {s t : State} (k : Kept bs s t) (m : EntryMoves s t)
    (hb : [Block.time, .permit].all (fun b => !bs.contains b) = true := by rfl) : SameRules s t := by
  have same : ∀ b ∈ [Block.time, .permit], b.same s t := fun b hm => k.unchanged b (by simpa using List.all_eq_true.mp hb b hm)
  exact ⟨same .time (by decide), same .permit (by decide), (entryMoves_noNewEntry m).gates⟩

theorem SameRules.deferredNow {s t : State} (h : SameRules s t) {e e' : Entry} (hl : e'.line = e.line) :
    Machine.deferredNow t e' = Machine.deferredNow s e := by
  unfold Machine.deferredNow
  rw [h.permit, onGatedLine_congr h.gates hl]

/-- An operation on a slot that leaves every other slot's entry, and what such operations read. -/
structure SlotWise (f : State → Fin 64 → State) : Prop where
  others : ∀ (s : State) (i j : Fin 64), j ≠ i → (f s i).entry j = s.entry j
  rules  : ∀ (s : State) (i : Fin 64), SameRules s (f s i)

theorem SlotWise.foldl_rules {f : State → Fin 64 → State} (h : SlotWise f) (L : List (Fin 64)) (s : State) : SameRules s (L.foldl f s) := by
  induction L generalizing s with
  | nil => exact .refl s
  | cons i L ih => exact (h.rules s i).trans (ih _)

/-- A slot that is not in the list keeps its entry. -/
theorem SlotWise.foldl_notMem {f : State → Fin 64 → State} (h : SlotWise f) {L : List (Fin 64)} {j : Fin 64} (hj : j ∉ L) (s : State) :
    (L.foldl f s).entry j = s.entry j := by
  induction L generalizing s with
  | nil => rfl
  | cons i L ih =>
    obtain ⟨h1, h2⟩ := not_or.mp (mt List.mem_cons.mpr hj)
    rw [List.foldl_cons, ih h2, h.others s i j h1]

/-- A slot in the list: when its turn comes its entry is as it was, and after its turn it is left alone. -/
theorem SlotWise.foldl_mem {f : State → Fin 64 → State} (h : SlotWise f) {L : List (Fin 64)} (hn : L.Nodup) {j : Fin 64} (hj : j ∈ L)
    (s : State) : ∃ u, SameRules s u ∧ u.entry j = s.entry j ∧ (L.foldl f s).entry j = (f u j).entry j := by
  induction L generalizing s with
  | nil => cases hj
  | cons i L ih =>
    obtain ⟨hi, hnL⟩ := List.nodup_cons.mp hn
    rw [List.foldl_cons]
    rcases List.mem_cons.mp hj with rfl | hj
    · exact ⟨s, .refl s, rfl, h.foldl_notMem hi (f s j)⟩
    · obtain ⟨u, hu, he, hf⟩ := ih hnL hj (f s i)
      exact ⟨u, (h.rules s i).trans hu, he.trans (h.others s i j fun hji => hi (hji ▸ hj)), hf⟩

/-- An operation that finds the slot empty or works on its entry. -/
theorem Works.others {s t : State} {i : Fin 64} {l : Option (Fin 8)} {w : Work} (h : Works s t i l w) {j : Fin 64} (hj : j ≠ i) :
    t.entry j = s.entry j := by rw [h.entry, if_neg hj]

theorem entry_closeOccurrence_of_ne {s : State} {i j : Fin 64} (hj : j ≠ i) : (closeOccurrence i s).entry j = s.entry j := by
  cases h : s.entry i with
  | none => unfold closeOccurrence; rw [h]
  | some e => exact (works_closeOccurrence h e.line).others hj

/-! ### Late entries -/

theorem takeLate_slotWise (T : Nat) : SlotWise (takeLate T) := by
  refine ⟨fun s i j hj => ?_, fun s i => .of_moves (kept_takeLate T s i) (moves_takeLate T s i)⟩
  cases h : s.entry i with
  | none => unfold takeLate; rw [h]
  | some e =>
    cases hd : e.due with
    | some d => exact (works_takeLate h hd T).others hj
    | none =>
      unfold takeLate
      simp only [h]
      split
      · exact (works_defer h).others hj
      · unfold catchUp
        have h1 := works_endPulse h
        have h2 : (endPulse i s).entry i = some { e with running := none } := by rw [h1.entry, if_pos rfl]
        simp only [h2, hd]
        exact h1.others hj

/-- A late entry on a gated line in HELD (R97). -/
theorem entry_takeLate_deferred {s : State} {i : Fin 64} {e : Entry} (h : s.entry i = some e) (hn : deferredNow s e = true) (T : Nat) :
    (takeLate T s i).entry i = some { e with state := .deferred, running := none } := by
  unfold takeLate
  simp only [h, hn, if_true]
  rw [(works_defer h).entry, if_pos rfl]
  rfl

/-! ### Triggers -/

/-- An entry that takes an edge of a record time (R91). -/
def Entry.triggered (recordTime : Nat) (e : Entry) : Entry :=
  { e with anchor := .relative, due := e.trigger.map fun g => recordTime + g.offset, state := .pending }

theorem takeTrigger_eq {s : State} {i : Fin 64} {e : Entry} (h : s.entry i = some e) (recordTime : Nat) :
    takeTrigger recordTime s i
      = closeOccurrence i (modEntry i (fun f =>
          { f with anchor := .relative, due := boundedDue (recordTime + e.trigger.elim 0 Trigger.offset) }) s) := by
  unfold takeTrigger
  simp only [h]
  cases e.trigger <;> rfl

theorem takeTrigger_slotWise (recordTime : Nat) : SlotWise (takeTrigger recordTime) := by
  refine ⟨fun s i j hj => ?_, fun s i => .of_moves (kept_takeTrigger _ s i) (moves_takeTrigger _ s i)⟩
  cases h : s.entry i with
  | none => unfold takeTrigger; rw [h]
  | some e =>
    rw [takeTrigger_eq h]
    rw [entry_closeOccurrence_of_ne hj, entry_modEntry, if_neg hj]

/-- Taking an edge with a due time in range and no pulse running only sets the entry (R91). -/
theorem takeTrigger_inRange {s : State} {i : Fin 64} {e : Entry} {g : Trigger} {recordTime : Nat} (h : s.entry i = some e)
    (hg : e.trigger = some g) (hr : e.running = none) (hd : recordTime + g.offset ≤ 2 ^ 64 - 1) :
    takeTrigger recordTime s i = modEntry i (Entry.triggered recordTime) s := by
  have hb : boundedDue (recordTime + g.offset) = some (recordTime + g.offset) := by rw [boundedDue_eq, if_pos hd]
  rw [takeTrigger_eq h, hg]
  dsimp only [Option.elim]
  rw [hb]
  generalize hu : modEntry i (fun f => { f with anchor := .relative, due := some (recordTime + g.offset) }) s = u
  have he : u.entry i = some { e with anchor := .relative, due := some (recordTime + g.offset) } := by
    rw [← hu, entry_modEntry, if_pos rfl, h]
    rfl
  have hc : closeOccurrence i u = modEntry i (fun f => { f with state := .pending }) u := by
    unfold closeOccurrence
    simp only [he, hr]
  rw [hc, ← hu]
  unfold modEntry
  rw [entry_putEntry, if_pos rfl, putEntry_putEntry, h]
  simp only [Option.map_some, Entry.triggered, hg]

/-- Changing the entries of a list that a test picks out is changing every entry that meets the test. -/
theorem modEntries_eq_mapEntries {s : State} {N : List (Fin 64)} (hn : N.Nodup) {t : Entry → Bool}
    (hN : ∀ i, i ∈ N ↔ ∃ e, s.entry i = some e ∧ t e = true) (f : Entry → Entry) :
    s.modEntries f N = s.mapEntries fun e => some (if t e = true then f e else e) := by
  obtain ⟨a1, a2, a3⟩ := modEntries_schedule f N s
  refine eq_of_schedule (modEntries_unchanged _ N s) (mapEntries_unchanged s _) (mapEntries_schedule (fun i => ?_) (handle_modEntries _ N s) a1 a2 a3)
  rw [entry_modEntries hn]
  have hi := hN i
  cases he : s.entry i with
  | none => simp
  | some e =>
    rw [he] at hi
    cases hte : t e <;> simp_all

/-- A fold that edits one slot after another, where each edit is the same change of what the list found there. -/
theorem foldl_modEntry {g : State → Fin 64 → State} {f : Entry → Entry} {P : Entry → Prop}
    (hg : ∀ (u : State) (i : Fin 64) (e : Entry), u.entry i = some e → P e → g u i = modEntry i f u) {N : List (Fin 64)} (hn : N.Nodup)
    {s : State} (h : ∀ i ∈ N, ∃ e, s.entry i = some e ∧ P e) : N.foldl g s = s.modEntries f N := by
  induction N generalizing s with
  | nil => rfl
  | cons i N ih =>
    obtain ⟨hi, hnN⟩ := List.nodup_cons.mp hn
    obtain ⟨e, he, hp⟩ := h i (by simp)
    rw [List.foldl_cons, hg s i e he hp]
    refine ih hnN fun j hj => ?_
    rw [entry_modEntry, if_neg fun hji : j = i => hi (hji ▸ hj)]
    exact h j (List.mem_cons_of_mem i hj)

end Sys2Proof.Machine
end

section
/-! SUPPORT. O29: a qualified edge is judged, counted, recorded, and taken by the entries that wait for it. -/

set_option Elab.async false

namespace Sys2Proof.Machine

/-! ### The judgement -/

theorem setEventLine_setEventLine (s : State) (n : Fin 16) (x y : EventLine) :
    (s.setEventLine n x).setEventLine n y = s.setEventLine n y := by
  unfold State.setEventLine
  simp

theorem line_setEventLine_same (s : State) (n : Fin 16) (x : EventLine) : (s.setEventLine n x).line n = x := by
  rw [line_setEventLine, if_pos rfl]

/-- The edge of a line's sample is selected (R29). -/
def Selected (l : EventLine) : Prop :=
  l.inForce.edge = .both ∨ (l.inForce.edge = .rise ∧ edgeTo l.raw = .rise) ∨ (l.inForce.edge = .fall ∧ edgeTo l.raw = .fall)

theorem selects_iff (l : EventLine) : l.inForce.edge.selects (edgeTo l.raw) = true ↔ Selected l := by
  unfold Selected
  cases l.inForce.edge <;> cases edgeTo l.raw <;> simp [EdgeSelect.selects]

/-- A line whose sample has become its tracked level (R29). -/
def EventLine.tracking (l : EventLine) : EventLine := { l with tracked := some l.raw, qual := .idle }

/-- A line that has admitted an edge (R31). -/
def EventLine.counted (l : EventLine) : EventLine :=
  if l.inForce.budget = 0 then l.tracking else { l.tracking with admitted := l.admitted + 1 }

theorem qualifyEdge_unselected {s : State} {n : Fin 16} (h : ¬ Selected (s.line n)) :
    qualifyEdge n s = s.setEventLine n (s.line n).tracking := by
  unfold qualifyEdge
  exact if_neg fun hs => h ((selects_iff _).mp hs)

theorem qualifyEdge_refused {s : State} {n : Fin 16} (h : Selected (s.line n)) (h0 : (s.line n).inForce.budget ≠ 0)
    (hb : (s.line n).inForce.budget ≤ (s.line n).admitted) :
    qualifyEdge n s = s.setEventLine n { (s.line n).tracking with excess := (s.line n).excess + 1 } := by
  unfold qualifyEdge
  dsimp only
  rw [if_pos ((selects_iff _).mpr h), if_neg h0, if_neg (Nat.not_lt.mpr hb)]
  unfold modLine
  rw [line_setEventLine_same, setEventLine_setEventLine]
  rfl

theorem qualifyEdge_admitted {s : State} {n : Fin 16} (h : Selected (s.line n))
    (hb : (s.line n).inForce.budget = 0 ∨ (s.line n).admitted < (s.line n).inForce.budget) :
    qualifyEdge n s = admitEdge n (s.line n).raw (s.setEventLine n (s.line n).counted) := by
  unfold qualifyEdge
  dsimp only
  rw [if_pos ((selects_iff _).mpr h)]
  unfold EventLine.counted
  by_cases h0 : (s.line n).inForce.budget = 0
  · rw [if_pos h0, if_pos h0]
    rfl
  · rw [if_neg h0, if_neg h0, if_pos (hb.resolve_left h0)]
    unfold modLine
    rw [line_setEventLine_same, setEventLine_setEventLine]
    rfl

theorem counted_inForce (l : EventLine) : l.counted.inForce = l.inForce := by
  unfold EventLine.counted
  split <;> rfl

/-! ### The record and the hand-off -/

/-- The state in which an admitted edge is handed to the schedule: the line counted, and the INPUT record offered (R30, R31). -/
def edgeOffered (s : State) (n : Fin 16) : State :=
  offerAs (s.time.partTime - (s.line n).inForce.filter) (quality s) .part (.input n (s.line n).raw (edgeTo (s.line n).raw))
    (s.setEventLine n (s.line n).counted)

theorem admitEdge_counted (s : State) (n : Fin 16) :
    admitEdge n (s.line n).raw (s.setEventLine n (s.line n).counted)
      = handEdge n (edgeTo (s.line n).raw) (s.time.partTime - (s.line n).inForce.filter) (edgeOffered s n) := by
  unfold admitEdge edgeOffered
  dsimp only
  rw [line_setEventLine_same, counted_inForce]
  rfl

theorem edgeOffered_eq {s : State} {n : Fin 16} (h : RoomFor 1 s) :
    edgeOffered s n
      = ({ s with
          journal := s.journal.storing (s.time.partTime - (s.line n).inForce.filter) (quality s)
            [(.part, .input n (s.line n).raw (edgeTo (s.line n).raw))] }).setEventLine n (s.line n).counted := by
  unfold edgeOffered
  rw [offerAs_of_room (s := s.setEventLine n (s.line n).counted) (h.congr rfl rfl)]
  rfl

theorem edgeOffered_rules (s : State) (n : Fin 16) : SameRules s (edgeOffered s n) := by
  have h : SameRules s (s.setEventLine n (s.line n).counted) := ⟨rfl, rfl, fun _ => rfl⟩
  exact h.trans (.of_moves (kept_offerAs _ _ _ _ _) (.single (.offer _ _ _ _ _)))

theorem entry_edgeOffered (s : State) (n : Fin 16) (i : Fin 64) : (edgeOffered s n).entry i = s.entry i := entry_offerAs _ _ _ _ _ _

/-- What the hand-off of an edge leaves of an entry, by whether it waits for the edge (R34, R91). -/
theorem handEdge_other {s : State} {n : Fin 16} {edge : Edge} {t : Nat} {i : Fin 64} (h : ∀ e, s.entry i = some e → e.awaits n edge = false) :
    (handEdge n edge t s).entry i = s.entry i := by
  have hi : i ∉ byAdmission s (slotsWhere s fun e => e.awaits n edge) := fun hi => by
    obtain ⟨e, he, ha⟩ := mem_slotsWhere.mp (mem_byAdmission.mp hi)
    rw [h e he] at ha
    cases ha
  unfold handEdge
  dsimp only
  rw [(takeLate_slotWise _).foldl_notMem, (takeTrigger_slotWise t).foldl_notMem hi]
  rw [mem_byDue]
  exact fun hm => hi (List.mem_of_mem_filter hm)

/-- With no entry waiting for it, the hand-off of an edge does nothing. -/
theorem handEdge_none {s : State} {n : Fin 16} {edge : Edge} {t : Nat} (h : ∀ i e, s.entry i = some e → e.awaits n edge = false) :
    handEdge n edge t s = s := by
  have hnil : slotsWhere s (fun e => e.awaits n edge) = [] := List.eq_nil_iff_forall_not_mem.mpr fun i hi => by
    obtain ⟨e, he, ha⟩ := mem_slotsWhere.mp hi
    rw [h i e he] at ha
    cases ha
  unfold handEdge
  rw [hnil]
  rfl

section
variable {s : State} {n : Fin 16} {edge : Edge} {t : Nat} {i : Fin 64} {e : Entry} {g : Trigger}

/-- An entry that waits for the edge, once all that wait for it have taken it. -/
theorem entry_takers (h : s.entry i = some e) (ha : e.awaits n edge = true) (hg : e.trigger = some g) (hr : e.running = none)
    (hd : t + g.offset ≤ 2 ^ 64 - 1) :
    ((byAdmission s (slotsWhere s fun e => e.awaits n edge)).foldl (takeTrigger t) s).entry i = some (e.triggered t) := by
  have hi : i ∈ byAdmission s (slotsWhere s fun e => e.awaits n edge) := mem_byAdmission.mpr (mem_slotsWhere.mpr ⟨e, h, ha⟩)
  obtain ⟨u, -, he, hf⟩ := (takeTrigger_slotWise t).foldl_mem (byAdmission_nodup (slotsWhere_nodup s _)) hi s
  rw [hf, takeTrigger_inRange (he.trans h) hg hr hd, entry_modEntry, if_pos rfl, he, h]
  rfl

theorem triggered_due (hg : e.trigger = some g) (t : Nat) : (e.triggered t).due = some (t + g.offset) := by
  unfold Entry.triggered
  rw [hg]
  rfl

theorem lateNow_iff {s : State} {e : Entry} (h : s.entry i = some e) {d : Nat} (hd : e.due = some d) (hp : e.state = .pending) :
    lateNow s i = true ↔ d ≤ s.time.partTime := by
  unfold lateNow
  simp only [h, hd, hp, beq_self_eq_true, Bool.true_and, decide_eq_true_iff]

/-- An entry that takes an edge and is due later waits for its due time (R91). -/
theorem handEdge_waits (h : s.entry i = some e) (ha : e.awaits n edge = true) (hg : e.trigger = some g) (hr : e.running = none)
    (hl : s.time.partTime < t + g.offset) (hd : t + g.offset ≤ 2 ^ 64 - 1) :
    (handEdge n edge t s).entry i = some (e.triggered t) := by
  have he := entry_takers h ha hg hr hd
  have hrules := (takeTrigger_slotWise t).foldl_rules (byAdmission s (slotsWhere s fun e => e.awaits n edge)) s
  unfold handEdge
  dsimp only
  generalize (byAdmission s (slotsWhere s fun e => e.awaits n edge)).foldl (takeTrigger t) s = u at he hrules ⊢
  rw [(takeLate_slotWise _).foldl_notMem, he]
  rw [mem_byDue, List.mem_filter]
  rintro ⟨-, hlate⟩
  rw [lateNow_iff he (triggered_due hg t) rfl, hrules.time] at hlate
  omega

/-- An entry that takes an edge, late at once on a gated line in HELD, is deferred (R91, R97). -/
theorem handEdge_defers (h : s.entry i = some e) (ha : e.awaits n edge = true) (hg : e.trigger = some g) (hr : e.running = none)
    (hl : t + g.offset ≤ s.time.partTime) (hd : t + g.offset ≤ 2 ^ 64 - 1) (hn : deferredNow s e = true) :
    (handEdge n edge t s).entry i = some { e.triggered t with state := .deferred } := by
  have he := entry_takers h ha hg hr hd
  have hrules := (takeTrigger_slotWise t).foldl_rules (byAdmission s (slotsWhere s fun e => e.awaits n edge)) s
  have hi : i ∈ byAdmission s (slotsWhere s fun e => e.awaits n edge) := mem_byAdmission.mpr (mem_slotsWhere.mpr ⟨e, h, ha⟩)
  unfold handEdge
  dsimp only
  generalize (byAdmission s (slotsWhere s fun e => e.awaits n edge)).foldl (takeTrigger t) s = u at he hrules ⊢
  have hlate : lateNow u i = true := by
    rw [lateNow_iff he (triggered_due hg t) rfl, hrules.time]
    exact hl
  obtain ⟨v, hv, hev, hf⟩ := (takeLate_slotWise u.time.partTime).foldl_mem
    (byDue_nodup (s := u) ((byAdmission_nodup (slotsWhere_nodup s _)).filter (lateNow u))) (mem_byDue.mpr (List.mem_filter.mpr ⟨hi, hlate⟩)) u
  have hdef : deferredNow v (e.triggered t) = true := ((hrules.trans hv).deferredNow (e := e) rfl).trans hn
  rw [hf, entry_takeLate_deferred (hev.trans he) hdef]
  simp only [Entry.triggered, hr]

end

/-- Settles O29: the judgement of the edge by its selection and the budget; then what the hand-off leaves of each entry. -/
theorem edgeQualifiedIsRecordedAndTaken : Obligations.EdgeQualifiedIsRecordedAndTaken := by
  unfold Obligations.EdgeQualifiedIsRecordedAndTaken
  intro s n h l edge selected after counted recordTime
  have hedge : edge = edgeTo l.raw := by
    show _ = edgeTo l.raw
    cases hr : l.raw <;> simp only [edge, hr] <;> rfl
  have hrow := exec_tickRow_due h
  generalize hv : s.without (.edgeQualified n) = v at hrow ⊢
  have hline : v.line n = l := by rw [← hv]; rfl
  have hsel : selected ↔ Selected (v.line n) := by
    rw [hline]
    show (_ ∨ (_ ∧ edge = _) ∨ (_ ∧ edge = _)) ↔ _
    rw [hedge]
    exact Iff.rfl
  refine ⟨fun hs => ?_, fun hs h0 hb => ?_, fun hs hb => ⟨fun hnone hroom => ?_, ?_⟩⟩
  · refine hrow.trans (congrArg (fun u => Host.Outcome.next (conclude u)) ?_)
    exact (qualifyEdge_unselected (mt hsel.mpr hs)).trans (by rw [hline]; rfl)
  · refine hrow.trans (congrArg (fun u => Host.Outcome.next (conclude u)) ?_)
    exact (qualifyEdge_refused (hsel.mp hs) (by rw [hline]; exact h0) (by rw [hline]; exact hb)).trans (by rw [hline]; rfl)
  · refine hrow.trans (congrArg (fun u => Host.Outcome.next (conclude u)) ?_)
    have hroom' : RoomFor 1 v := hroom.congr (by rw [← hv]; rfl) (by rw [← hv]; rfl)
    have hq := qualifyEdge_admitted (hsel.mp hs) (hline.symm ▸ hb)
    rw [admitEdge_counted, handEdge_none, edgeOffered_eq hroom'] at hq
    · refine hq.trans ?_
      rw [hline, ← hedge, ← hv]
      rfl
    · intro i e he
      rw [entry_edgeOffered, hline, ← hedge] at *
      exact hnone i e (by rw [← he, ← hv]; rfl)
  · have hq := qualifyEdge_admitted (hsel.mp hs) (hline.symm ▸ hb)
    rw [admitEdge_counted, hline, ← hedge] at hq
    have hentry : ∀ i, (edgeOffered v n).entry i = s.entry i := fun i => by rw [entry_edgeOffered, ← hv]; rfl
    have hrules : SameRules s (edgeOffered v n) := by
      have h1 := edgeOffered_rules v n
      rw [← hv] at h1 ⊢
      exact SameRules.trans (s := s) (t := s.without (.edgeQualified n)) ⟨rfl, rfl, fun _ => rfl⟩ h1
    have htime : v.time = s.time := by rw [← hv]; rfl
    have hafter : ∀ i, (conclude (doTickEvent v (.edgeQualified n))).entry i = (handEdge n edge recordTime (edgeOffered v n)).entry i := fun i =>
      (entry_congr (conclude_schedule _) i).trans (by
        refine congrArg (fun u : State => u.entry i) (hq.trans ?_)
        rw [htime])
    refine ⟨_, hrow, ?_, fun i e he ha => ?_, fun i e g he ha hg hr hl hd => ?_, fun i e g he ha hg hr hl hT hp hgate => ?_⟩
    · have hlines : (conclude (doTickEvent v (.edgeQualified n))).lines = (v.setEventLine n (v.line n).counted).lines := by
        rw [conclude_lines]
        refine (congrArg State.lines hq).trans ?_
        exact ((kept_handEdge _ _ _ _).unchanged .lines (by decide)).trans ((kept_offerAs _ _ _ _ _).unchanged .lines (by decide))
      have hl : (conclude (doTickEvent v (.edgeQualified n))).line n = (v.line n).counted := by
        unfold State.line
        rw [hlines]
        exact line_setEventLine_same v n _
      rw [hl, hline]
      rfl
    · rw [hafter, handEdge_other, hentry, he]
      intro f hf
      rw [hentry, he] at hf
      rwa [← Option.some.inj hf]
    · rw [hafter, handEdge_waits ((hentry i).trans he) ha hg hr (by rw [hrules.time]; exact hl) hd]
      simp only [Entry.triggered, hg]
      rfl
    · have hdef : deferredNow (edgeOffered v n) e = true := by
        rw [hrules.deferredNow (e := e) rfl, deferredNow, hp, hgate]
        rfl
      rw [hafter, handEdge_defers ((hentry i).trans he) ha hg hr (by rw [hrules.time]; exact hl) (hl.trans hT) hdef]
      simp only [Entry.triggered, hg]
      rfl

end Sys2Proof.Machine
end

section
/-! SUPPORT. The hand-off of an edge with the entries that are late at once, and what a late admission leaves (O39). -/

set_option Elab.async false

namespace Sys2Proof.Machine

theorem Listed.congr {s t : State} {test : Entry → Prop} {before : Entry → Entry → Prop} {L : List (Fin 64)} (h : Listed s test before L)
    (he : ∀ i, t.entry i = s.entry i) : Listed t test before L := by
  unfold Listed
  simp only [he]
  exact h

theorem Listed.nodup_due {s : State} {test : Entry → Prop} {f : Entry → Entry} {L : List (Fin 64)}
    (h : Listed s test (fun e g => dueBefore (f e) (f g)) L) : L.Nodup := by
  obtain ⟨hmem, hord⟩ := h
  refine hord.imp_of_mem fun {i j} hi _ hij heq => ?_
  subst heq
  obtain ⟨e, he, _⟩ := (hmem i).mp hi
  obtain ⟨d, d', hd, hd', hlt⟩ := hij e e he he
  rw [hd] at hd'
  obtain rfl := Option.some.inj hd'
  omega

/-! ### The hand-off of an edge -/

/-- An entry as an edge leaves it: taken where the entry waits for it (R91). -/
def edgeTaken (n : Fin 16) (edge : Edge) (t : Nat) (e : Entry) : Entry := if e.awaits n edge = true then e.triggered t else e

section
variable {s : State} {n : Fin 16} {edge : Edge} {t : Nat}

/-- The entries that wait for the edge can take it: no pulse runs, and the due times stay in range. -/
def EdgeFits (s : State) (n : Fin 16) (edge : Edge) (t : Nat) : Prop :=
  ∀ i e, s.entry i = some e → e.awaits n edge = true → e.running = none ∧ ∀ g, e.trigger = some g → t + g.offset ≤ 2 ^ 64 - 1

theorem trigger_of_awaits {e : Entry} (h : e.awaits n edge = true) : ∃ g, e.trigger = some g := by
  unfold Entry.awaits at h
  cases ht : e.trigger with
  | none => rw [ht] at h; simp at h
  | some g => exact ⟨g, rfl⟩

/-- The entries that wait for an edge take it, each beside the others (R91). -/
theorem takers_eq (h : EdgeFits s n edge t) :
    (byAdmission s (slotsWhere s fun e => e.awaits n edge)).foldl (takeTrigger t) s = s.mapEntries fun e => some (edgeTaken n edge t e) := by
  have hn := byAdmission_nodup (s := s) (slotsWhere_nodup s fun e => e.awaits n edge)
  have hm : ∀ i, i ∈ byAdmission s (slotsWhere s fun e => e.awaits n edge) ↔ ∃ e, s.entry i = some e ∧ e.awaits n edge = true :=
    fun i => mem_byAdmission.trans mem_slotsWhere
  refine Eq.trans ?_ (modEntries_eq_mapEntries hn hm (Entry.triggered t))
  refine foldl_modEntry (P := fun e => ∃ g, e.trigger = some g ∧ e.running = none ∧ t + g.offset ≤ 2 ^ 64 - 1) ?_ hn ?_
  · rintro u i e he ⟨g, hg, hr, hd⟩
    exact takeTrigger_inRange he hg hr hd
  · intro i hi
    obtain ⟨e, he, ha⟩ := (hm i).mp hi
    obtain ⟨g, hg⟩ := trigger_of_awaits ha
    obtain ⟨hr, hd⟩ := h i e he ha
    exact ⟨e, he, g, hg, hr, hd g hg⟩

theorem handEdge_eq (h : EdgeFits s n edge t) {L : List (Fin 64)}
    (hL : Listed s (fun e => e.awaits n edge = true ∧ (edgeTaken n edge t e).lateAt s.time.partTime = true)
      (fun e f => dueBefore (edgeTaken n edge t e) (edgeTaken n edge t f)) L)
    (hr : RoomFor (2 * L.length) s) :
    handEdge n edge t s = L.foldl lateTaken (s.mapEntries fun e => some (edgeTaken n edge t e)) := by
  have hnodup := hL.nodup_due
  obtain ⟨hmem, hord⟩ := hL
  unfold handEdge
  dsimp only
  rw [takers_eq h]
  generalize hu : s.mapEntries (fun e => some (edgeTaken n edge t e)) = u
  have heu : ∀ i, u.entry i = (s.entry i).map (edgeTaken n edge t) := fun i => by
    rw [← hu, entry_mapEntries, Option.map_eq_bind]
    rfl
  have hn := (byAdmission_nodup (s := s) (slotsWhere_nodup s fun e => e.awaits n edge)).filter (lateNow u)
  have htime : u.time = s.time := by rw [← hu]; rfl
  have hlate : ∀ i e, s.entry i = some e → e.awaits n edge = true →
      ∃ d, (edgeTaken n edge t e).due = some d ∧ (lateNow u i = true ↔ (edgeTaken n edge t e).lateAt s.time.partTime = true) := by
    intro i e he ha
    obtain ⟨g, hg⟩ := trigger_of_awaits ha
    have hd : (edgeTaken n edge t e).due = some (t + g.offset) := by
      unfold edgeTaken
      rw [if_pos ha, triggered_due hg]
    have hp : (edgeTaken n edge t e).state = .pending := by
      unfold edgeTaken
      rw [if_pos ha]
      rfl
    exact ⟨_, hd, by rw [lateNow_iff (by rw [heu, he]; rfl) hd hp, lateAt_iff hd, htime]⟩
  have hby : byDue u ((byAdmission s (slotsWhere s fun e => e.awaits n edge)).filter (lateNow u)) = L := by
    refine byDue_eq hn (fun i => ?_) (hord.imp_of_mem fun {i j} hi hj hij => ?_)
    · rw [hmem, List.mem_filter, mem_byAdmission, mem_slotsWhere]
      constructor
      · rintro ⟨e, he, ha, hl⟩
        obtain ⟨d, -, hiff⟩ := hlate i e he ha
        exact ⟨⟨e, he, ha⟩, hiff.mpr hl⟩
      · rintro ⟨⟨e, he, ha⟩, hl⟩
        obtain ⟨d, -, hiff⟩ := hlate i e he ha
        exact ⟨e, he, ha, hiff.mp hl⟩
    · obtain ⟨e, he, -⟩ := (hmem i).mp hi
      obtain ⟨f, hf, -⟩ := (hmem j).mp hj
      exact ⟨_, _, by rw [heu, he]; rfl, by rw [heu, hf]; rfl, hij e f he hf⟩
  rw [hby, foldl_takeLate hnodup]
  · intro i hi
    obtain ⟨e, he, ha, -⟩ := (hmem i).mp hi
    obtain ⟨d, hd, -⟩ := hlate i e he ha
    exact ⟨_, d, by rw [heu, he]; rfl, hd⟩
  · exact hr.congr (by rw [← hu]; rfl) (by rw [← hu]; rfl)

end

/-- EDGE_QUALIFIED with an admitted edge, where the journal has room (R30, R31, R34, R91). -/
theorem exec_edgeQualified {s : State} {n : Fin 16} (h : Due s (.edgeQualified n)) (hs : Selected (s.line n))
    (hb : (s.line n).inForce.budget = 0 ∨ (s.line n).admitted < (s.line n).inForce.budget)
    (hf : EdgeFits s n (edgeTo (s.line n).raw) (s.time.partTime - (s.line n).inForce.filter)) {L : List (Fin 64)}
    (hL : Listed s (fun e => e.awaits n (edgeTo (s.line n).raw) = true
        ∧ (edgeTaken n (edgeTo (s.line n).raw) (s.time.partTime - (s.line n).inForce.filter) e).lateAt s.time.partTime = true)
      (fun e f => dueBefore (edgeTaken n (edgeTo (s.line n).raw) (s.time.partTime - (s.line n).inForce.filter) e)
        (edgeTaken n (edgeTo (s.line n).raw) (s.time.partTime - (s.line n).inForce.filter) f)) L)
    (hr : RoomFor (1 + 2 * L.length) s) :
    exec (.edgeQualified n) s
      = .next (conclude (L.foldl lateTaken ((edgeOffered (s.without (.edgeQualified n)) n).mapEntries fun e =>
          some (edgeTaken n (edgeTo (s.line n).raw) (s.time.partTime - (s.line n).inForce.filter) e)))) := by
  have hrow := exec_tickRow_due h
  generalize hv : s.without (.edgeQualified n) = v at hrow ⊢
  have hline : v.line n = s.line n := by rw [← hv]; rfl
  have htime : v.time = s.time := by rw [← hv]; rfl
  have hroom : RoomFor (1 + 2 * L.length) v := hr.congr (by rw [← hv]; rfl) (by rw [← hv]; rfl)
  have hentry : ∀ i, (edgeOffered v n).entry i = s.entry i := fun i => by rw [entry_edgeOffered, ← hv]; rfl
  have hq := qualifyEdge_admitted (hline ▸ hs) (hline ▸ hb)
  rw [admitEdge_counted, hline, htime] at hq
  refine hrow.trans (congrArg (fun u => Host.Outcome.next (conclude u)) (hq.trans ?_))
  have hto : (edgeOffered v n).time = s.time := (edgeOffered_rules v n).time.trans htime
  refine handEdge_eq (fun i e he => hf i e ((hentry i).symm.trans he)) ?_ ?_
  · rw [hto]
    exact hL.congr hentry
  · rw [edgeOffered_eq (hroom.mono (by omega))]
    exact RoomFor.storing (s := v) (n := 2 * L.length) (l := [_]) (hroom.mono (by rw [List.length_singleton]; omega)) rfl rfl

end Sys2Proof.Machine
end

section
/-! SUPPORT. A step of part time as the schedule takes it, and what it does to the due times of entries (O27). -/

set_option Elab.async false

namespace Sys2Proof.Machine

/-! ### The shift -/

/-- An entry as a step of part time moves it (R94). -/
def Entry.shifted (delta : Int) (e : Entry) : Entry :=
  if e.anchor = .relative then { e with due := e.due.map fun d => ((d : Int) + delta).toNat } else e

/-- A step keeps the entry's due time in range, where it moves it (R87, R94). -/
def Entry.ShiftFits (delta : Int) (e : Entry) : Prop :=
  e.anchor = .relative → ∀ d, e.due = some d → 0 ≤ (d : Int) + delta ∧ (d : Int) + delta ≤ 2 ^ 64 - 1

theorem shifted_absolute {e : Entry} (h : e.anchor = .absolute) (delta : Int) : e.shifted delta = e := by
  unfold Entry.shifted
  rw [if_neg (by rw [h]; decide)]

theorem shifted_noDue {e : Entry} (h : e.due = none) (delta : Int) : e.shifted delta = e := by
  unfold Entry.shifted
  rw [h]
  split
  · exact congrArg (fun d => { e with due := d }) h.symm
  · rfl

theorem shifted_relative {e : Entry} {d : Nat} (h : e.anchor = .relative) (hd : e.due = some d) (delta : Int) :
    e.shifted delta = { e with due := some ((d : Int) + delta).toNat } := by
  unfold Entry.shifted
  rw [if_pos h, hd]
  rfl

theorem shifted_anchor (e : Entry) (delta : Int) : (e.shifted delta).anchor = e.anchor := by
  unfold Entry.shifted
  split <;> rfl

theorem modEntry_same {s : State} {i : Fin 64} {e : Entry} {f : Entry → Entry} (h : s.entry i = some e) (hf : f e = e) : modEntry i f s = s := by
  unfold modEntry
  rw [h, Option.map_some, hf]
  exact putEntry_entry h

theorem shiftDue_eq {delta : Int} {d : Nat} (free : Nat) (h0 : 0 ≤ (d : Int) + delta) (h1 : (d : Int) + delta ≤ 2 ^ 64 - 1) :
    shiftDue delta free d = some ((d : Int) + delta).toNat := by
  unfold shiftDue
  dsimp only
  rw [if_neg (Int.not_lt.mpr h0), boundedDue_eq, if_pos (by omega)]

/-- A step that keeps the due time in range moves it and nothing else of the schedule (R94). -/
theorem shiftEntry_fits {s : State} {i : Fin 64} {e : Entry} {delta : Int} (h : s.entry i = some e) (hf : e.ShiftFits delta) :
    shiftEntry delta s i = modEntry i (Entry.shifted delta) s := by
  unfold shiftEntry
  simp only [h]
  cases ha : e.anchor with
  | absolute => exact (modEntry_same h (shifted_absolute ha delta)).symm
  | relative =>
    cases hd : e.due with
    | none => exact (modEntry_same h (shifted_noDue hd delta)).symm
    | some d =>
      obtain ⟨h0, h1⟩ := hf ha d hd
      dsimp only
      rw [shiftDue_eq _ h0 h1, if_neg (Int.not_lt.mpr h0), if_neg (by simp)]
      unfold modEntry
      rw [h, Option.map_some, Option.map_some, shifted_relative ha hd]

theorem shiftEntry_slotWise (delta : Int) : SlotWise (shiftEntry delta) := by
  refine ⟨fun s i j hj => ?_, fun s i => .of_moves (kept_shiftEntry _ s i) (moves_shiftEntry _ s i)⟩
  unfold shiftEntry
  split
  · rfl
  · split
    · dsimp only
      have h1 : ∀ (c : Prop) [Decidable c] (f : Entry → Entry), (modEntry i f (if c then useFree s else s)).entry j = s.entry j := by
        intro c _ f
        rw [entry_modEntry, if_neg hj]
        split <;> rfl
      split
      · exact (entry_closeOccurrence_of_ne hj).trans (h1 _ _)
      · exact h1 _ _
    · rfl

/-- The slots of all entries in admission order. -/
def allEntries (s : State) : List (Fin 64) := byAdmission s (slotsWhere s fun _ => true)

theorem mem_allEntries {s : State} {i : Fin 64} : i ∈ allEntries s ↔ ∃ e, s.entry i = some e := by
  unfold allEntries
  rw [mem_byAdmission, mem_slotsWhere]
  simp

theorem allEntries_nodup (s : State) : (allEntries s).Nodup := byAdmission_nodup (slotsWhere_nodup s _)

/-- Every entry once the step has moved the due times. -/
theorem entry_shifts {s : State} {delta : Int} {i : Fin 64} {e : Entry} (h : s.entry i = some e) (hf : e.ShiftFits delta) :
    ((allEntries s).foldl (shiftEntry delta) s).entry i = some (e.shifted delta) := by
  obtain ⟨u, -, he, hu⟩ := (shiftEntry_slotWise delta).foldl_mem (allEntries_nodup s) (mem_allEntries.mpr ⟨e, h⟩) s
  rw [hu, shiftEntry_fits (he.trans h) hf, entry_modEntry, if_pos rfl, he, h]
  rfl

/-! ### The entries passed over -/

theorem passedOver_iff {e : Entry} {t0 t1 : Nat} :
    e.passedOver t0 t1 = true
      ↔ e.anchor = .absolute ∧ (e.state = .pending ∨ e.state = .pulsing) ∧ ∃ d, e.due = some d ∧ t0 < d ∧ d ≤ t1 := by
  unfold Entry.passedOver Entry.inDueOrder
  cases e.due with
  | none => simp
  | some d => simp [and_assoc]

/-- An entry that the step does not pass over is left as the shift made it. -/
theorem scheduleStep_notPassed {s : State} {t0 t1 : Nat} {i : Fin 64} {e : Entry} (h : s.entry i = some e)
    (hf : e.ShiftFits ((t1 : Int) - t0)) (hp : (e.shifted ((t1 : Int) - t0)).passedOver t0 t1 = false) :
    (scheduleStep t0 t1 s).entry i = some (e.shifted ((t1 : Int) - t0)) := by
  have he := entry_shifts h hf
  unfold scheduleStep
  dsimp only
  unfold allEntries at he
  generalize (byAdmission s (slotsWhere s fun _ => true)).foldl (shiftEntry ((t1 : Int) - t0)) s = u at he ⊢
  rw [(takeLate_slotWise t1).foldl_notMem, he]
  rw [mem_byDue, mem_slotsWhere]
  rintro ⟨f, hfe, hpass⟩
  rw [he] at hfe
  rw [← Option.some.inj hfe, hp] at hpass
  cases hpass

/-- An entry that the step passes over on a gated line in HELD is deferred (R93, R97). -/
theorem scheduleStep_defers {s : State} {t0 t1 : Nat} {i : Fin 64} {e : Entry} (h : s.entry i = some e) (hp : e.passedOver t0 t1 = true)
    (hn : deferredNow s e = true) : (scheduleStep t0 t1 s).entry i = some { e with state := .deferred, running := none } := by
  have ha := (passedOver_iff.mp hp).1
  have he := entry_shifts (delta := (t1 : Int) - t0) h fun hr => by rw [ha] at hr; cases hr
  rw [shifted_absolute ha] at he
  have hrules := (shiftEntry_slotWise ((t1 : Int) - t0)).foldl_rules (allEntries s) s
  unfold scheduleStep
  dsimp only
  unfold allEntries at he hrules
  generalize (byAdmission s (slotsWhere s fun _ => true)).foldl (shiftEntry ((t1 : Int) - t0)) s = u at he hrules ⊢
  obtain ⟨v, hv, hev, hfold⟩ := (takeLate_slotWise t1).foldl_mem (byDue_nodup (s := u) (slotsWhere_nodup u (Entry.passedOver t0 t1)))
    (mem_byDue.mpr (mem_slotsWhere.mpr ⟨e, he, hp⟩)) u
  rw [hfold, entry_takeLate_deferred (hev.trans he)]
  exact ((hrules.trans hv).deferredNow rfl).trans hn

/-! ### The row -/

theorem nextEvent_step {s : State} (h : nextEvent s = some .step) : s.time.stepDue = true := by
  unfold nextEvent at h
  split at h
  · cases h
  · split at h
    · cases h
    · split at h
      · cases h
      · split at h
        · cases h
        · split_ifs at h with hd hs ha
          · exact hd
          · cases h
          · cases h

/-- STEP_APPLICATION with the step due next. -/
theorem exec_stepApplication {s : State} (h : nextEvent s = some .step) : exec .stepApplication s = .next (conclude (applyStep s)) := by
  have hd : drainBelow 4 s = s := drain_of_not_below h (Nat.le_refl 4) _
  have hrow : exec .stepApplication s = execStepApplication s := rfl
  rw [hrow, execStepApplication, if_pos (nextEvent_step h), hd]

theorem applyStep_inRange {s : State} {y : PendingStep} (hy : s.time.step = some y) (h0 : 0 ≤ (s.time.partTime : Int) + y.offset)
    (h1 : (s.time.partTime : Int) + y.offset ≤ 2 ^ 64 - 1) :
    applyStep s = acceptStep y ((s.time.partTime : Int) + y.offset).toNat s := by
  unfold applyStep
  simp only [hy]
  rw [if_neg]
  unfold Config.maxPartTime
  push_cast
  omega

/-- The state in which a step that is applied is handed to the schedule: part time and validity moved, a slew abandoned (R13, R17). -/
def stepMoved (y : PendingStep) (target : Nat) (s : State) : State :=
  abandonSlew (s.setTime
    { s.time with partTime := target, validity := if y.markValid && s.time.validity == .invalid then .valid else s.time.validity })

theorem stepMoved_rules (y : PendingStep) (target : Nat) (s : State) :
    (stepMoved y target s).schedule = s.schedule ∧ (stepMoved y target s).permit = s.permit ∧ (stepMoved y target s).outs = s.outs :=
  have h := (kept_abandonSlew (s.setTime
    { s.time with partTime := target, validity := if y.markValid && s.time.validity == .invalid then .valid else s.time.validity })).unchanged
  ⟨h .schedule (by decide), h .permit (by decide), h .outs (by decide)⟩

/-- What the application of a step does after its hand-over to the schedule: STEP_APPLIED, MARKED_VALID, and the slot empty (R13). -/
def stepEnded (y : PendingStep) (b : Nat) (marks : Bool) (u : State) : State :=
  let v := offer (.master y.issuer) (.time (.stepApplied b)) u
  let w := if marks then levelFalls .timeInvalid (offer (.master y.issuer) (.time .markedValid) v) else v
  w.setTime { w.time with step := none, stepDue := false }

theorem acceptStep_eq (y : PendingStep) (target : Nat) (s : State) :
    acceptStep y target s
      = stepEnded y s.time.partTime (y.markValid && s.time.validity == .invalid)
          (scheduleStep s.time.partTime target (stepMoved y target s)) := by
  unfold acceptStep stepEnded stepMoved
  rfl

theorem schedule_stepEnded (y : PendingStep) (b : Nat) (marks : Bool) (u : State) : (stepEnded y b marks u).schedule = u.schedule := by
  have h1 : (offer (.master y.issuer) (.time (.stepApplied b)) u).schedule = u.schedule := (kept_offer _ _ _).unchanged .schedule (by decide)
  unfold stepEnded
  dsimp only
  rw [State.setTime_schedule]
  cases marks
  · exact h1
  · exact Eq.trans ((kept_offer _ _ _).unchanged .schedule (by decide)) h1

/-- Settles O27: the shift entry by entry, then the entries passed over. -/
theorem stepMovesDueTimes : Obligations.StepMovesDueTimes := by
  unfold Obligations.StepMovesDueTimes
  intro s y h hy h0 h1
  generalize ht : ((s.time.partTime : Int) + y.offset).toNat = target
  have hdelta : (target : Int) - s.time.partTime = y.offset := by omega
  have hexec := exec_stepApplication h
  rw [applyStep_inRange hy h0 h1, ht] at hexec
  generalize hu : stepMoved y target s = u
  obtain ⟨hus, hup, huo⟩ := stepMoved_rules y target s
  rw [hu] at hus hup huo
  have hue : ∀ i, u.entry i = s.entry i := entry_congr hus
  have hafter : ∀ i, (conclude (acceptStep y target s)).entry i = (scheduleStep s.time.partTime target u).entry i := fun i => by
    refine entry_congr ?_ i
    rw [conclude_schedule, acceptStep_eq, schedule_stepEnded, hu]
  refine ⟨_, hexec, fun i e d he ha hd hd0 hd1 => ?_, fun i e he hd => ?_, fun i e d he ha hd hout => ?_,
    fun i e d he ha hd hlt hle hst hrun hp hg => ?_⟩
  · rw [hafter, scheduleStep_notPassed ((hue i).trans he)]
    · rw [hdelta, shifted_relative ha hd]
    · rw [hdelta]
      intro _ d' hd'
      rw [hd] at hd'
      obtain rfl := Option.some.inj hd'
      exact ⟨hd0, hd1⟩
    · rw [Bool.eq_false_iff]
      intro hpass
      have habs := (passedOver_iff.mp hpass).1
      rw [shifted_anchor, ha] at habs
      cases habs
  · rw [hafter, scheduleStep_notPassed ((hue i).trans he), shifted_noDue hd]
    · intro _ d hd'
      rw [hd] at hd'
      cases hd'
    · rw [shifted_noDue hd, Bool.eq_false_iff]
      intro hpass
      obtain ⟨-, -, d, hd', -⟩ := passedOver_iff.mp hpass
      rw [hd] at hd'
      cases hd'
  · rw [hafter, scheduleStep_notPassed ((hue i).trans he), shifted_absolute ha]
    · intro hr
      rw [ha] at hr
      cases hr
    · rw [shifted_absolute ha, Bool.eq_false_iff]
      intro hpass
      obtain ⟨-, -, d', hd', hlt, hle⟩ := passedOver_iff.mp hpass
      rw [hd] at hd'
      obtain rfl := Option.some.inj hd'
      omega
  · rw [hafter, scheduleStep_defers ((hue i).trans he)]
    · rw [← hrun]
    · exact passedOver_iff.mpr ⟨ha, .inl hst, d, hd, hlt, by omega⟩
    · unfold deferredNow
      rw [hup, hp, onGatedLine_congr (s := s) (e := e) (fun k => by unfold State.out; rw [huo]) rfl, hg]
      rfl

end Sys2Proof.Machine
end

section
/-! SUPPORT. O26: the pending step at its boundary; with the full state it leaves where the journal has room (O39). -/

set_option Elab.async false

namespace Sys2Proof.Machine

/-! ### The schedule's part -/

theorem lateWork_setTime (s : State) {x : Timebase} (hp : x.partTime = s.time.partTime) (i : Fin 64) (e : Entry) :
    lateWork (s.setTime x) i e = lateWork s i e := by
  unfold lateWork
  rw [State.setTime_time, hp]
  rfl

theorem lateTaken_setTime (s : State) {x : Timebase} (hp : x.partTime = s.time.partTime) (hq : quality (s.setTime x) = quality s) (i : Fin 64) :
    lateTaken (s.setTime x) i = (lateTaken s i).setTime x := by
  cases he : s.entry i with
  | none => rw [lateTaken_none he, lateTaken_none (s := s.setTime x) he]
  | some e =>
    rw [lateTaken_worked he, lateTaken_worked (s := s.setTime x) he, lateWork_setTime s hp]
    unfold State.worked
    rw [hq, State.setTime_time, hp]
    unfold modOut
    cases e.line <;> rfl

theorem lateTakens_setTime (L : List (Fin 64)) (s : State) {x : Timebase} (hp : x.partTime = s.time.partTime)
    (hq : quality (s.setTime x) = quality s) : L.foldl lateTaken (s.setTime x) = (L.foldl lateTaken s).setTime x := by
  induction L generalizing s with
  | nil => rfl
  | cons i L ih =>
    have ht : (lateTaken s i).time = s.time := lateTaken_unchanged s i .time (by decide)
    rw [List.foldl_cons, List.foldl_cons, lateTaken_setTime s hp hq, ih _ (by rw [ht]; exact hp)]
    have hqs : quality (lateTaken s i) = quality s := by unfold quality; rw [ht]
    rw [hqs]
    exact hq

/-- A step that passes over the entries of L, in due order (R93, R94). -/
def PassesOver (s : State) (t0 : Nat) (target : Int) (L : List (Fin 64)) : Prop :=
  Listed s (fun e => e.anchor = .absolute ∧ (e.state = .pending ∨ e.state = .pulsing) ∧ ∃ d, e.due = some d ∧ t0 < d ∧ (d : Int) ≤ target)
    dueBefore L

theorem shifts_eq {s : State} {delta : Int} (h : ∀ i e, s.entry i = some e → e.ShiftFits delta) :
    (allEntries s).foldl (shiftEntry delta) s = s.mapEntries fun e => some (e.shifted delta) := by
  have hmap := modEntries_eq_mapEntries (t := fun _ => true) (allEntries_nodup s)
    (fun i => mem_allEntries.trans ⟨fun ⟨e, he⟩ => ⟨e, he, rfl⟩, fun ⟨e, he, _⟩ => ⟨e, he⟩⟩) (Entry.shifted delta)
  simp only [if_true] at hmap
  refine Eq.trans (foldl_modEntry (P := Entry.ShiftFits delta) (fun u i e he hf => shiftEntry_fits he hf) (allEntries_nodup s) ?_) hmap
  intro i hi
  obtain ⟨e, he⟩ := mem_allEntries.mp hi
  exact ⟨e, he, h i e he⟩

/-- A step handed to the schedule, where the due times it moves stay in range and the journal has room (R93, R94). -/
theorem scheduleStep_eq {s : State} {t0 : Nat} {L : List (Fin 64)} (h : ∀ i e, s.entry i = some e → e.ShiftFits ((s.time.partTime : Int) - t0))
    (hL : PassesOver s t0 s.time.partTime L) (hr : RoomFor (2 * L.length) s) :
    scheduleStep t0 s.time.partTime s = L.foldl lateTaken (s.mapEntries fun e => some (e.shifted ((s.time.partTime : Int) - t0))) := by
  have hnodup := Listed.nodup_due (f := id) hL
  obtain ⟨hmem, hord⟩ := hL
  have hs := shifts_eq h
  unfold allEntries at hs
  unfold scheduleStep
  dsimp only
  rw [hs]
  generalize hu : s.mapEntries (fun e => some (e.shifted ((s.time.partTime : Int) - t0))) = u
  have heu : ∀ i, u.entry i = (s.entry i).map (Entry.shifted ((s.time.partTime : Int) - t0)) := fun i => by
    rw [← hu, entry_mapEntries, Option.map_eq_bind]
    rfl
  have htime : u.time = s.time := by rw [← hu]; rfl
  have habs : ∀ i e, s.entry i = some e → e.anchor = .absolute → u.entry i = some e := fun i e he ha => by
    rw [heu, he, Option.map_some, shifted_absolute ha]
  have hby : byDue u (slotsWhere u (Entry.passedOver t0 s.time.partTime)) = L := by
    refine byDue_eq (slotsWhere_nodup u _) (fun i => ?_) (hord.imp_of_mem fun {i j} hi hj hij => ?_)
    · rw [hmem, mem_slotsWhere]
      constructor
      · rintro ⟨e, he, ha, hst, d, hd, hlt, hle⟩
        exact ⟨e, habs i e he ha, passedOver_iff.mpr ⟨ha, hst, d, hd, hlt, by exact_mod_cast hle⟩⟩
      · rintro ⟨f, hf, hpass⟩
        obtain ⟨ha, hst, d, hd, hlt, hle⟩ := passedOver_iff.mp hpass
        rw [heu] at hf
        obtain ⟨e, he, rfl⟩ := Option.map_eq_some_iff.mp hf
        rw [shifted_anchor] at ha
        rw [shifted_absolute ha] at hst hd
        exact ⟨e, he, ha, hst, d, hd, hlt, by exact_mod_cast hle⟩
    · obtain ⟨e, he, ha, -⟩ := (hmem i).mp hi
      obtain ⟨f, hf, hfa, -⟩ := (hmem j).mp hj
      exact ⟨e, f, habs i e he ha, habs j f hf hfa, hij e f he hf⟩
  rw [hby, ← htime, foldl_takeLate hnodup]
  · intro i hi
    obtain ⟨e, he, ha, -, d, hd, -⟩ := (hmem i).mp hi
    exact ⟨e, d, habs i e he ha, hd⟩
  · exact hr.congr (by rw [← hu]; rfl) (by rw [← hu]; rfl)

/-! ### The time, the records and the conditions -/

/-- The timebase that an applied step leaves (R13, R17). -/
def stepTime (y : PendingStep) (target : Nat) (s : State) : Timebase :=
  { s.time with
    partTime := target, validity := if y.markValid && s.time.validity == .invalid then .valid else s.time.validity
    step := none, stepDue := false, slew := none }

/-- The state that an applied step hands to the schedule, but for the slot, where the journal has room. -/
def stepStored (y : PendingStep) (target : Nat) (s : State) : State :=
  { s with
    time := stepTime y target s
    journal := s.journal.storing target (quality (s.setTime (stepTime y target s))) (abandonRecords s) }

/-- The timebase while a step is applied: the slot is emptied last. -/
def stepHeld (y : PendingStep) (target : Nat) (s : State) : Timebase :=
  { stepTime y target s with step := s.time.step, stepDue := s.time.stepDue }

theorem stepMoved_time (y : PendingStep) (target : Nat) (s : State) : (stepMoved y target s).time = stepHeld y target s := by
  unfold stepMoved abandonSlew
  split
  · next h =>
    rw [State.setTime_time] at h ⊢
    unfold stepHeld stepTime
    exact congrArg (fun x => { s.time with
      partTime := target, validity := if y.markValid && s.time.validity == Validity.invalid then Validity.valid else s.time.validity, slew := x }) h
  · exact (kept_offer _ _ _).unchanged .time (by decide)

theorem stepMoved_eq {s : State} (h : RoomFor 1 s) (y : PendingStep) (target : Nat) :
    stepMoved y target s = (stepStored y target s).setTime (stepHeld y target s) :=
  abandonSlew_eq (s := s.setTime { s.time with
    partTime := target, validity := if y.markValid && s.time.validity == .invalid then .valid else s.time.validity })
    fun _ => h.congr rfl rfl

/-- The records of a step that is applied, after those of the schedule (R13). -/
def appliedRecords (y : PendingStep) (b : Nat) (marks : Bool) : List (Origin × Body) :=
  (.master y.issuer, .time (.stepApplied b)) :: if marks = true then [(.master y.issuer, .time .markedValid)] else []

/-- The end of a step that is applied, where the journal has room. -/
theorem stepEnded_eq {u : State} {x : Timebase} {T : Nat} {a : Option PendingStep} {c : Bool} (y : PendingStep) (b : Nat) (marks : Bool)
    (hx : x = { u.time with step := a, stepDue := c }) (hT : u.time.partTime = T) (hs : u.time.step = none) (hd : u.time.stepDue = false)
    (h : RoomFor 2 u) :
    stepEnded y b marks (u.setTime x)
      = { u with
          journal := u.journal.storing T (quality u) (appliedRecords y b marks)
          conditions :=
            if marks = true then { u.conditions with timeInvalid := { u.conditions.timeInvalid with active := false } } else u.conditions } := by
  have htime : ({ u.time with step := none, stepDue := false } : Timebase) = u.time := by rw [← hs, ← hd]
  subst hx hT
  unfold stepEnded appliedRecords
  dsimp only
  rw [offer_eq_storing (s := u.setTime { u.time with step := a, stepDue := c }) (h.mono (by omega) |>.congr rfl rfl)]
  cases marks with
  | false =>
    exact congrArg (fun x : Timebase => { u with
      time := x
      journal := u.journal.storing u.time.partTime (quality u) [(.master y.issuer, .time (.stepApplied b))] }) htime
  | true =>
    have h2 := offer_behind
      (u := { u with
        time := { u.time with step := a, stepDue := c }
        journal := u.journal.storing u.time.partTime (quality u) [(.master y.issuer, .time (.stepApplied b))] })
      (j := u.journal) (l := [(.master y.issuer, .time (.stepApplied b))]) rfl
      (RoomFor.storing (s := u) (n := 1) (t := u.time.partTime) (q := quality u) (l := [(.master y.issuer, .time (.stepApplied b))])
        (h.mono (by simp)) rfl rfl)
      (.master y.issuer) (.time .markedValid)
    exact (congrArg (fun v : State => (levelFalls .timeInvalid v).setTime { v.time with step := none, stepDue := false }) h2).trans
      (congrArg (fun x : Timebase => { u with
        time := x
        journal := u.journal.storing u.time.partTime (quality u) [(.master y.issuer, .time (.stepApplied b)), (.master y.issuer, .time .markedValid)]
        conditions := { u.conditions with timeInvalid := { u.conditions.timeInvalid with active := false } } }) htime)

/-- The state that an applied step leaves, where the due times it moves stay in range and the journal has room (R13, R93, R94). -/
theorem acceptStep_stored {s : State} {y : PendingStep} {target : Nat} {L : List (Fin 64)}
    (h : ∀ i e, s.entry i = some e → e.ShiftFits ((target : Int) - s.time.partTime)) (hL : PassesOver s s.time.partTime target L)
    (hr : RoomFor (3 + 2 * L.length) s) {u : State}
    (hu : L.foldl lateTaken ((stepStored y target s).mapEntries fun e => some (e.shifted ((target : Int) - s.time.partTime))) = u) :
    acceptStep y target s
      = { u with
          journal := u.journal.storing target (quality u)
            (appliedRecords y s.time.partTime (y.markValid && s.time.validity == .invalid))
          conditions :=
            if (y.markValid && s.time.validity == .invalid) = true then
              { u.conditions with timeInvalid := { u.conditions.timeInvalid with active := false } } else u.conditions } := by
  have hroom : RoomFor (2 + 2 * L.length) (stepStored y target s) := by
    refine RoomFor.storing (s := s) (t := target) (q := quality (s.setTime (stepTime y target s))) (l := abandonRecords s) ?_ rfl rfl
    exact hr.mono (by have := abandonRecords_length s; omega)
  have hroomu : RoomFor 2 u := by
    rw [← hu]
    exact lateTakens_room (hroom.congr rfl rfl)
  have htime : u.time = stepTime y target s := by
    rw [← hu]
    exact lateTakens_unchanged L _ .time (by decide)
  rw [acceptStep_eq, stepMoved_eq (hr.mono (by omega))]
  have hstep := scheduleStep_eq (s := (stepStored y target s).setTime (stepHeld y target s)) (t0 := s.time.partTime) (L := L) h hL
    (hroom.mono (by omega) |>.congr rfl rfl)
  have hlate := lateTakens_setTime L
    ((stepStored y target s).mapEntries fun e => some (e.shifted ((target : Int) - s.time.partTime))) (x := stepHeld y target s) rfl rfl
  have hpart : ((stepStored y target s).setTime (stepHeld y target s)).time.partTime = target := rfl
  rw [hpart] at hstep
  rw [hu] at hlate
  rw [hstep]
  refine (congrArg (stepEnded y s.time.partTime (y.markValid && s.time.validity == .invalid)) hlate).trans ?_
  exact stepEnded_eq (a := s.time.step) (c := s.time.stepDue) y _ _ (by rw [htime]; rfl) (by rw [htime]; rfl) (by rw [htime]; rfl)
    (by rw [htime]; rfl) hroomu

end Sys2Proof.Machine
end

section
/-! SUPPORT. O26 settled: the step refused, the step applied whatever the journal does, and the step applied to an empty schedule. -/

set_option Elab.async false

namespace Sys2Proof.Machine

theorem time_stepEnded (y : PendingStep) (b : Nat) (marks : Bool) (u : State) :
    (stepEnded y b marks u).time = { u.time with step := none, stepDue := false } := by
  have h1 : (offer (.master y.issuer) (.time (.stepApplied b)) u).time = u.time := (kept_offer _ _ _).unchanged .time (by decide)
  unfold stepEnded
  dsimp only
  rw [State.setTime_time]
  cases marks
  · exact congrArg (fun x : Timebase => { x with step := none, stepDue := false }) h1
  · have h2 : (offer (.master y.issuer) (.time .markedValid) (offer (.master y.issuer) (.time (.stepApplied b)) u)).time = u.time :=
      Eq.trans ((kept_offer _ _ _).unchanged .time (by decide)) h1
    exact congrArg (fun x : Timebase => { x with step := none, stepDue := false }) h2

theorem time_acceptStep (y : PendingStep) (target : Nat) (s : State) : (acceptStep y target s).time = stepTime y target s := by
  have h : (scheduleStep s.time.partTime target (stepMoved y target s)).time = stepHeld y target s :=
    Eq.trans ((kept_scheduleStep _ _ _).unchanged .time (by decide)) (stepMoved_time y target s)
  rw [acceptStep_eq, time_stepEnded, h]
  rfl

theorem condition_stepEnded (y : PendingStep) (b : Nat) (u : State) : ((stepEnded y b true u).condition .timeInvalid).active = false := rfl

theorem condition_acceptStep {s : State} {y : PendingStep} (h : (y.markValid && s.time.validity == .invalid) = true) (target : Nat) :
    ((acceptStep y target s).condition .timeInvalid).active = false := by
  rw [acceptStep_eq, h]
  exact condition_stepEnded y _ _

theorem condition_conclude (u : State) (c : Condition) : (conclude u).condition c = u.condition c := by
  unfold State.condition
  rw [conclude_conditions]

theorem mapEntries_none {s : State} (h : ∀ i, s.entry i = none) (f : Entry → Option Entry) : s.mapEntries f = s := by
  refine eq_of_schedule (mapEntries_unchanged s f) (Kept.refl [.schedule] s).unchanged ?_
  refine schedule_ext (fun i => ⟨?_, ?_⟩) rfl rfl rfl
  · have : (s.mapEntries f).entry i = s.entry i := by rw [entry_mapEntries, h]; rfl
    exact this
  · exact congrArg Handle.generation (handle_mapEntries s f i)

theorem refuseStep_eq {s : State} (h : RoomFor 1 s) (y : PendingStep) :
    refuseStep y s
      = { s with
          time := { s.time with step := none, stepDue := false }
          journal := s.journal.storing s.time.partTime (quality s) [(.master y.issuer, .time (.stepRefused y.offset))] } :=
  offer_eq_storing (s := s.setTime { s.time with step := none, stepDue := false }) (h.congr rfl rfl) _ _

theorem applyStep_outOfRange {s : State} {y : PendingStep} (hy : s.time.step = some y)
    (h : (s.time.partTime : Int) + y.offset < 0 ∨ 2 ^ 64 - 1 < (s.time.partTime : Int) + y.offset) : applyStep s = refuseStep y s := by
  unfold applyStep
  simp only [hy]
  rw [if_pos]
  unfold Config.maxPartTime
  push_cast
  omega

/-- Settles O26: the step out of range is refused; in range it moves part time, and with no entry nothing comes between its records. -/
theorem stepApplicationMovesTime : Obligations.StepApplicationMovesTime := by
  unfold Obligations.StepApplicationMovesTime
  intro s y h hy target marks moved
  have hexec := exec_stepApplication h
  refine ⟨fun hout hr => ?_, fun h0 h1 => ?_, fun h0 h1 hnone hr => ?_⟩
  · rw [hexec, applyStep_outOfRange hy hout, refuseStep_eq hr]
  · have hkept := (kept_conclude (applyStep s)).unchanged
    rw [applyStep_inRange hy h0 h1] at hexec hkept
    refine ⟨_, hexec, ?_, fun hm => ?_, ?_⟩
    · rw [conclude_time, time_acceptStep]
      rfl
    · rw [condition_conclude, condition_acceptStep hm]
    · intro b hb
      have h1 := (kept_acceptStep y target.toNat s).unchanged b (by simp only [applyBlocks, List.mem_cons, List.not_mem_nil, or_false] at hb ⊢; tauto)
      have h2 := hkept b (by simp only [List.mem_cons, List.not_mem_nil, or_false] at hb ⊢; tauto)
      cases b <;> exact Eq.trans h2 h1
  · have hstored := acceptStep_stored (s := s) (y := y) (target := target.toNat) (L := [])
      (fun i e he => by rw [hnone] at he; cases he)
      ⟨fun i => by simp [hnone], List.Pairwise.nil⟩ hr (mapEntries_none (s := stepStored y target.toNat s) hnone _)
    rw [hexec, applyStep_inRange hy h0 h1, hstored]
    refine congrArg (fun j : Journal => Host.Outcome.next (conclude { s with
      time := moved
      journal := j
      conditions :=
        if marks then { s.conditions with timeInvalid := { s.conditions.timeInvalid with active := false } } else s.conditions })) ?_
    refine (storing_storing s.journal target.toNat (quality (s.setTime moved)) (abandonRecords s) _).trans ?_
    unfold abandonRecords appliedRecords
    cases s.time.slew <;> rfl

end Sys2Proof.Machine
end

section
/-! SUPPORT. O39: late entries, each taken once, at an admission, by an edge and by a step. -/

set_option Elab.async false

namespace Sys2Proof.Machine

/-- The first grid point after T (R90). -/
theorem first_gridPoint_after {d T q : Nat} (h : d ≤ T) (hq : 10 ≤ q) :
    T < d + ((T - d) / q + 1) * q ∧ d + ((T - d) / q + 1) * q ≤ T + q ∧ (d + ((T - d) / q + 1) * q - d) % q = 0 := by
  have hdiv := Nat.div_add_mod (T - d) q
  have hmod := Nat.mod_lt (T - d) (show 0 < q by omega)
  have hmul : ((T - d) / q + 1) * q = q * ((T - d) / q) + q := by rw [Nat.add_mul, Nat.one_mul, Nat.mul_comm]
  refine ⟨by omega, by omega, ?_⟩
  rw [Nat.add_sub_cancel_left]
  exact Nat.mul_mod_left _ _

/-- A late entry as the model takes it, whatever the journal does (R84 to R90, R97). -/
theorem takeLate_schedule_outs {s : State} {i : Fin 64} {e : Entry} {d : Nat} (h : s.entry i = some e) (hd : e.due = some d) :
    (takeLate s.time.partTime s i).schedule = (lateTaken s i).schedule ∧ (takeLate s.time.partTime s i).outs = (lateTaken s i).outs := by
  have hw := works_takeLate h hd s.time.partTime
  rw [lateTaken_eq h hd]
  refine ⟨hw.schedule.trans (worked_schedule _ _ _ _).symm, hw.outs.trans ?_⟩
  unfold State.worked
  symm
  refine modOut_outs_congr ?_ _ _
  rfl

/-! ### At an admission -/

/-- The line of a spec is the one its descriptor names, where its action acts on one (R78). -/
theorem spec_line_of {d : Descriptor} {spec : EntrySpec} (h : descriptorSpec? d = some spec) {k : Fin 8} (ha : d.action.toNat ≤ 3)
    (hk : d.line.toNat = k.val) : spec.line = some k := by
  obtain ⟨a, l, _, _, _, _, hact, hl, -, -, -, -, -, rfl⟩ := descriptorSpec?_eq_some.mp h
  obtain ⟨h4, rfl⟩ := actionOf?_eq_some.mp hact
  have hmark : actionNamed d.action ≠ .mark := fun hm => by
    rw [(actionNamed_mark h4).mp hm] at ha
    simp at ha
  have hv := specLine?_value hl
  rw [if_neg hmark, hk] at hv
  obtain ⟨j, hj, hjk⟩ := Option.map_eq_some_iff.mp hv
  exact hj.trans (congrArg some (Fin.ext hjk))

section
variable {s : State} {p : Port} {d : Descriptor} {spec : EntrySpec} {i : Fin 64}

theorem respond_taken_schedule (s : State) (p : Port) (n : Nat) (tag : Byte) (r : Reply) (y : Schedule) :
    respond p tag r { taken s p n with schedule := y } = { answeredFrame s p (n + 7) tag r.status r.payload with schedule := y } :=
  congrArg (fun u : State => { u with schedule := y }) (respond_taken s p n tag r)

/-- What a late entry leaves of itself is read from its slot alone, beside a command that is being taken. -/
theorem entry_lateTaken_placed {e : Entry} {due : Nat} (hd : e.due = some due) (y : Schedule) (hy : ({ s with schedule := y } : State).entry i = some e)
    (n : Nat) : (lateTaken { taken s p n with schedule := y } i).entry i = (lateTaken { s with schedule := y } i).entry i := by
  rw [lateTaken_eq (s := { s with schedule := y }) hy hd, lateTaken_eq (s := { taken s p n with schedule := y }) hy hd, worked_entry, worked_entry,
    if_pos rfl, if_pos rfl]
  rfl

theorem exec_addEntry_late (h : AddPasses s p d spec i) (hr : RoomFor 2 s) (tag : Byte) {e : Entry}
    (he : e = newEntry p d spec s.schedule.admission s.time.partTime) {due : Nat} (hd : e.due = some due) (hle : due ≤ s.time.partTime)
    {after : Option Entry} (ha : (lateTaken { s with schedule := placedSchedule s i (some e) } i).entry i = after) :
    exec (.addEntry p tag d) s
      = .next (conclude (lateTaken
          { answeredFrame s p 33 tag .ok (fields (admittedFields s i after)) with schedule := placedSchedule s i (some e) } i)) := by
  have hentry : (placeEntry i e (taken s p 26)).entry i = some e := by rw [entry_placeEntry, if_pos rfl]
  have hst : e.state ≠ .awaitingTrigger := fun haw => by
    rcases newEntry_state (p := p) (d := d) (spec := spec) (a := s.schedule.admission) (t := s.time.partTime) with hn | hn
    · rw [← he, hd] at hn
      cases hn.2.1
    · rw [← he, haw] at hn
      cases hn.1
  have hafter : afterAdmission i e (placeEntry i e (taken s p 26)) = lateTaken (placeEntry i e (taken s p 26)) i :=
    (afterAdmission_late (u := placeEntry i e (taken s p 26)) hst hd hle).trans
      (takeLate_eq_lateTaken (s := placeEntry i e (taken s p 26)) hentry hd (hr.congr rfl rfl))
  have hplaced : placeEntry i e (taken s p 26) = { taken s p 26 with schedule := placedSchedule s i (some e) } := placeEntry_eq _ _ _
  have hleft : (lateTaken (placeEntry i e (taken s p 26)) i).entry i = after := by
    have hplacedEntry : ({ s with schedule := placedSchedule s i (some e) } : State).entry i = some e :=
      (entry_congr (s := placeEntry i e (taken s p 26)) (by rw [hplaced]) i).trans hentry
    rw [← ha, hplaced, entry_lateTaken_placed hd (placedSchedule s i (some e)) hplacedEntry 26]
  obtain ⟨g, hg, hresp⟩ := respond_linked p tag (okay (fields (admittedFields s i after)))
  rw [exec_addEntry h tag he hafter (handle_lateTaken _ _ _) hleft, hresp, ← lateTaken_linked hg, ← hresp, hplaced, respond_taken_schedule]
  rfl

end

theorem counted_eq (l : EventLine) :
    l.counted
      = { l with
          tracked := some l.raw, qual := .idle, admitted := if l.inForce.budget = 0 then l.admitted else l.admitted + 1 } := by
  unfold EventLine.counted
  split <;> rfl

/-- Settles O39: the grid; the model's late entry; then an admission, an edge and a step with those they find late. -/
theorem catchUpMovesAlongTheGrid : Obligations.CatchUpMovesAlongTheGrid := by
  unfold Obligations.CatchUpMovesAlongTheGrid
  refine ⟨fun d T q h hq => first_gridPoint_after h hq, fun s i e d h hd _ => takeLate_schedule_outs h hd, ?_, ?_, ?_⟩
  · intro s p tag d x i hr hl hx hroom spec hspec hline hquota hi hlow e generation place
    rintro ⟨due, hd, hle⟩ after answer
    have hmay : MayAdd s p d := fun k hk => hline k (spec_line_of hspec hk.1 hk.2)
    have hadm : AddPasses s p d spec i := ⟨hr, ⟨x, hx⟩, hmay, hspec, hquota, hi, hlow⟩
    exact exec_addEntry_late hadm hroom tag rfl hd hle rfl
  · intro s n h l edge recordTime hsel hbudget hfits take u v L hL hroom
    have hedge : edge = edgeTo l.raw := by
      show _ = edgeTo l.raw
      cases hr : l.raw <;> simp only [edge, hr] <;> rfl
    clear_value edge
    subst hedge
    have hroom' : RoomFor 1 (s.without (.edgeQualified n)) := (hroom.mono (by omega)).congr rfl rfl
    rw [exec_edgeQualified h hsel hbudget hfits hL hroom, edgeOffered_eq hroom', counted_eq]
    rfl
  · intro s y h hy old target h0 h1 hfits marks moved shift abandoned u L hL hroom v
    have htarget : (target.toNat : Int) = target := Int.toNat_of_nonneg h0
    have hdelta : (target.toNat : Int) - s.time.partTime = y.offset := by rw [htarget]; omega
    rw [exec_stepApplication h, applyStep_inRange hy h0 h1]
    refine congrArg (fun v => Host.Outcome.next (conclude v)) ?_
    refine acceptStep_stored (L := L) (u := v) ?_ ?_ hroom ?_
    · rw [hdelta]
      exact fun i e he ha d hd => hfits i e he ha d hd
    · rw [htarget]
      exact hL
    · rw [hdelta]
      have habandoned : abandonRecords s = abandoned := by
        unfold abandonRecords
        show _ = abandoned
        cases hs : s.time.slew <;> simp only [abandoned, hs] <;> rfl
      exact congrArg (fun l => L.foldl lateTaken (({ s with
        time := moved, journal := s.journal.storing target.toNat (quality (s.setTime moved)) l } : State).mapEntries fun e => some (shift e)))
        habandoned

end Sys2Proof.Machine
end

section
/-! SUPPORT. O53: what RSTn LOW empties and keeps, what the part does while it is LOW, and its return HIGH. -/

set_option Elab.async false

namespace Sys2Proof.Machine

/-! ### While RSTn is LOW -/

/-- The row is the end of a transaction of this kind and of so many bytes on the port. -/
def EndsIn (s : State) (p : Port) (kind : Transaction) (clocked : Nat) (r : Result) : Prop :=
  ∃ effect, r = .next (endTransaction p kind clocked effect s)

/-- While RSTn is LOW a transaction ends without effect, where its kind can end on the port (R193). -/
theorem EndsIn.whileLow {s : State} {p : Port} {kind : Transaction} {clocked : Nat} {r : Result} (h : EndsIn s p kind clocked r)
    (hq : quiet s = true) (hr : s.rstn = .low) :
    r = .next (if (s.port p).discarded = .idle ∨ (s.port p).discarded = kind then
      s.setPort p { s.port p with discarded := .idle, shifted := List.replicate clocked 0#8 } else s) := by
  obtain ⟨effect, rfl⟩ := h
  unfold endTransaction endWithoutEffect
  dsimp only
  rw [settle_of_quiet hq, if_pos (Or.inl hr)]
  simp only [hr, if_true]

theorem endsIn_commandWrite (p : Port) (first : Byte) (later : List Byte) (s : State) :
    EndsIn s p (kindOpened first) (later.length + 1) (exec (.commandWrite p (first :: later)) s) := by
  change EndsIn s p (kindOpened first) (later.length + 1) (execCommandWrite p (first :: later) s)
  unfold execCommandWrite
  dsimp only
  split
  · next h =>
    rw [show kindOpened first = .fetch from if_pos h]
    exact ⟨_, by rw [onFetch]⟩
  · split
    · next hc =>
      have hlen : later.length + 1 = clearFrame.length := congrArg List.length hc
      obtain rfl : first = clearByte := (List.cons.inj hc).1
      rw [hlen]
      exact ⟨clearPort p, rfl⟩
    · split
      · next f hf =>
        obtain ⟨he, -⟩ := commandFrame_of_readFrame hf
        have hlen : later.length + 1 = f.payload.length + Config.frameOverhead := by
          have := congrArg List.length he
          rw [List.length_cons, commandFrame_length] at this
          exact this
        obtain rfl : first = syncByte := (List.cons.inj he).1
        rw [hlen]
        exact ⟨_, by rw [onFrame]; rfl⟩
      · exact ⟨_, by rw [onBadFrame]; rfl⟩

/-! ### The fall of RSTn -/

theorem exec_rstnFall {s : State} (hq : quiet s = true) (hr : s.rstn = .high) : exec .rstnFall s = .next (resetBlocks s) := by
  change execRstnFall s = _
  unfold execRstnFall
  dsimp only
  rw [settle_of_quiet hq, if_neg (rstn_ne_low hr)]

theorem port_resetBlocks (s : State) (p : Port) : (resetBlocks s).port p = resetPort (s.port p) := PerPort.get_map _ _ _

theorem line_resetBlocks (s : State) (n : Fin 16) : (resetBlocks s).line n = { EventLine.initial with raw := (s.line n).raw } := by
  simp [State.line, resetBlocks, resetLine]

theorem handle_resetBlocks (s : State) (i : Fin 64) : (resetBlocks s).handle i = s.handle i := by
  simp [State.handle, resetBlocks, resetSchedule]

theorem unchanged_resetBlocks (s : State) :
    Unchanged [.time, .lines, .journal, .schedule, .outs, .claims, .permit, .conditions, .ports, .rstn, .tickWork] s (resetBlocks s) :=
  fun b hb => by cases b <;> first | exact absurd (by decide) hb | rfl

/-! ### The return of RSTn -/

/-- A condition that latches where it is active, with its record; no session is open and its action is NOTE (R164, R174). -/
def latchedWhenActive (c : Condition) (s : State) : State :=
  { s with
    journal := s.journal.storing s.time.partTime (quality s) (if (s.condition c).active then [(.part, .conditionRaised c)] else [])
    conditions :=
      s.conditions.set c { s.condition c with firstLatched := if (s.condition c).active then some s.time.partTime else none } }

theorem raiseIfActive_eq {s : State} {c : Condition} (hs : ∀ p, s.session p = none) (hn : (s.condition c).firstLatched = none)
    (ha : (s.condition c).action = .note) (hr : RoomFor 1 s) : raiseIfActive c s = latchedWhenActive c s := by
  unfold raiseIfActive latchedWhenActive
  by_cases hact : (s.condition c).active = true
  · have hports : noticed noticeCondition s.ports = s.ports := PerPort.ext_get fun q => by
      have hq : (s.ports.get q).session = none := hs q
      unfold noticed
      rw [PerPort.get_map, hq]
      exact congrArg (fun x => { s.ports.get q with session := x }) hq.symm
    rw [if_pos hact, raiseCondition_latches hn, ha, if_neg (by decide), raiseForAll_none]
    have hp : ({ latched c s with ports := noticed noticeCondition (latched c s).ports } : State) = latched c s :=
      congrArg (fun x => { latched c s with ports := x }) hports
    rw [hp, offer_eq_storing (s := latched c s) (hr.congr rfl rfl)]
    unfold latched State.setCondition
    simp only [hact, Bool.true_or, if_true]
    rfl
  · have hsame : s.conditions.set c { s.condition c with firstLatched := none } = s.conditions := by
      have hself : ({ s.condition c with firstLatched := none } : ConditionRecord) = s.condition c := by rw [← hn]
      rw [hself]
      cases c <;> rfl
    rw [if_neg hact, if_neg hact, if_neg hact, storing_nil, hsame]

/-- RSTn HIGH again with RESTART(RESET_LINE) stored and the active flags set (R57, R174). -/
def restartStored (s : State) : State :=
  setActiveFlags
    { s with
      rstn := .high
      journal := s.journal.storing s.time.partTime (quality s) [(.part, .restart .resetLine)] }

/-- What RSTn's return HIGH leaves before the levels are formed (R57, R174). -/
def restarted (s : State) : State := latchedWhenActive .refLost (latchedWhenActive .timeInvalid (restartStored s))

theorem afterReset_eq {s : State} (h : InReset s) : afterReset { s with rstn := .high } = restarted s := by
  obtain ⟨⟨hstore, hstate, -⟩, hports, -, -, -, ⟨-, -, hconds⟩, -⟩ := h
  have hsess : ∀ p, (restartStored s).session p = none := fun p => (hports p).2.2.2.2.1
  have hcond : ∀ c, ((restartStored s).condition c).firstLatched = none ∧ ((restartStored s).condition c).action = .note := fun c => by
    cases c
    · exact hconds .timeInvalid
    · exact hconds .refLost
    · exact hconds .journalWithheld
    · exact hconds .entryLate
  have hroom : RoomFor 3 { s with rstn := .high } := ⟨rfl, hstate, by rw [hstore]; decide⟩
  have hstored : setActiveFlags (offer .part (.restart .resetLine) { s with rstn := .high }) = restartStored s :=
    congrArg setActiveFlags (offer_eq_storing (s := { s with rstn := .high }) (hroom.mono (by decide)) .part (.restart .resetLine))
  have hroom2 : RoomFor 2 (restartStored s) :=
    RoomFor.storing (s := { s with rstn := .high }) (n := 2) (t := s.time.partTime) (q := quality s)
      (l := [(.part, .restart .resetLine)]) hroom rfl rfl
  have hroom1 : RoomFor 1 (latchedWhenActive .timeInvalid (restartStored s)) := by
    refine RoomFor.storing (s := restartStored s) (n := 1) (t := s.time.partTime) (q := quality s)
      (l := if ((restartStored s).condition .timeInvalid).active then [(.part, .conditionRaised .timeInvalid)] else []) (hroom2.mono ?_) rfl rfl
    split <;> simp
  unfold afterReset restarted
  rw [hstored, raiseIfActive_eq hsess (hcond .timeInvalid).1 (hcond .timeInvalid).2 (hroom2.mono (by decide))]
  exact raiseIfActive_eq (s := latchedWhenActive .timeInvalid (restartStored s)) hsess (hcond .refLost).1 (hcond .refLost).2 hroom1

theorem exec_rstnRise {s : State} (hq : quiet s = true) (hr : s.rstn = .low) (h : InReset s) :
    exec .rstnRise s = .next (conclude (restarted s)) := by
  change execRstnRise s = _
  unfold execRstnRise
  dsimp only
  rw [settle_of_quiet hq, if_neg (by rw [hr]; decide), afterReset_eq h]

theorem restarted_journal (s : State) :
    Stored s (restarted s) s.time.partTime (quality s)
      ((.part, .restart .resetLine)
        :: ((if s.time.validity = .invalid then [(.part, .conditionRaised .timeInvalid)] else [])
          ++ if s.time.refState = .holdover then [(.part, .conditionRaised .refLost)] else [])) := by
  have hv : (s.time.validity == .invalid) = decide (s.time.validity = .invalid) := by cases s.time.validity <;> rfl
  have hh : (s.time.refState == .holdover) = decide (s.time.refState = .holdover) := by cases s.time.refState <;> rfl
  have hj : (restarted s).journal
      = ((s.journal.storing s.time.partTime (quality s) [(.part, .restart .resetLine)]).storing s.time.partTime (quality s)
          (if (s.time.validity == .invalid) = true then [(.part, .conditionRaised .timeInvalid)] else [])).storing s.time.partTime (quality s)
          (if (s.time.refState == .holdover) = true then [(.part, .conditionRaised .refLost)] else []) := rfl
  unfold Stored
  rw [hj, storing_storing, storing_storing, hv, hh]
  simp only [decide_eq_true_eq, List.cons_append, List.nil_append]

theorem restarted_conditions (s : State) :
    ((restarted s).condition .timeInvalid).firstLatched = (if s.time.validity = .invalid then some s.time.partTime else none)
      ∧ ((restarted s).condition .refLost).firstLatched = (if s.time.refState = .holdover then some s.time.partTime else none) := by
  constructor
  · show (if (s.time.validity == .invalid) = true then some s.time.partTime else none) = _
    cases s.time.validity <;> rfl
  · show (if (s.time.refState == .holdover) = true then some s.time.partTime else none) = _
    cases s.time.refState <;> rfl

theorem unchanged_restarted (s : State) : Unchanged [.journal, .conditions, .rstn] s (restarted s) := fun b hb => by
  cases b <;> first | exact absurd (by decide) hb | rfl

/-- Settles O53: the fall block by block; a transaction of any row while RSTn is LOW; the rise of an empty part. -/
theorem resetLine_holds : Obligations.ResetLine := by
  unfold Obligations.ResetLine
  refine ⟨fun s hq hr => ?_, fun s p hq hr => ?_, fun s hq hr h => ?_⟩
  · refine ⟨resetBlocks s, exec_rstnFall hq hr, resetBlocks_inReset s, rfl, rfl, fun p => ?_, line_resetBlocks s, rfl,
      fun i => congrArg Handle.generation (handle_resetBlocks s i), rfl, fun p => ?_, rfl, fun p => ?_, unchanged_resetBlocks s⟩
    · cases p <;> rfl
    · cases p <;> rfl
    · exact port_resetBlocks s p
  · intro opened left dead
    refine ⟨fun i tag command payload hf => ?_, fun first later => ?_, congrArg Host.Outcome.next (settle_of_quiet hq), fun n => ?_, ?_,
      fun first hi => ?_⟩
    · refine EndsIn.whileLow ?_ hq hr
      rw [exec_eq_onFrame hf]
      exact ⟨_, by rw [onFrame]; rfl⟩
    · exact (endsIn_commandWrite p first later s).whileLow hq hr
    · exact EndsIn.whileLow ⟨fetchOn p n, rfl⟩ hq hr
    · exact EndsIn.whileLow ⟨clearPort p, rfl⟩ hq hr
    · change execTransactionStart p first s = _
      unfold execTransactionStart
      dsimp only
      rw [settle_of_quiet hq]
      by_cases hd : (s.port p).discarded = .idle
      · rw [if_neg (by simp [hi, hd]), if_pos hr, if_pos hd]
        rfl
      · rw [if_pos (Or.inr hd), if_neg hd]
  · intro invalid lost
    have hcond : ∀ c, (conclude (restarted s)).condition c = (restarted s).condition c := condition_conclude _
    refine ⟨_, exec_rstnRise hq hr h, conclude_rstn _, ?_, ?_, ?_, fun p => ?_, ?_⟩
    · unfold Stored
      rw [conclude_journal]
      exact restarted_journal s
    · rw [hcond]
      exact (restarted_conditions s).1
    · rw [hcond]
      exact (restarted_conditions s).2
    · obtain ⟨ht, hqueue, hc, ho, hs, -⟩ := h.ports p
      have hsess : (conclude (restarted s)).session p = none := by
        unfold State.session
        rw [conclude_port]
        exact hs
      refine ⟨?_, ?_, ?_, ?_, hsess, ?_, ?_⟩
      · rw [conclude_port]
        exact ht
      · rw [conclude_port]
        exact hqueue
      · rw [conclude_port]
        exact hc
      · rw [conclude_port]
        exact ho
      · rw [conclude_port]
        unfold atnLevel
        rw [hsess]
      · rw [conclude_port]
        rfl
    · intro b hb
      have h1 := unchanged_restarted s b (by simp only [List.mem_cons, List.not_mem_nil, or_false] at hb ⊢; tauto)
      have h2 := (kept_conclude (restarted s)).unchanged b (by simp only [List.mem_cons, List.not_mem_nil, or_false] at hb ⊢; tauto)
      cases b <;> exact Eq.trans h2 h1

end Sys2Proof.Machine
end

section
/-! SUPPORT. The oscillator cycles credited at the loss of the reference (O25). -/

set_option Elab.async false

namespace Sys2Proof.Machine

/-! ### The credit -/

/-- What one oscillator cycle feeds without a slew (R1). -/
def cycleBase (t : Timebase) : Rat := (1000000 / 20000000) * (1 + (t.trim : Rat) / 1000000000)

/-- What one oscillator cycle adds to a slew's progress, where the amount leaves room for it (R16). -/
def cycleShare (x : Slew) : Rat := (x.rate : Rat) / 20000000

/-- What a slew has still to give (R16). -/
def slewLeft (x : Slew) : Rat := (x.amount.natAbs : Rat) - x.progress

/-- The direction of a slew. -/
def slewSign (x : Slew) : Rat := if 0 ≤ x.amount then 1 else -1

theorem baseIncrement_eq (t : Timebase) : baseIncrement Config.oscillatorHz t.trim = cycleBase t := by
  unfold baseIncrement cycleBase Config.oscillatorHz
  norm_num

theorem cycleShare_nonneg (x : Slew) : 0 ≤ cycleShare x := by unfold cycleShare; positivity

theorem done_iff (x : Slew) : x.done = true ↔ slewLeft x ≤ 0 := by
  unfold Slew.done slewLeft
  rw [decide_eq_true_iff, sub_nonpos]

/-- A cycle without a slew. -/
theorem feed_none {s : State} (h : s.time.slew = none) :
    feed Config.oscillatorHz s = s.setTime { s.time with acc := s.time.acc + cycleBase s.time } := by
  unfold feed
  rw [h, baseIncrement_eq]
  refine congrArg s.setTime ?_
  simp [slewIncrement, h]

theorem endSlew_none {s : State} (h : s.time.slew = none) : endSlew s = s := by
  unfold endSlew
  rw [h]

/-- The timebase once n cycles are credited without a slew (R1, R4). -/
def creditedTime (n : Nat) (t : Timebase) : Timebase := { t with acc := t.acc + n * cycleBase t }

theorem credit_none (n : Nat) {s : State} (h : s.time.slew = none) : credit n s = s.setTime (creditedTime n s.time) := by
  induction n generalizing s with
  | zero =>
    have ht : creditedTime 0 s.time = s.time := by
      unfold creditedTime
      simp
    rw [ht]
    rfl
  | succ n ih =>
    have hfed : (feed Config.oscillatorHz s).time.slew = none := by rw [feed_none h]; exact h
    have hcredit : credit (n + 1) s = credit n (endSlew (feed Config.oscillatorHz s)) := rfl
    rw [hcredit, endSlew_none hfed, ih hfed, feed_none h]
    refine congrArg s.setTime ?_
    unfold creditedTime cycleBase
    simp only [State.setTime_time, Nat.cast_add, Nat.cast_one, Timebase.mk.injEq, true_and, and_true]
    ring

/-- The timebase while a slew moves by a share d (R16). -/
def slewedTime (b d : Rat) (x : Slew) (t : Timebase) : Timebase :=
  { t with acc := t.acc + (b + slewSign x * d), slew := some { x with progress := x.progress + d } }

theorem feed_some {s : State} {x : Slew} (h : s.time.slew = some x) :
    feed Config.oscillatorHz s = s.setTime (slewedTime (cycleBase s.time) (min (cycleShare x) (slewLeft x)) x s.time) := by
  have hshare : slewShare Config.oscillatorHz x = min (cycleShare x) (slewLeft x) := by
    unfold slewShare cycleShare slewLeft Config.oscillatorHz
    norm_num
  have hinc : slewIncrement Config.oscillatorHz (some x) = slewSign x * min (cycleShare x) (slewLeft x) := by
    have hdef : slewIncrement Config.oscillatorHz (some x)
        = if 0 ≤ x.amount then slewShare Config.oscillatorHz x else -slewShare Config.oscillatorHz x := rfl
    unfold slewSign
    rw [hdef, hshare]
    split <;> ring
  unfold feed slewedTime
  rw [h, baseIncrement_eq, hinc, Option.map_some, hshare]

/-- A slew that has not reached its amount stays in flight. -/
theorem endSlew_moving {s : State} {x : Slew} (h : s.time.slew = some x) (hl : 0 < slewLeft x) : endSlew s = s := by
  unfold endSlew
  simp only [h]
  rw [if_neg]
  rw [done_iff]
  exact not_le.mpr hl

/-- A slew that has reached its amount ends with its record (R16). -/
theorem endSlew_done {s : State} {x : Slew} (h : s.time.slew = some x) (hl : slewLeft x ≤ 0) (hr : RoomFor 1 s) :
    endSlew s
      = { s with
          time := { s.time with slew := none }
          journal := s.journal.storing s.time.partTime (quality s) [(.master x.issuer, .time (.slewDone x.amount))] } := by
  unfold endSlew
  simp only [h]
  rw [if_pos ((done_iff x).mpr hl)]
  exact offer_eq_storing (s := s.setTime { s.time with slew := none }) (hr.congr rfl rfl) _ _

theorem slewLeft_moved (x : Slew) (d : Rat) : slewLeft { x with progress := x.progress + d } = slewLeft x - d := by
  unfold slewLeft
  dsimp only
  ring

/-- A credit that leaves the slew short of its amount moves it on (R4, R16). -/
theorem credit_moving (n : Nat) {s : State} {x : Slew} (h : s.time.slew = some x) (hl : n * cycleShare x < slewLeft x) :
    credit n s = s.setTime (slewedTime (n * cycleBase s.time) (n * cycleShare x) x s.time) := by
  induction n generalizing s x with
  | zero =>
    have ht : slewedTime (((0 : Nat) : Rat) * cycleBase s.time) (((0 : Nat) : Rat) * cycleShare x) x s.time = s.time := by
      unfold slewedTime
      simp [← h]
    rw [ht]
    rfl
  | succ n ih =>
    have hpos := cycleShare_nonneg x
    have hn : (0 : Rat) ≤ n * cycleShare x := by positivity
    push_cast at hl
    have hmin : min (cycleShare x) (slewLeft x) = cycleShare x := min_eq_left (by linarith)
    have hfeed := feed_some h
    rw [hmin] at hfeed
    generalize hx : ({ x with progress := x.progress + cycleShare x } : Slew) = y at hfeed
    have hy : slewLeft y = slewLeft x - cycleShare x := by rw [← hx, slewLeft_moved]
    have hshare : cycleShare y = cycleShare x := by rw [← hx]; rfl
    have hfed : (feed Config.oscillatorHz s).time.slew = some y := by rw [hfeed, ← hx]; rfl
    have hcredit : credit (n + 1) s = credit n (endSlew (feed Config.oscillatorHz s)) := rfl
    rw [hcredit, endSlew_moving hfed (by rw [hy]; linarith), ih hfed (by rw [hshare, hy]; linarith), hfeed, hshare, ← hx]
    refine congrArg s.setTime ?_
    unfold slewedTime cycleBase slewSign
    simp only [State.setTime_time, Nat.cast_add, Nat.cast_one, Timebase.mk.injEq, Option.some.injEq, Slew.mk.injEq, true_and, and_true]
    exact ⟨by ring, by ring⟩

/-- What a credit that brings a slew to its amount leaves (R4, R16). -/
def creditEnded (n : Nat) (x : Slew) (s : State) : State :=
  { s with
    time := { s.time with acc := s.time.acc + (n * cycleBase s.time + slewSign x * slewLeft x), slew := none }
    journal := s.journal.storing s.time.partTime (quality s) [(.master x.issuer, .time (.slewDone x.amount))] }

theorem credit_ending (n : Nat) {s : State} {x : Slew} (h : s.time.slew = some x) (h0 : 0 < slewLeft x) (hl : slewLeft x ≤ n * cycleShare x)
    (hr : RoomFor 1 s) : credit n s = creditEnded n x s := by
  induction n generalizing s x with
  | zero =>
    push_cast at hl
    linarith
  | succ n ih =>
    have hfeed := feed_some h
    have hcredit : credit (n + 1) s = credit n (endSlew (feed Config.oscillatorHz s)) := rfl
    by_cases hone : slewLeft x ≤ cycleShare x
    · rw [min_eq_right hone] at hfeed
      generalize hx : ({ x with progress := x.progress + slewLeft x } : Slew) = y at hfeed
      have hfed : (feed Config.oscillatorHz s).time.slew = some y := by rw [hfeed, ← hx]; rfl
      have hdone : slewLeft y ≤ 0 := by rw [← hx, slewLeft_moved]; linarith
      rw [hcredit, endSlew_done hfed hdone (by rw [hfeed]; exact hr.congr rfl rfl), credit_none n rfl, hfeed, ← hx]
      unfold creditEnded creditedTime slewedTime cycleBase
      simp only [State.setTime, Nat.cast_add, Nat.cast_one, State.mk.injEq, Timebase.mk.injEq, true_and, and_true]
      exact ⟨by ring, rfl⟩
    · rw [min_eq_left (le_of_not_ge hone)] at hfeed
      generalize hx : ({ x with progress := x.progress + cycleShare x } : Slew) = y at hfeed
      have hy : slewLeft y = slewLeft x - cycleShare x := by rw [← hx, slewLeft_moved]
      have hshare : cycleShare y = cycleShare x := by rw [← hx]; rfl
      have hfed : (feed Config.oscillatorHz s).time.slew = some y := by rw [hfeed, ← hx]; rfl
      have hpos : 0 < slewLeft y := by rw [hy]; linarith [not_le.mp hone]
      push_cast at hl
      rw [hcredit, endSlew_moving hfed hpos, ih hfed hpos (by rw [hshare, hy]; linarith) (by rw [hfeed]; exact hr.congr rfl rfl), hfeed]
      unfold creditEnded slewedTime cycleBase
      rw [hy, ← hx]
      simp only [State.setTime, Nat.cast_add, Nat.cast_one, State.mk.injEq, Timebase.mk.injEq, true_and, and_true]
      refine ⟨?_, rfl⟩
      unfold slewSign
      dsimp only
      ring

end Sys2Proof.Machine
end

section
/-! SUPPORT. The ticks of a state in which nothing counts and nothing waits for a tick (O25). -/

set_option Elab.async false

namespace Sys2Proof.Machine

/-! ### One tick -/

/-- The lines once a tick has sampled them, all disabled (R25). -/
def sampledLines (levels : BitVec 16) (s : State) : Vector EventLine 16 :=
  Vector.ofFn fun n => { s.line n with raw := if levels.getLsbD n.val then .high else .low, inForce := (s.line n).cfg }

/-- Time moves and the lines take their samples, and nothing else happens. -/
def stillTick (s : State) : State := { s with time := tickTime s.time, lines := sampledLines s.evPins s }

theorem Still.congr {s t : State} (h : Still s) (h1 : t.time.step = s.time.step) (h2 : t.time.strobes = s.time.strobes)
    (h3 : ∀ n, (t.line n).inForce.enabled = (s.line n).inForce.enabled ∧ (t.line n).cfg.enabled = (s.line n).cfg.enabled)
    (h4 : t.schedule = s.schedule) (h5 : ∀ k, (t.out k).pulse = (s.out k).pulse) (h6 : t.permit = s.permit)
    (h7 : ∀ p, t.session p = s.session p) : Still t := by
  obtain ⟨hstep, hstrobes, hlines, hentries, hpulses, htimer, hdeadlines⟩ := h
  refine ⟨h1.trans hstep, fun p => by rw [h2]; exact hstrobes p, fun n => ?_, fun i e he => hentries i e (by rw [← entry_congr h4]; exact he),
    fun k => (h5 k).trans (hpulses k), by rw [h6]; exact htimer, fun p x hx => hdeadlines p x (by rw [← h7]; exact hx)⟩
  rw [(h3 n).1, (h3 n).2]
  exact hlines n

theorem ticked_still {s : State} (h : Still s) : ticked s = stillTick s := by
  refine state_ext fun b _ => ?_
  cases b
  case lines =>
    show (ticked s).lines = sampledLines s.evPins s
    refine Vector.ext fun i hi => ?_
    have h1 := line_ticked s ⟨i, hi⟩
    rw [EventLine.tick_disabled _ _ (h.lines ⟨i, hi⟩).1 (h.lines ⟨i, hi⟩).2, pinLevel_eq] at h1
    unfold sampledLines
    rw [Vector.getElem_ofFn]
    exact h1
  case outs =>
    refine outs_eq fun k => ?_
    have h1 := out_ticked s k
    unfold OutLine.countDown at h1
    rw [h.pulses k] at h1
    rw [h1]
    exact congrArg (fun x => { s.out k with pulse := x }) (h.pulses k).symm
  case schedule =>
    refine schedule_ext (fun i => ⟨?_, ?_⟩) rfl rfl rfl
    · have h1 := entry_ticked s i
      refine h1.trans ?_
      show _ = s.entry i
      cases he : s.entry i with
      | none => rfl
      | some e =>
        have hr := (h.entries i e he).2
        rw [Option.map_some]
        unfold Entry.countDown
        rw [hr]
        exact congrArg (fun x => some { e with running := x }) hr.symm
    · exact congrArg Handle.generation (handle_ticked s i)
  case permit =>
    show { s.permit with timer := s.permit.timer.map fun n => n - 1 } = s.permit
    rw [h.timer]
    exact congrArg (fun x => { s.permit with timer := x }) h.timer.symm
  case ports =>
    refine PerPort.ext_get fun p => ?_
    show (s.ports.map fun x => { x with session := x.session.map Session.countDown }).get p = s.ports.get p
    rw [PerPort.get_map]
    have hs : (s.ports.get p).session.map Session.countDown = (s.ports.get p).session := by
      cases hx : (s.ports.get p).session with
      | none => rfl
      | some x =>
        have hd := h.deadlines p x hx
        rw [Option.map_some]
        unfold Session.countDown
        rw [hd]
        exact congrArg (fun y => some { x with deadline := y }) hd.symm
    exact congrArg (fun x => { s.ports.get p with session := x }) hs
  all_goals rfl

theorem Still.stillTick {s : State} (h : Still s) : Still (stillTick s) := by
  refine h.congr rfl rfl (fun n => ?_) rfl (fun _ => rfl) rfl (fun _ => rfl)
  have hn : (Machine.stillTick s).line n
      = { s.line n with raw := if s.evPins.getLsbD n.val then .high else .low, inForce := (s.line n).cfg } := by
    unfold Machine.stillTick sampledLines State.line
    simp
  rw [hn]
  exact ⟨(h.lines n).2.trans (h.lines n).1.symm, rfl⟩

theorem madeDue_still {s : State} (h : Still s) : madeDue s = [] := by
  have ht := h.stillTick
  rw [← ticked_still h] at ht
  refine List.eq_nil_iff_forall_not_mem.mpr fun e he => ?_
  unfold madeDue at he
  simp only [List.mem_append] at he
  rcases he with (((((he | he) | he) | he) | he) | he) | he
  · obtain ⟨p, hp, -⟩ := mem_captureEvents.mp he
    rw [ht.strobes p] at hp
    cases hp
  · obtain ⟨k, ⟨q, hq, -⟩, -⟩ := mem_immediateEvents.mp he
    rw [ht.pulses k] at hq
    cases hq
  · obtain ⟨i, ⟨x, r, hx, hr, -⟩, -⟩ := mem_pulseEvents.mp he
    rw [(ht.entries i x hx).2] at hr
    cases hr
  · obtain ⟨i, ⟨x, hx, -, hd⟩, -⟩ := mem_dueEvents.mp he
    rw [(ht.entries i x hx).1] at hd
    cases hd
  · obtain ⟨n, -, hn⟩ := mem_lineEvents.mp he
    have hl : (s.setTime (tickTime s.time)).line n = s.line n := rfl
    rw [hl, EventLine.tick_disabled _ _ (h.lines n).1 (h.lines n).2] at hn
    cases hn
  · obtain ⟨⟨-, hd⟩, -⟩ := mem_delayEvents.mp he
    rw [ht.timer] at hd
    cases hd
  · obtain ⟨p, ⟨x, hx, -, hd⟩, -⟩ := mem_lapseEvents.mp he
    rw [ht.deadlines p x hx] at hd
    cases hd

theorem issueTick_still {s : State} (h : Still s) (hw : s.tickWork = []) : issueTick s = stillTick s := by
  rw [issueTick_eq, madeDue_still h, ticked_still h, hw, List.append_nil]
  exact congrArg (fun x => { stillTick s with tickWork := x }) hw.symm

end Sys2Proof.Machine
end

section
/-! SUPPORT. The ticks of a credit carried out one after another, and the HOLDOVER they lead to (O25). -/

set_option Elab.async false

namespace Sys2Proof.Machine

/-! ### Many ticks -/

/-- Nothing is due but ticks, and nothing counts or waits for one. -/
structure TicksOnly (s : State) : Prop where
  still  : Still s
  work   : s.tickWork = []
  vote   : s.conditions.partVote = s.permit.partVote
  raises : s.conditions.raises = []
  step   : s.time.stepDue = false
  slew   : slewIsDone s = false

theorem nextEvent_none {s : State} (h : nextEvent s = none) :
    s.tickWork = [] ∧ s.conditions.partVote = s.permit.partVote ∧ s.conditions.raises = [] ∧ s.time.stepDue = false ∧ slewIsDone s = false
      ∧ s.time.acc < 1 := by
  unfold nextEvent at h
  split at h
  · cases h
  · cases ht : s.tickWork with
    | cons e l =>
      rw [ht] at h
      dsimp only at h
      split_ifs at h
    | nil =>
      rw [ht] at h
      dsimp only at h
      split_ifs at h with h1 h2 h3 h4 h5
      simp only [not_not, Bool.not_eq_true] at h1 h2 h3 h4
      exact ⟨rfl, h1, h2, h3, h4, not_le.mp h5⟩

theorem TicksOnly.nextEvent {s : State} (h : TicksOnly s) : nextEvent s = if 1 ≤ s.time.acc then some .tick else none := by
  have hu : unfinished? s = none := by
    unfold unfinished?
    rw [h.work]
    split <;> rfl
  unfold Machine.nextEvent
  rw [hu, h.work]
  simp [h.vote, h.raises, h.step, h.slew]

theorem TicksOnly.stillTick {s : State} (h : TicksOnly s) : TicksOnly (stillTick s) := by
  refine ⟨h.still.stillTick, h.work, h.vote, h.raises, ?_, h.slew⟩
  show (_ && s.time.step.isSome) = false
  rw [h.still.step]
  exact Bool.and_false _

theorem pulse_conclude (s : State) (k : Fin 8) : ((conclude s).out k).pulse = (s.out k).pulse := by
  obtain ⟨v, hv⟩ := conclude_out s k
  rw [hv]

theorem TicksOnly.conclude {s : State} (h : TicksOnly s) : TicksOnly (conclude s) := by
  refine ⟨h.still.congr ?_ ?_ (fun n => ?_) (conclude_schedule s) (pulse_conclude s) (conclude_permit s) (conclude_session s), ?_, ?_, ?_, ?_, ?_⟩
  · rw [conclude_time]
  · rw [conclude_time]
  · unfold State.line
    rw [conclude_lines]
    exact ⟨rfl, rfl⟩
  · rw [conclude_tickWork]
    exact h.work
  · rw [conclude_conditions, conclude_permit]
    exact h.vote
  · rw [conclude_conditions]
    exact h.raises
  · rw [conclude_time]
    exact h.step
  · unfold slewIsDone
    rw [conclude_time]
    exact h.slew

theorem conclude_stillTick (s : State) : stillTick (conclude s) = conclude (stillTick s) := by
  have hlines : sampledLines (conclude s).evPins (conclude s) = sampledLines s.evPins s := by
    unfold sampledLines State.line
    rw [conclude_lines, conclude_evPins]
  have hopen : tickOpen (stillTick s) = tickOpen s := rfl
  unfold stillTick
  rw [hlines, conclude_time]
  unfold Machine.conclude
  have hrstn : (stillTick s).rstn = s.rstn := rfl
  unfold stillTick at hopen hrstn
  rw [hopen, hrstn]
  split <;> rfl

theorem conclude_stillTicks (k : Nat) (s : State) : stillTick^[k] (conclude s) = conclude (stillTick^[k] s) := by
  induction k generalizing s with
  | zero => rfl
  | succ k ih => rw [Function.iterate_succ_apply, Function.iterate_succ_apply, conclude_stillTick, ih]

theorem conclude_conclude (s : State) : conclude (conclude s) = conclude s := conclude_eq_self (conclude_formed s)

theorem floor_toNat_eq_zero {a : Rat} (h : a.floor.toNat = 0) : ¬ 1 ≤ a := fun h1 => by
  have : (1 : Int) ≤ a.floor := Rat.le_floor_iff.mpr (by exact_mod_cast h1)
  omega

theorem floor_toNat_succ {a : Rat} {k : Nat} (h : a.floor.toNat = k + 1) : 1 ≤ a ∧ (a - 1).floor.toNat = k := by
  have hf : a.floor = k + 1 := by omega
  constructor
  · have : ((1 : Int) : Rat) ≤ a := Rat.le_floor_iff.mp (by omega)
    exact_mod_cast this
  · have : (a - 1).floor = a.floor - 1 := by
      exact Int.floor_sub_one a
    omega

/-- Draining a state in which only ticks are due carries out the whole ticks of the accumulator. -/
theorem drain_ticksOnly (k : Nat) {s : State} (h : TicksOnly s) (hk : s.time.acc.floor.toNat = k) {fuel : Nat} (hf : k < fuel) :
    drain 7 fuel s = if k = 0 then s else conclude (stillTick^[k] s) := by
  induction k generalizing s fuel with
  | zero =>
    refine drain_of_none ?_ 7 fuel
    rw [h.nextEvent, if_neg (floor_toNat_eq_zero hk)]
  | succ k ih =>
    obtain ⟨h1, hk1⟩ := floor_toNat_succ hk
    obtain ⟨fuel, rfl⟩ : ∃ n, fuel = n + 1 := ⟨fuel - 1, by omega⟩
    have hcarry : carryOut .tick s = conclude (stillTick s) := by
      unfold carryOut
      dsimp only
      rw [issueTick_still h.still h.work]
    have hnext : Machine.nextEvent s = some .tick := by rw [h.nextEvent, if_pos h1]
    have hdrain : drain 7 (fuel + 1) s = drain 7 fuel (conclude (stillTick s)) := by
      rw [← hcarry, drain]
      simp only [hnext]
      exact if_pos (show DueEvent.rank .tick < 7 by decide)
    rw [hdrain, ih h.stillTick.conclude (by rw [conclude_time]; exact hk1) (by omega), if_neg (Nat.succ_ne_zero k)]
    split
    · next h0 =>
      subst h0
      rfl
    · rw [conclude_stillTicks, conclude_conclude, ← Function.iterate_succ_apply]

theorem sampledLines_sampledLines {s t : State} {levels : BitVec 16} (h : t.lines = sampledLines levels s) :
    sampledLines levels t = sampledLines levels s := by
  unfold sampledLines State.line at h ⊢
  rw [h]
  refine Vector.ext fun i hi => ?_
  simp

/-- The timebase once k ticks are issued with no step waiting (R2). -/
def ticksTime (k : Nat) (t : Timebase) : Timebase := { t with partTime := min (t.partTime + k) (2 ^ 64 - 1), acc := t.acc - k }

/-- What k ticks leave, where only ticks are due. -/
theorem stillTicks_eq (k : Nat) {s : State} (h : TicksOnly s) (hp : s.time.partTime ≤ 2 ^ 64 - 1) :
    stillTick^[k] s = { s with time := ticksTime k s.time, lines := if k = 0 then s.lines else sampledLines s.evPins s } := by
  induction k with
  | zero =>
    have ht : ticksTime 0 s.time = s.time := by
      unfold ticksTime
      rw [Nat.add_zero, min_eq_left hp]
      simp
    rw [ht]
    rfl
  | succ k ih =>
    rw [Function.iterate_succ_apply', ih]
    unfold stillTick
    have ht : tickTime (ticksTime k s.time) = ticksTime (k + 1) s.time := by
      unfold tickTime ticksTime nextPartTime Config.maxPartTime
      dsimp only
      rw [h.still.step]
      simp only [Option.isSome_none, Bool.and_false, Nat.cast_add, Nat.cast_one, Timebase.mk.injEq, true_and, and_true]
      refine ⟨?_, by ring, h.step.symm⟩
      split <;> omega
    dsimp only
    rw [ht, if_neg (Nat.succ_ne_zero k)]
    refine congrArg (fun l => { s with time := ticksTime (k + 1) s.time, lines := l }) ?_
    by_cases h0 : k = 0
    · subst h0
      rfl
    · exact sampledLines_sampledLines (s := s) (if_neg h0)

end Sys2Proof.Machine
end

section
/-! SUPPORT. O25: the loss, the break and the return of the reference, and the end of a slew. -/

set_option Elab.async false

namespace Sys2Proof.Machine

/-! ### Levels formed twice -/

/-- Two states that differ in formed drives and in ATN levels only are the same once their levels are formed. -/
theorem conclude_eq_conclude {v w : State} (hsame : Unchanged [.outs, .ports] v w) (hout : w.outs = (conclude v).outs)
    (hport : ∀ p, ∃ a, w.port p = { v.port p with atn := a }) : conclude w = conclude v := by
  have htick : (w.tickWork, w.tickStage) = (v.tickWork, v.tickStage) := hsame .tickWork (by decide)
  obtain ⟨hwork, hstage⟩ := Prod.mk.inj htick
  have hrstn : w.rstn = v.rstn := hsame .rstn (by decide)
  have hpermit : w.permit = v.permit := hsame .permit (by decide)
  have hopen : tickOpen w = tickOpen v := by
    unfold tickOpen
    rw [hwork, hstage]
  refine state_ext fun b _ => ?_
  cases b
  case outs =>
    show (conclude w).outs = (conclude v).outs
    rw [conclude_outs, hout, hopen, hrstn, hpermit, conclude_outs]
    split
    · simp only [Vector.map_map, Function.comp_def, OutLine.formed_formed]
    · rfl
  case ports =>
    refine PerPort.ext_get fun p => ?_
    show (conclude w).port p = (conclude v).port p
    obtain ⟨a, ha⟩ := hport p
    have hsess : w.session p = v.session p := by
      unfold State.session
      rw [ha]
    have hatn : atnLevel (conclude w) p = atnLevel (conclude v) p := by
      refine atnLevel_congr ?_ ?_
      · rw [conclude_journal, conclude_journal]
        exact hsame .journal (by decide)
      · rw [conclude_session, conclude_session, hsess]
    rw [conclude_port, conclude_port v, ha, hatn]
  case tickWork =>
    show ((conclude w).tickWork, (conclude w).tickStage) = ((conclude v).tickWork, (conclude v).tickStage)
    rw [conclude_tickWork, conclude_tickWork, conclude_tickStage, conclude_tickStage, htick]
  case time => exact (conclude_time w).trans ((hsame .time (by decide)).trans (conclude_time v).symm)
  case evPins => exact (conclude_evPins w).trans ((hsame .evPins (by decide)).trans (conclude_evPins v).symm)
  case lines => exact (conclude_lines w).trans ((hsame .lines (by decide)).trans (conclude_lines v).symm)
  case journal => exact (conclude_journal w).trans ((hsame .journal (by decide)).trans (conclude_journal v).symm)
  case schedule => exact (conclude_schedule w).trans ((hsame .schedule (by decide)).trans (conclude_schedule v).symm)
  case claims => exact (conclude_claims w).trans ((hsame .claims (by decide)).trans (conclude_claims v).symm)
  case permit => exact (conclude_permit w).trans ((hsame .permit (by decide)).trans (conclude_permit v).symm)
  case conditions => exact (conclude_conditions w).trans ((hsame .conditions (by decide)).trans (conclude_conditions v).symm)
  case rstn => exact (conclude_rstn w).trans ((hsame .rstn (by decide)).trans (conclude_rstn v).symm)
  case freeUses => exact (conclude_freeUses w).trans ((hsame .freeUses (by decide)).trans (conclude_freeUses v).symm)
  case pending => exact (conclude_pending w).trans ((hsame .pending (by decide)).trans (conclude_pending v).symm)

/-- Levels formed before time, journal and conditions change are formed again after it. -/
theorem conclude_concluded (v : State) (x : Timebase) (j : Journal) (c : Conditions) :
    conclude { conclude v with time := x, journal := j, conditions := c } = conclude { v with time := x, journal := j, conditions := c } := by
  refine conclude_eq_conclude (fun b hb => ?_) ?_ fun p => ⟨_, conclude_port v p⟩
  · have h := (kept_conclude v).unchanged b hb
    cases b <;> first | exact absurd (by decide) hb | rfl | exact h
  · exact (conclude_outs v).trans (conclude_outs { v with time := x, journal := j, conditions := c }).symm

/-! ### The loss -/

/-- The timebase of a HOLDOVER that is entered (R4). -/
def heldOver (t : Timebase) : Timebase := { t with refState := .holdover, exitCount := 0, refSeen := false }

/-- What follows the credited ticks of a loss: HOLDOVER, the raise, and the record (R4). -/
def holdoverEntered (s : State) : State := offer .part (.time .holdoverEntered) (handRaise .refLost (s.setTime (heldOver s.time)))

theorem enterHoldover_eq (s : State) : enterHoldover s = holdoverEntered (drainBelow 7 (credit s.time.lossCount s)) := rfl

theorem handRaise_high {s : State} (h : s.rstn = .high) (c : Condition) :
    handRaise c s = { s with conditions := { s.conditions with raises := s.conditions.raises ++ [c] } } := if_neg (rstn_ne_low h)

/-- HOLDOVER with REF_LOST handed, before the record is offered (R4). -/
def lostHanded (s : State) : State :=
  { s with time := heldOver s.time, conditions := { s.conditions with raises := [Condition.refLost] } }

theorem holdoverEntered_eq {s : State} (hr : s.conditions.raises = []) (hrstn : s.rstn = .high) :
    holdoverEntered s = offer .part (.time .holdoverEntered) (lostHanded s) := by
  unfold holdoverEntered
  rw [handRaise_high (s := s.setTime (heldOver s.time)) hrstn]
  exact congrArg (fun l => offer .part (.time .holdoverEntered)
    { s with time := heldOver s.time, conditions := { s.conditions with raises := l ++ [Condition.refLost] } }) hr

theorem holdoverEntered_room {s : State} (hr : s.conditions.raises = []) (h : RoomFor 1 s) :
    holdoverEntered s
      = { s with
          time := heldOver s.time
          journal := s.journal.storing s.time.partTime (quality (s.setTime (heldOver s.time))) [(.part, .time .holdoverEntered)]
          conditions := { s.conditions with raises := [.refLost] } } := by
  rw [holdoverEntered_eq hr h.rstn]
  exact offer_eq_storing (s := lostHanded s) (h.congr rfl rfl) _ _

/-- The offer that enters WITHHOLDING: its raise stands behind that of REF_LOST (R44, R47). -/
theorem holdoverEntered_full {s : State} (hr : s.conditions.raises = []) (hrstn : s.rstn = .high) (hacc : s.journal.state = .accepting)
    (hfull : 512 ≤ s.journal.store.length) (hpin : oldestPinned s = true) :
    holdoverEntered s
      = { s with
          time := heldOver s.time
          journal := { s.journal with state := .withholding, withheld := 1 }
          conditions := { s.conditions with raises := [.refLost, .journalWithheld] } } := by
  have hpin' : oldestPinned (lostHanded s) = true := (oldestPinned_of_readers rfl fun _ => rfl).trans hpin
  have hacc' : (lostHanded s).journal.state = .accepting := hacc
  have hlen : ¬ (lostHanded s).journal.store.length < Config.journalCapacity := Nat.not_lt.mpr hfull
  rw [holdoverEntered_eq hr hrstn]
  unfold offer offerAs
  rw [if_neg (rstn_ne_low (s := lostHanded s) hrstn), hacc']
  dsimp only
  rw [if_neg hlen, if_pos hpin']
  unfold enterWithholding
  exact handRaise_high (s := (lostHanded s).setJournal _) hrstn _

/-- The lines once k ticks have sampled them. -/
def linesAfter (k : Nat) (s : State) : Vector EventLine 16 := if k = 0 then s.lines else sampledLines s.evPins s

/-- What the whole ticks of the accumulator leave, where only ticks are due; levels are formed where there was a tick. -/
theorem drainBelow_ticksOnly {s : State} (h : TicksOnly s) (hp : s.time.partTime ≤ 2 ^ 64 - 1) {k : Nat} (hk : s.time.acc.floor.toNat = k) :
    drainBelow 7 s = { s with time := ticksTime k s.time, lines := linesAfter k s }
      ∨ drainBelow 7 s = conclude { s with time := ticksTime k s.time, lines := linesAfter k s } := by
  have hdrain := drain_ticksOnly k h hk (fuel := workBound s) (by unfold workBound; rw [hk]; omega)
  rw [stillTicks_eq k h hp] at hdrain
  unfold drainBelow
  rw [hdrain]
  by_cases h0 : k = 0
  · rw [if_pos h0]
    left
    have h1 := stillTicks_eq k h hp
    subst h0
    exact h1
  · rw [if_neg h0]
    exact .inr rfl

/-- A loss of the reference whose credit is known, up to its last steps (R4). -/
theorem exec_holdoverEntered {s c : State} {levels : BitVec 16} (hd : lossIsDue s = true) (hn : nextEvent s = none)
    (hc : credit s.time.lossCount { s with evPins := levels } = c) (h : TicksOnly c) (hp : c.time.partTime ≤ 2 ^ 64 - 1)
    {k : Nat} (hk : c.time.acc.floor.toNat = k) :
    ∃ w, (w = { c with time := ticksTime k c.time, lines := linesAfter k c }
        ∨ w = conclude { c with time := ticksTime k c.time, lines := linesAfter k c })
      ∧ exec (.holdoverEntered levels) s = .next (conclude (holdoverEntered w)) := by
  have hrow : exec (.holdoverEntered levels) s = execHoldoverEntered levels s := rfl
  have hdrain : drainBelow 7 s = s := drain_of_none hn _ _
  refine ⟨drainBelow 7 c, drainBelow_ticksOnly h hp hk, ?_⟩
  rw [hrow, execHoldoverEntered, if_pos hd, hdrain]
  dsimp only
  rw [enterHoldover_eq]
  dsimp only
  rw [hc]

section
variable {v w : State} (hw : w = v ∨ w = conclude v)
include hw

theorem formedOrNot_same :
    w.time = v.time ∧ w.journal = v.journal ∧ w.conditions = v.conditions ∧ w.rstn = v.rstn ∧ oldestPinned w = oldestPinned v := by
  rcases hw with rfl | rfl
  · exact ⟨rfl, rfl, rfl, rfl, rfl⟩
  · exact ⟨conclude_time v, conclude_journal v, conclude_conditions v, conclude_rstn v,
      oldestPinned_of_readers (conclude_journal v) fun q => by rw [conclude_session]⟩

theorem conclude_formedOrNot (x : Timebase) (j : Journal) (c : Conditions) :
    conclude { w with time := x, journal := j, conditions := c } = conclude { v with time := x, journal := j, conditions := c } := by
  rcases hw with rfl | rfl
  · rfl
  · exact conclude_concluded v x j c

theorem conclude_holdoverEntered_room (hr : v.conditions.raises = []) (h : RoomFor 1 v) :
    conclude (holdoverEntered w)
      = conclude
          { v with
            time := heldOver v.time
            journal := v.journal.storing v.time.partTime (quality (v.setTime (heldOver v.time))) [(.part, .time .holdoverEntered)]
            conditions := { v.conditions with raises := [.refLost] } } := by
  obtain ⟨ht, hj, hc, hrstn, -⟩ := formedOrNot_same hw
  have hq : quality (w.setTime (heldOver v.time)) = quality (v.setTime (heldOver v.time)) := rfl
  rw [holdoverEntered_room (by rw [hc]; exact hr) (h.congr hrstn hj), ht, hj, hc, hq]
  exact conclude_formedOrNot hw _ _ _

theorem conclude_holdoverEntered_full (hr : v.conditions.raises = []) (hrstn : v.rstn = .high) (hacc : v.journal.state = .accepting)
    (hfull : 512 ≤ v.journal.store.length) (hpin : oldestPinned v = true) :
    conclude (holdoverEntered w)
      = conclude
          { v with
            time := heldOver v.time
            journal := { v.journal with state := .withholding, withheld := 1 }
            conditions := { v.conditions with raises := [.refLost, .journalWithheld] } } := by
  obtain ⟨ht, hj, hc, hrs, hp⟩ := formedOrNot_same hw
  rw [holdoverEntered_full (by rw [hc]; exact hr) (hrs.trans hrstn) (by rw [hj]; exact hacc) (by rw [hj]; exact hfull) (hp.trans hpin), ht, hj, hc]
  exact conclude_formedOrNot hw _ _ _

end

end Sys2Proof.Machine
end

section
/-! SUPPORT. The theorem of O25: the loss, the break and the return of the reference, and the end of a slew. -/

set_option Elab.async false

namespace Sys2Proof.Machine

/-! ### The loss of a quiet part -/

/-- The part once the cycles of a loss are credited: the accumulator, the slew, and the records of the slew (R4, R16). -/
def creditLeft (levels : BitVec 16) (a : Rat) (sl : Option Slew) (l : List (Origin × Body)) (s : State) : State :=
  { s with
    evPins := levels
    time := { s.time with acc := a, slew := sl }
    journal := s.journal.storing s.time.partTime (quality s) l }

/-- The part in HOLDOVER, once the credited ticks have moved time and sampled the lines (R4). -/
def lossSampled (levels : BitVec 16) (a : Rat) (sl : Option Slew) (s : State) : State :=
  { s with
    evPins := levels
    time :=
      { s.time with
        partTime := min (s.time.partTime + a.floor.toNat) (2 ^ 64 - 1), acc := a - a.floor.toNat, slew := sl, refState := .holdover
        exitCount := 0, refSeen := false }
    lines := if a.floor.toNat = 0 then s.lines else sampledLines levels s }

section
variable {s : State} {levels : BitVec 16} {a : Rat} {sl : Option Slew} {l : List (Origin × Body)}

/-- A credit that leaves no slew at its amount leaves ticks due only. -/
theorem creditLeft_ticksOnly (hn : nextEvent s = none) (hs : Still s) (hsl : sl.elim false Slew.done = false) :
    TicksOnly (creditLeft levels a sl l s) := by
  obtain ⟨hwork, hvote, hraises, hstep, -, -⟩ := nextEvent_none hn
  refine ⟨hs.congr rfl rfl (fun _ => ⟨rfl, rfl⟩) rfl (fun _ => rfl) rfl (fun _ => rfl), hwork, hvote, hraises, hstep, ?_⟩
  show slewIsDone _ = false
  unfold slewIsDone creditLeft
  cases sl <;> exact hsl

variable (hd : lossIsDue s = true) (hn : nextEvent s = none) (hs : Still s) (hp : s.time.partTime ≤ 2 ^ 64 - 1)
  (hsl : sl.elim false Slew.done = false) (hc : credit s.time.lossCount { s with evPins := levels } = creditLeft levels a sl l s)
include hd hn hs hp hsl hc

theorem exec_loss_room (hroom : RoomFor (l.length + 1) s) :
    exec (.holdoverEntered levels) s
      = .next (conclude
          { lossSampled levels a sl s with
            journal := (s.journal.storing s.time.partTime (quality s) l).storing (lossSampled levels a sl s).time.partTime
              (quality (lossSampled levels a sl s)) [(.part, .time .holdoverEntered)]
            conditions := { s.conditions with raises := [.refLost] } }) := by
  obtain ⟨w, hw, hexec⟩ := exec_holdoverEntered hd hn hc (creditLeft_ticksOnly hn hs hsl) hp rfl
  have hr : RoomFor 1 (creditLeft levels a sl l s) := RoomFor.storing (s := s) (l := l) (by rw [Nat.add_comm]; exact hroom) rfl rfl
  rw [hexec, conclude_holdoverEntered_room hw (nextEvent_none hn).2.2.1 (hr.congr rfl rfl)]
  rfl

theorem exec_loss_full (hrstn : s.rstn = .high) (hl : l = []) (hacc : s.journal.state = .accepting)
    (hfull : 512 ≤ s.journal.store.length) (hpin : oldestPinned s = true) :
    exec (.holdoverEntered levels) s
      = .next (conclude
          { lossSampled levels a sl s with
            journal := { s.journal with state := .withholding, withheld := 1 }
            conditions := { s.conditions with raises := [.refLost, .journalWithheld] } }) := by
  subst hl
  obtain ⟨w, hw, hexec⟩ := exec_holdoverEntered hd hn hc (creditLeft_ticksOnly hn hs hsl) hp rfl
  have hj : (creditLeft levels a sl [] s).journal = s.journal := storing_nil _ _ _
  rw [hexec, conclude_holdoverEntered_full hw (nextEvent_none hn).2.2.1 hrstn (by exact hj ▸ hacc) (by exact hj ▸ hfull)
    ((oldestPinned_of_readers hj fun _ => rfl).trans hpin)]
  dsimp only
  rw [hj]
  rfl

end

/-! ### Any loss -/

theorem mem_raises_handRaise {s : State} {c : Condition} (h : c ∈ s.conditions.raises) (d : Condition) :
    c ∈ (handRaise d s).conditions.raises := by
  unfold handRaise
  split
  · exact h
  · exact List.mem_append_left _ h

/-- What a HOLDOVER entered from any state leaves of the timebase, the raises and the newest record (R4). -/
theorem holdoverEntered_general (u : State) :
    (holdoverEntered u).time = heldOver u.time
      ∧ (u.rstn = .high → .refLost ∈ (holdoverEntered u).conditions.raises)
      ∧ (u.rstn = .high → (holdoverEntered u).journal.state = .accepting →
          ∃ r, (holdoverEntered u).journal.store.getLast? = some r ∧ r.body = .time .holdoverEntered ∧ r.origin = .part
            ∧ r.time = (heldOver u.time).partTime ∧ r.quality = quality (u.setTime (heldOver u.time))) := by
  generalize hv : handRaise .refLost (u.setTime (heldOver u.time)) = v
  have hdef : holdoverEntered u = offerAs v.time.partTime (quality v) .part (.time .holdoverEntered) v := by rw [← hv]; rfl
  have htime : v.time = heldOver u.time := by rw [← hv]; exact (kept_handRaise _ _).unchanged .time (by decide)
  have hq : quality v = quality (u.setTime (heldOver u.time)) := by
    unfold quality
    rw [htime]
    rfl
  refine ⟨?_, fun hrstn => ?_, fun hrstn => ?_⟩
  · rw [hdef]
    exact ((kept_offerAs _ _ _ _ _).unchanged .time (by decide)).trans htime
  all_goals
    have hraise : v = { u.setTime (heldOver u.time) with
        conditions := { u.conditions with raises := u.conditions.raises ++ [.refLost] } } := by
      rw [← hv]
      exact handRaise_high (s := u.setTime (heldOver u.time)) hrstn _
    have hmem : Condition.refLost ∈ v.conditions.raises := by
      rw [hraise]
      exact List.mem_append_right _ (List.mem_singleton_self _)
    have hvr : v.rstn = .high := by rw [hraise]; exact hrstn
  · rw [hdef]
    rcases offerAs_cases v.time.partTime (quality v) .part (.time .holdoverEntered) v with
      ⟨-, h⟩ | ⟨-, -, h⟩ | ⟨-, -, -, h⟩ | ⟨-, -, -, -, h⟩ | ⟨-, -, -, -, h⟩ <;> rw [h]
    · exact hmem
    · exact hmem
    · exact hmem
    · exact mem_raises_handRaise (s := v.setJournal { v.journal with state := .withholding, withheld := 1 }) hmem .journalWithheld
    · rw [(kept_storeRecord _ _ _ _ _).unchanged .conditions (by decide), (kept_retireOldest v).unchanged .conditions (by decide)]
      exact hmem
  · rw [hdef, ← hq, ← htime]
    intro hacc
    rcases offerAs_cases v.time.partTime (quality v) .part (.time .holdoverEntered) v with
      ⟨hlow, -⟩ | ⟨-, hw, h⟩ | ⟨-, -, -, h⟩ | ⟨-, -, -, -, h⟩ | ⟨-, -, -, -, h⟩
    · exact absurd hlow (rstn_ne_low hvr)
    · rw [h] at hacc
      exact absurd (hw.symm.trans hacc) (by decide)
    · rw [h]
      exact ⟨_, List.getLast?_concat, rfl, rfl, rfl, rfl⟩
    · rw [h] at hacc
      unfold enterWithholding at hacc
      rw [(kept_handRaise _ _).unchanged .journal (by decide)] at hacc
      exact absurd hacc JournalState.noConfusion
    · rw [h]
      exact ⟨_, List.getLast?_concat, rfl, rfl, rfl, rfl⟩

theorem exec_loss_general {s : State} (levels : BitVec 16) (h : lossIsDue s = true) :
    ∃ t, exec (.holdoverEntered levels) s = .next t
      ∧ t.time.refState = .holdover ∧ t.time.exitCount = 0
      ∧ (s.rstn = .high → .refLost ∈ t.conditions.raises)
      ∧ (s.rstn = .high → t.journal.state = .accepting →
          ∃ r, t.journal.store.getLast? = some r ∧ r.body = .time .holdoverEntered ∧ r.origin = .part ∧ r.time = t.time.partTime
            ∧ r.quality = quality t) := by
  generalize hw : ({ drainBelow 7 s with evPins := levels } : State) = w
  generalize hu : drainBelow 7 (credit w.time.lossCount w) = u
  have hrow : exec (.holdoverEntered levels) s = execHoldoverEntered levels s := rfl
  have hrstn : u.rstn = s.rstn := by
    rw [← hu, (kept_drainBelow _ _).unchanged .rstn (by decide), (kept_credit _ _).unchanged .rstn (by decide), ← hw]
    exact (kept_drainBelow _ _).unchanged .rstn (by decide)
  obtain ⟨htime, hraise, hrecord⟩ := holdoverEntered_general u
  have hq : quality (conclude (holdoverEntered u)) = quality (u.setTime (heldOver u.time)) := by
    unfold quality
    rw [conclude_time, htime]
    rfl
  refine ⟨conclude (holdoverEntered u), ?_, ?_, ?_, fun hr => ?_, fun hr => ?_⟩
  · rw [hrow, execHoldoverEntered, if_pos h, ← hu, ← enterHoldover_eq, ← hw]
  · rw [conclude_time, htime]
    rfl
  · rw [conclude_time, htime]
    rfl
  · rw [conclude_conditions]
    exact hraise (hrstn.trans hr)
  · rw [conclude_journal, conclude_time, htime, hq]
    exact hrecord (hrstn.trans hr)

/-! ### The return of the reference, and the end of a slew -/

theorem leaveHoldover_eq {s : State} (h : RoomFor 1 s) :
    leaveHoldover s
      = { s with
          time := { s.time with refState := .locked }
          journal := s.journal.storing s.time.partTime (quality (s.setTime { s.time with refState := .locked })) [(.part, .time .holdoverLeft)]
          conditions := { s.conditions with refLost := { s.conditions.refLost with active := false } } } := by
  unfold leaveHoldover
  rw [offer_eq_storing (s := s.setTime { s.time with refState := .locked }) (h.congr rfl rfl)]
  rfl

/-- A slew that is the next event has reached its amount. -/
theorem slewDone_of_nextEvent {s : State} {x : Slew} (h : nextEvent s = some .slewDone) (hx : s.time.slew = some x) : slewLeft x ≤ 0 := by
  have hd : slewIsDone s = true := by
    unfold nextEvent at h
    split at h
    · cases h
    · split_ifs at h with h1 h2 h3
      all_goals first | assumption | (split at h <;> cases h) | cases h
  unfold slewIsDone at hd
  rw [hx] at hd
  exact (done_iff x).mp hd

theorem exec_slewDone {s : State} {x : Slew} (h : nextEvent s = some .slewDone) (hx : s.time.slew = some x) (hr : RoomFor 1 s) :
    exec .slewDone s
      = .next (conclude
          { s with
            time := { s.time with slew := none }
            journal := s.journal.storing s.time.partTime (quality s) [(.master x.issuer, .time (.slewDone x.amount))] }) := by
  have hrow : exec .slewDone s = execSlewDone s := rfl
  have hl := slewDone_of_nextEvent h hx
  have hd : slewIsDone s = true := by
    unfold slewIsDone
    rw [hx]
    exact (done_iff x).mpr hl
  have hdrain : drainBelow 5 s = s := drain_of_not_below h (Nat.le_refl 5) _
  rw [hrow, execSlewDone, if_pos hd, hdrain, endSlew_done hx hl hr]

/-! ### The theorem -/

/-- What a loss does where the credit leaves accumulator, slew and records so: the first clause of the obligation. -/
def LossEnters (s : State) (levels : BitVec 16) (fed : Rat × Option Slew × List (Origin × Body)) : Prop :=
  (RoomFor (fed.2.2.length + 1) s →
    exec (.holdoverEntered levels) s
      = .next (conclude
          { lossSampled levels fed.1 fed.2.1 s with
            journal := (s.journal.storing s.time.partTime (quality s) fed.2.2).storing (lossSampled levels fed.1 fed.2.1 s).time.partTime
              (quality (lossSampled levels fed.1 fed.2.1 s)) [(.part, .time .holdoverEntered)]
            conditions := { s.conditions with raises := [.refLost] } }))
  ∧ (s.journal.state = .accepting → 512 ≤ s.journal.store.length → oldestPinned s = true → fed.2.2 = [] →
      exec (.holdoverEntered levels) s
        = .next (conclude
            { lossSampled levels fed.1 fed.2.1 s with
              journal := { s.journal with state := .withholding, withheld := 1 }
              conditions := { s.conditions with raises := [.refLost, .journalWithheld] } }))

section
variable {s : State} {levels : BitVec 16} (hd : lossIsDue s = true) (hn : nextEvent s = none) (hs : Still s) (hr : s.rstn = .high)
  (hp : s.time.partTime ≤ 2 ^ 64 - 1)
include hd hn hs hr hp

theorem lossEnters_none (h : s.time.slew = none) :
    LossEnters s levels (s.time.acc + s.time.lossCount * cycleBase s.time, none, []) := by
  have hc : credit s.time.lossCount { s with evPins := levels }
      = creditLeft levels (s.time.acc + s.time.lossCount * cycleBase s.time) none [] s := by
    rw [credit_none _ (s := { s with evPins := levels }) h]
    unfold creditLeft
    rw [storing_nil, ← h]
    rfl
  exact ⟨exec_loss_room hd hn hs hp rfl hc, fun hacc hfull hpin hl => exec_loss_full hd hn hs hp rfl hc hr hl hacc hfull hpin⟩

theorem lossEnters_moving {x : Slew} (h : s.time.slew = some x) (hl : s.time.lossCount * cycleShare x < slewLeft x) :
    LossEnters s levels
      (s.time.acc + s.time.lossCount * cycleBase s.time + slewSign x * (s.time.lossCount * cycleShare x),
        some { x with progress := x.progress + s.time.lossCount * cycleShare x }, []) := by
  have hc : credit s.time.lossCount { s with evPins := levels }
      = creditLeft levels (s.time.acc + s.time.lossCount * cycleBase s.time + slewSign x * (s.time.lossCount * cycleShare x))
          (some { x with progress := x.progress + s.time.lossCount * cycleShare x }) [] s := by
    rw [credit_moving _ (s := { s with evPins := levels }) h hl]
    unfold creditLeft slewedTime
    rw [storing_nil, add_assoc]
    rfl
  have hsl : Slew.done { x with progress := x.progress + s.time.lossCount * cycleShare x } = false := by
    rw [← Bool.not_eq_true, done_iff, slewLeft_moved]
    exact not_le.mpr (sub_pos.mpr hl)
  exact ⟨exec_loss_room hd hn hs hp hsl hc, fun hacc hfull hpin hl => exec_loss_full hd hn hs hp hsl hc hr hl hacc hfull hpin⟩

omit hr in
theorem lossEnters_ending {x : Slew} (h : s.time.slew = some x) (hl : slewLeft x ≤ s.time.lossCount * cycleShare x) :
    LossEnters s levels
      (s.time.acc + s.time.lossCount * cycleBase s.time + slewSign x * slewLeft x, none, [(.master x.issuer, .time (.slewDone x.amount))]) := by
  have h0 : 0 < slewLeft x := by
    obtain ⟨-, -, -, -, hdone, -⟩ := nextEvent_none hn
    unfold slewIsDone at hdone
    rw [h] at hdone
    rw [← not_le, ← done_iff]
    exact Bool.eq_false_iff.mp hdone
  refine ⟨fun hroom => ?_, fun _ _ _ hnil => absurd hnil (List.cons_ne_nil _ _)⟩
  have hc : credit s.time.lossCount { s with evPins := levels }
      = creditLeft levels (s.time.acc + s.time.lossCount * cycleBase s.time + slewSign x * slewLeft x) none
          [(.master x.issuer, .time (.slewDone x.amount))] s := by
    rw [credit_ending _ (s := { s with evPins := levels }) h h0 hl ((hroom.mono (Nat.le_add_left _ _)).congr rfl rfl)]
    unfold creditLeft creditEnded
    rw [add_assoc]
    rfl
  exact exec_loss_room hd hn hs hp rfl hc hroom

end

/-- Settles O25: the credit cycle by cycle, its ticks one by one, then HOLDOVER; breaks, returns and slew ends row by row. -/
theorem referenceEvents : Obligations.ReferenceEvents := by
  unfold Obligations.ReferenceEvents
  refine ⟨fun s levels hd hn hs hr _ => ?_, fun s levels h => exec_loss_general levels h, fun s hn hf hb => ?_, fun s hn he hr => ?_,
    fun s x h hx hr => exec_slewDone h hx hr⟩
  · intro n base fed ticks made entered sampled hp
    have hfed : LossEnters s levels fed := by
      cases h : s.time.slew with
      | none =>
        have hf : fed = (s.time.acc + s.time.lossCount * cycleBase s.time, none, []) := by
          simp only [fed, h]
          rfl
        rw [hf]
        exact lossEnters_none hd hn hs hr hp h
      | some x =>
        have hf : fed = if slewLeft x ≤ s.time.lossCount * cycleShare x
            then (s.time.acc + s.time.lossCount * cycleBase s.time + slewSign x * slewLeft x, none,
              [(.master x.issuer, .time (.slewDone x.amount))])
            else (s.time.acc + s.time.lossCount * cycleBase s.time + slewSign x * (s.time.lossCount * cycleShare x),
              some { x with progress := x.progress + s.time.lossCount * cycleShare x }, []) := by
          simp only [fed, h]
          rfl
        rw [hf]
        split
        · next hl => exact lossEnters_ending hd hn hs hp h hl
        · next hl => exact lossEnters_moving hd hn hs hr hp h (not_le.mp hl)
    exact hfed
  · have hrow : exec .referenceBreak s = execReferenceBreak s := rfl
    have hdrain : drainBelow 7 s = s := drain_of_none hn _ _
    rw [hrow, execReferenceBreak, if_pos hb, hdrain]
    exact congrArg Host.Outcome.next (conclude_setTime_of_formed hf _)
  · have hrow : exec .holdoverLeft s = execHoldoverLeft s := rfl
    have hdrain : drainBelow 7 s = s := drain_of_none hn _ _
    rw [hrow, execHoldoverLeft, if_pos he, hdrain, leaveHoldover_eq hr]
    refine congrArg (fun q => Host.Outcome.next (conclude
      { s with
        time := { s.time with refState := RefState.locked }
        journal := s.journal.storing s.time.partTime q [(.part, .time .holdoverLeft)]
        conditions := { s.conditions with refLost := { s.conditions.refLost with active := false } } })) ?_
    unfold quality
    rw [State.setTime_time]
    cases s.time.validity <;> rfl

end Sys2Proof.Machine
end

section
/-! SUPPORT. The widths of records and of the payloads of every answer (O9). -/

set_option Elab.async false

namespace Sys2Proof.Machine

/-! ### Widths of what payloads are made of -/

@[simp] theorem code_length (n : Nat) : (code n).length = 1 := rfl

@[simp] theorem beInt_length (n : Nat) (x : Int) : (beInt n x).length = n := be_length _ _

@[simp] theorem handleBytes_length (h : Handle) : (handleBytes h).length = 2 := rfl

theorem optField_length {α : Type} {w : Nat} {f : α → List Byte} (h : ∀ y, (f y).length = w) (x : Option α) :
    (optField w (x.map f)).length = w + 1 := by
  cases x with
  | none => simp [optField]
  | some y => simp [optField, h y]

@[simp] theorem optField_be_length (w : Nat) (x : Option Nat) : (optField w (x.map (be w))).length = w + 1 := optField_length (be_length w) x

/-- Lists of one width each. -/
theorem flatMap_length_of_width {α β : Type} {f : α → List β} {n : Nat} (h : ∀ a, (f a).length = n) (l : List α) :
    (l.flatMap f).length = n * l.length := by
  induction l with
  | nil => rfl
  | cons a l ih => rw [List.flatMap_cons, List.length_append, h, ih, List.length_cons]; ring

/-! ### Records (R197) -/

theorem permitCauseBytes_length (c : PermitCause) : (permitCauseBytes c).length = 3 := by cases c <;> rfl

theorem timeBodyBytes_length (b : TimeBody) : (timeBodyBytes b).length ≤ 16 := by cases b <;> simp [timeBodyBytes]

/-- No body but a note's is wider than 16 bytes. -/
theorem bodyBytes_length (b : Body) (h : ∀ bs, b = .note bs → bs.length ≤ 16) : (bodyBytes b).length ≤ 16 := by
  cases b with
  | note bs => exact h bs rfl
  | restart k => cases k <;> decide
  | sessionClosed c => cases c <;> decide
  | time t => exact timeBodyBytes_length t
  | _ => simp [bodyBytes, permitCauseBytes_length]

theorem recordBytes_length (r : Record) : (recordBytes r).length = 20 + (bodyBytes r.body).length := by
  simp only [recordBytes, List.length_append, be_length, code_length]

/-! ### Answers -/

/-- The widths of an answer: from `lo` to `hi` bytes where it is OK (R180, R201). -/
structure Sized (lo hi : Nat) (r : Reply) : Prop where
  ok     : r.status = .ok → lo ≤ r.payload.length ∧ r.payload.length ≤ hi
  queued : r.status = .queued → r.payload.length = 2
  heldBy : r.status = .heldBy → r.payload.length = 1
  other  : r.status ∉ [.ok, .queued, .heldBy] → r.payload = []

theorem sized_okay_between {lo hi : Nat} {bs : List Byte} (h1 : lo ≤ bs.length) (h2 : bs.length ≤ hi) : Sized lo hi (okay bs) :=
  ⟨fun _ => ⟨h1, h2⟩, nofun, nofun, fun h => absurd List.mem_cons_self h⟩

theorem sized_okay {n : Nat} {bs : List Byte} (h : bs.length = n) : Sized n n (okay bs) := sized_okay_between h.ge h.le

/-- An answer without a payload that is none of the three statuses that carry one. -/
theorem sized_bare {lo hi : Nat} {st : Status} (h : st ∉ [.ok, .queued, .heldBy]) : Sized lo hi { status := st, payload := [] } :=
  ⟨fun e => absurd (by rw [show st = _ from e]; decide) h, fun e => absurd (by rw [show st = _ from e]; decide) h,
    fun e => absurd (by rw [show st = _ from e]; decide) h, fun _ => rfl⟩

theorem sized_refuse {lo hi : Nat} {st : Status} (h : st.isRefusal = true) : Sized lo hi (refuse st) :=
  sized_bare fun hm => by
    simp only [List.mem_cons, List.not_mem_nil, or_false] at hm
    rcases hm with rfl | rfl | rfl <;> cases h

/-- A command's act answers in these widths from this state. -/
def ActSized (lo hi : Nat) (s : State) (act : Act) : Prop := Sized lo hi (act s).2

theorem actSized_withSession {lo hi : Nat} {s : State} {p : Port} {f : Session → Act} (h : ∀ x, Sized lo hi (f x s).2) :
    ActSized lo hi s (withSession p f) := by
  unfold ActSized withSession
  split
  · exact h _
  · exact sized_refuse rfl

/-! ### The answers of the session commands -/

theorem sized_identify (p : Port) (s : State) : ActSized 31 31 s (takeIdentify p) := by
  have h : ∀ t : String, t.toList.length ≤ 8 → (ascii8 t).length = 8 := fun t ht => by
    simp only [ascii8, List.length_append, List.length_map, List.length_replicate]
    omega
  refine sized_okay ?_
  unfold identityBytes
  simp only [List.length_append, h "Oxendis" (by decide), h "OXT-412" (by decide), code_length, be_length, List.length_singleton]

theorem sized_open (p : Port) (mode : Byte) (f : Filter) (start : Byte) (w : BitVec 16) (s : State) :
    ActSized 25 25 s (takeOpen p mode f start w) := by
  unfold ActSized takeOpen
  repeat' split
  case h_1.isTrue => exact sized_okay (by simp)
  all_goals exact sized_refuse rfl

theorem sized_keepalive (p : Port) (s : State) : ActSized 8 8 s (takeKeepalive p) :=
  actSized_withSession fun _ => sized_okay (by simp)

theorem sized_renew (p : Port) (s : State) : ActSized 1 1 s (takeRenew p) :=
  actSized_withSession fun x => by
    cases x.liveness <;> exact sized_okay rfl

theorem sized_status (p : Port) (s : State) : ActSized 5 5 s (takeStatus p) :=
  actSized_withSession fun _ => sized_okay rfl

theorem sized_setAttentionMask (p : Port) (m : Byte) (s : State) : ActSized 2 2 s (takeSetAttentionMask p m) :=
  actSized_withSession fun _ => by
    split
    · exact sized_okay rfl
    · exact sized_refuse rfl

/-! ### The answers of the time and input commands -/

theorem sized_getTime (p : Port) (s : State) : ActSized 42 42 s (takeGetTime p) :=
  actSized_withSession fun _ => sized_okay (by
    have h1 := optField_length (f := pendingStepBytes) (w := 10) (fun _ => by simp [pendingStepBytes]) s.time.step
    have h2 := optField_length (f := slewBytes) (w := 11) (fun _ => by simp [slewBytes]) s.time.slew
    simp [timeBytes, h1, h2])

theorem sized_stepTime (p : Port) (o : BitVec 64) (m : Byte) (s : State) : ActSized 0 0 s (takeStepTime p o m) := by
  unfold ActSized takeStepTime
  repeat' split
  case h_1.isTrue => exact sized_bare (by decide)
  all_goals exact sized_refuse rfl

theorem sized_slewTime (p : Port) (a : BitVec 32) (r : BitVec 16) (s : State) : ActSized 0 0 s (takeSlewTime p a r) := by
  unfold ActSized takeSlewTime
  repeat' split
  case isTrue.isTrue => exact sized_okay rfl
  all_goals exact sized_refuse rfl

theorem sized_setTrim (p : Port) (t : BitVec 32) (s : State) : ActSized 0 0 s (takeSetTrim p t) := by
  unfold ActSized takeSetTrim
  repeat' split
  case isTrue.isTrue => exact sized_okay rfl
  all_goals exact sized_refuse rfl

theorem sized_readStrobe (p : Port) (s : State) : ActSized 11 11 s (takeReadStrobe p) := by
  unfold ActSized takeReadStrobe
  dsimp only
  split
  · exact sized_okay (by simp [captureBytes])
  · exact sized_bare (by decide)

theorem inputBytes_length (l : EventLine) : (inputBytes l).length = 4 := by
  unfold inputBytes
  cases l.tracked <;> rfl

theorem sized_readInputs (p : Port) (s : State) : ActSized 72 72 s (takeReadInputs p) :=
  actSized_withSession fun _ => sized_okay (by
    rw [List.length_append, be_length, flatMap_length_of_width inputBytes_length, Vector.length_toList])

/-! ### The answers of the journal commands -/

theorem sized_postNote (p : Port) (n : List Byte) (s : State) : ActSized 8 8 s (takePostNote p n) := by
  unfold ActSized takePostNote
  split
  · exact sized_okay (be_length 8 _)
  · exact sized_bare (by decide)

theorem sized_queryJournal (p : Port) (s : State) : ActSized 24 24 s (takeQueryJournal p) :=
  actSized_withSession fun _ => sized_okay (by simp [journalBytes])

/-- The records a scan returns: at most n, each one of those scanned. -/
theorem scan_length (f : Filter) (n : Nat) (l : List Record) : (scan f n l).1.length ≤ n := by
  rw [scan_matches]
  exact List.length_take_le _ _

theorem mem_scan {f : Filter} {n : Nat} {l : List Record} {r : Record} (h : r ∈ (scan f n l).1) : r ∈ l := by
  rw [scan_matches] at h
  exact List.mem_of_mem_filter (List.mem_of_mem_take h)

theorem scanned_length {l : List Record} (h : ∀ r ∈ l, (recordBytes r).length ≤ 36) : (l.flatMap recordBytes).length ≤ 36 * l.length := by
  induction l with
  | nil => exact Nat.le_refl 0
  | cons r l ih =>
    have h1 := h r List.mem_cons_self
    have h2 := ih fun x hx => h x (List.mem_cons_of_mem _ hx)
    rw [List.flatMap_cons, List.length_append, List.length_cons]
    omega

/-- The notes held are within the length a note may have (R53). -/
def NotesFit (s : State) : Prop := ∀ r ∈ s.journal.store, ∀ bs, r.body = .note bs → bs.length ≤ 16

theorem sized_readJournal (p : Port) (n c : Byte) {s : State} (hn : NotesFit s) : ActSized 6 294 s (takeReadJournal p n c) :=
  actSized_withSession fun x => by
    split
    · exact sized_refuse rfl
    · split
      · exact sized_refuse rfl
      · next h =>
        have h8 : n.toNat ≤ 8 := Nat.not_lt.mp fun hlt => h (.inr hlt)
        have hcount := scan_length x.reader.filter n.toNat (scanStart s x)
        have hbytes : ((scan x.reader.filter n.toNat (scanStart s x)).1.flatMap recordBytes).length
            ≤ 36 * (scan x.reader.filter n.toNat (scanStart s x)).1.length := scanned_length fun r hr => by
          have hbody := bodyBytes_length r.body (hn r (List.mem_of_mem_filter (mem_scan hr)))
          rw [recordBytes_length]
          omega
        refine sized_okay_between ?_ ?_ <;>
          simp only [List.length_append, be_length, List.length_singleton] <;> omega

theorem sized_ackJournal (p : Port) (u : BitVec 64) (s : State) : ActSized 0 0 s (takeAckJournal p u) :=
  actSized_withSession fun _ => by
    split
    · exact sized_refuse rfl
    · split <;> exact sized_okay rfl

theorem sized_seekJournal (p : Port) (w : Byte) (q : BitVec 64) (s : State) : ActSized 0 0 s (takeSeekJournal p w q) :=
  actSized_withSession fun _ => by
    split
    · exact sized_okay rfl
    · exact sized_refuse rfl

theorem sized_setFilter (p : Port) (f : Filter) (s : State) : ActSized 0 0 s (takeSetFilter p f) :=
  actSized_withSession fun _ => by
    split
    · exact sized_okay rfl
    · exact sized_refuse rfl

theorem sized_setReaderMode (p : Port) (m : Byte) (s : State) : ActSized 0 0 s (takeSetReaderMode p m) :=
  actSized_withSession fun _ => by
    split
    · exact sized_okay rfl
    · exact sized_refuse rfl

theorem sized_queryReader (p : Port) (s : State) : ActSized 28 28 s (takeQueryReader p) :=
  actSized_withSession fun _ => sized_okay (by simp [readerBytes])

/-! ### The answers of the schedule commands -/

theorem admissionBytes_length (h : Handle) (n : Nat) (x : Option Entry) : (admissionBytes h n x).length = 20 := by
  unfold admissionBytes
  cases x with
  | none => simp [optField]
  | some e => simp

theorem sized_addEntry (p : Port) (d : Descriptor) (s : State) : ActSized 20 20 s (takeAddEntry p d) := by
  unfold ActSized takeAddEntry
  split
  · exact sized_refuse rfl
  · split
    · exact sized_refuse rfl
    · split
      · exact sized_refuse rfl
      · split
        · exact sized_refuse rfl
        · split
          · exact sized_refuse rfl
          · exact sized_okay (admissionBytes_length _ _ _)

theorem sized_cancelEntry (p : Port) (i g : Byte) (s : State) : ActSized 0 0 s (takeCancelEntry p i g) := by
  unfold ActSized takeCancelEntry
  split
  · exact sized_refuse rfl
  · exact sized_refuse rfl
  · split
    · exact sized_okay rfl
    · exact sized_refuse rfl

theorem descriptorBytes_length (d : Descriptor) : (descriptorBytes d).length = 26 := by simp [descriptorBytes]

theorem sized_queryEntry (i g : Byte) (s : State) : ActSized 53 53 s (takeQueryEntry i g) := by
  unfold ActSized takeQueryEntry
  split
  · exact sized_refuse rfl
  · exact sized_refuse rfl
  · exact sized_okay (by simp [entryBytes, descriptorBytes_length])

theorem summaryBytes_length (s : State) (i : Fin 64) : (summaryBytes s i).length ≤ 15 := by
  unfold summaryBytes
  split
  · exact Nat.zero_le _
  · simp

theorem listBytes_length (p : Port) (test : Entry → Bool) (n : Nat) (s : State) :
    5 ≤ (listBytes p test n s).length ∧ (listBytes p test n s).length ≤ 245 := by
  unfold listBytes
  generalize ((slotsWhere s test).filter fun i => n ≤ i.val) = l
  have h16 : (l.take Config.listLimit).length ≤ 16 := List.length_take_le _ _
  have hsum := flatMap_length_le (summaryBytes_length s) (l.take Config.listLimit)
  simp only [List.length_append, code_length, List.length_singleton]
  omega

theorem sized_listEntries (p : Port) (sc f : Byte) (s : State) : ActSized 5 245 s (takeListEntries p sc f) := by
  unfold ActSized takeListEntries
  split
  · exact sized_refuse rfl
  · split
    · exact sized_okay_between (listBytes_length _ _ _ _).1 (listBytes_length _ _ _ _).2
    · exact sized_refuse rfl

/-! ### The answers of the output commands -/

theorem sized_setLine (p : Port) (l a v : Byte) (w : BitVec 24) (s : State) : ActSized 2 2 s (takeSetLine p l a v w) := by
  unfold ActSized takeSetLine
  split
  · exact sized_refuse rfl
  · split
    · exact sized_refuse rfl
    · split
      · exact sized_refuse rfl
      · split
        · exact sized_refuse rfl
        · exact sized_okay rfl

theorem outputBytes_length (s : State) (k : Fin 8) : (outputBytes s k).length = 11 := by
  unfold outputBytes
  dsimp only
  cases (s.out k).pulse <;> simp

theorem sized_readOutputs (p : Port) (s : State) : ActSized 99 99 s (takeReadOutputs p) :=
  actSized_withSession fun _ => sized_okay (by
    simp only [List.length_append, be_length, code_length, flatMap_length_of_width (outputBytes_length s), List.length_finRange])

/-! ### The answers of the claim commands -/

theorem sized_claim (p : Port) (r w : Byte) (s : State) : ActSized 1 1 s (takeClaim p r w) := by
  have queued : ∀ h n, Sized 1 1 (queuedReply h n) := fun h n => ⟨nofun, fun _ => rfl, nofun, fun hs => absurd (List.mem_cons_of_mem _ List.mem_cons_self) hs⟩
  have held : ∀ h : Port, Sized 1 1 { status := .heldBy, payload := code (portCode h) } := fun h =>
    ⟨nofun, nofun, fun _ => rfl, fun hs => absurd (List.mem_cons_of_mem _ (List.mem_cons_of_mem _ List.mem_cons_self)) hs⟩
  unfold ActSized takeClaim
  split
  · split
    · exact sized_okay rfl
    · split
      · exact sized_okay rfl
      · unfold claimHeld
        dsimp only
        split
        · split <;> exact queued _ _
        · exact held _
  · exact sized_refuse rfl

theorem sized_release (p : Port) (r : Byte) (s : State) : ActSized 0 0 s (takeRelease p r) := by
  unfold ActSized takeRelease
  split
  · exact sized_refuse rfl
  · split
    · exact sized_okay rfl
    · exact sized_refuse rfl

theorem sized_withdraw (p : Port) (r : Byte) (s : State) : ActSized 0 0 s (takeWithdraw p r) := by
  unfold ActSized takeWithdraw
  split
  · exact sized_refuse rfl
  · dsimp only
    split
    · exact sized_okay rfl
    · exact sized_refuse rfl

/-- A consistent claim record has at most three waiters: the holder is none of them (R120). -/
theorem waiters_length {c : ClaimRecord} (h : ClaimConsistent c) : c.waiters.length ≤ 3 := by
  cases hc : c.holder with
  | none => rw [h.free hc]; exact Nat.zero_le _
  | some q =>
    have hnodup : (q :: c.waiters).Nodup := List.nodup_cons.mpr ⟨h.holder q hc, h.once⟩
    have hsub : (q :: c.waiters) ⊆ allPorts := fun x _ => by cases x <;> decide
    have hlen := (hnodup.subperm hsub).length_le
    exact Nat.le_of_succ_le_succ hlen

theorem claimBytes_length {s : State} {r : Resource} (h : ClaimConsistent (s.claimOf r)) : (claimBytes s r).length = 7 := by
  have hw := waiters_length h
  have hcodes := flatMap_length_of_width (f := fun p : Port => code (portCode p)) (fun _ => code_length _) (s.claimOf r).waiters
  unfold claimBytes
  dsimp only
  cases (s.claimOf r).holder <;>
    simp only [List.length_append, code_length, List.length_cons, List.length_nil, hcodes, List.length_replicate] <;> omega

theorem sized_queryClaims (p : Port) {s : State} (h : ∀ r, ClaimConsistent (s.claimOf r)) : ActSized 70 70 s (takeQueryClaims p) :=
  actSized_withSession fun _ => sized_okay (by rw [flatMap_length_of_width fun r => claimBytes_length (h r)]; rfl)

/-! ### The answers of the configuration commands -/

theorem sized_configure {ι α : Type} (x : Parameter ι α) (p : Port) (n : Byte) (v : BitVec 32) (s : State) : ActSized 8 8 s (x.configure p n v) := by
  unfold ActSized Parameter.configure
  split
  · exact sized_refuse rfl
  · split
    · exact sized_refuse rfl
    · split
      · exact sized_refuse rfl
      · split
        · exact sized_refuse rfl
        · exact sized_okay (by simp)

theorem sized_configureAct (p : Port) (g n : Byte) (v : BitVec 32) (s : State) : ActSized 8 8 s (configureAct p g n v) := by
  unfold configureAct
  split
  case h_13 =>
    unfold ActSized configureNothing
    split <;> exact sized_refuse rfl
  all_goals exact sized_configure _ p n v s

theorem sized_readConfig (x : BitVec 16) (s : State) : ActSized 6 6 s (takeReadConfig x) := by
  unfold ActSized takeReadConfig
  split
  · exact sized_okay (by simp)
  · exact sized_refuse rfl

/-! ### The answers of the permit and condition commands -/

theorem sized_enroll (p : Port) (v : Option Byte) (s : State) : ActSized 1 1 s (takeEnroll p v) := by
  unfold ActSized takeEnroll
  split
  · exact sized_refuse rfl
  · split
    · exact sized_refuse rfl
    · exact sized_okay rfl

theorem sized_leave (p : Port) (s : State) : ActSized 1 1 s (takeLeave p) := by
  unfold ActSized takeLeave
  split
  · exact sized_okay rfl
  · exact sized_refuse rfl

theorem sized_vote (p : Port) (v : Byte) (s : State) : ActSized 1 1 s (takeVote p v) := by
  unfold ActSized takeVote
  split
  · split
    · exact sized_refuse rfl
    · exact sized_okay rfl
  · exact sized_refuse rfl

theorem electorBytes_length (s : State) (p : Port) : (electorBytes s p).length ≤ 4 := by
  unfold electorBytes
  split
  · exact Nat.zero_le _
  · simp

theorem electoratePlaces_length (s : State) : (electoratePlaces s).length = 16 := by
  have h : (allPorts.flatMap (electorBytes s)).length ≤ 16 := flatMap_length_le (electorBytes_length s) allPorts
  unfold electoratePlaces
  simp only [List.length_append, List.length_replicate]
  omega

theorem sized_queryPermit (p : Port) (s : State) : ActSized 41 41 s (takeQueryPermit p) :=
  actSized_withSession fun _ => sized_okay (by
    have h := optField_length (f := lastChangeBytes) (w := 11) (fun x => by
      rw [lastChangeBytes, List.length_append, be_length, permitCauseBytes_length]) s.permit.lastChange
    simp only [permitBytes, List.length_append, code_length, be_length, electoratePlaces_length, optField_be_length, h])

theorem sized_clearCondition (p : Port) (c : Byte) (s : State) : ActSized 2 2 s (takeClearCondition p c) := by
  unfold ActSized takeClearCondition
  split
  · exact sized_refuse rfl
  · split
    · exact sized_refuse rfl
    · split
      · exact sized_refuse rfl
      · split <;> exact sized_okay rfl

theorem sized_queryConditions (p : Port) (s : State) : ActSized 49 49 s (takeQueryConditions p) :=
  actSized_withSession fun _ => sized_okay (by
    have h : ∀ c, (conditionBytes s c).length = 12 := fun c => by simp [conditionBytes]
    rw [List.length_append, flatMap_length_of_width h]
    rfl)

theorem sized_close (p : Port) (s : State) : ActSized 0 0 s (takeClose p) := actSized_withSession fun _ => sized_okay rfl

end Sys2Proof.Machine
end

section
/-! SUPPORT. The widths of the answer to any frame (O9). -/

set_option Elab.async false

namespace Sys2Proof.Machine

/-- The widths of the OK answers of a command code: those its row of `okWidths` says, and none where it has no row. -/
@[reducible] def OkWidth (code lo hi : Nat) : Prop :=
  (∀ row ∈ okWidths, code = row.1.toNat → row.2.1 = lo ∧ row.2.2 = hi) ∧ (code ∉ okWidths.map (fun row => row.1.toNat) → hi = 0)

/-- A frame's command answers within the widths of its code. -/
def CommandSized (code : Nat) (s : State) (c : FrameCommand) : Prop :=
  match c with
  | .known _ act => ∃ lo hi, OkWidth code lo hi ∧ ActSized lo hi s act
  | _ => True

theorem commandSized_ofLength {code lo hi n : Nat} {s : State} {x : List Byte} {f : TakenFrom} {act : Act} (hw : OkWidth code lo hi)
    (h : ActSized lo hi s act) : CommandSized code s (ofLength n x f act) := by
  unfold ofLength
  split
  · exact ⟨lo, hi, hw, h⟩
  · trivial

theorem commandSized_frame (p : Port) (command : Byte) (x : List Byte) {s : State} (hc : ∀ r, ClaimConsistent (s.claimOf r))
    (hn : NotesFit s) : CommandSized command.toNat s (frameCommand p command x) := by
  unfold frameCommand
  generalize command.toNat = k
  split
  · exact commandSized_ofLength (by decide) (sized_identify p s)
  · exact commandSized_ofLength (by decide) (sized_open p _ _ _ _ s)
  · exact commandSized_ofLength (by decide) (sized_close p s)
  · exact commandSized_ofLength (by decide) (sized_keepalive p s)
  · exact commandSized_ofLength (by decide) (sized_renew p s)
  · exact commandSized_ofLength (by decide) (sized_status p s)
  · exact commandSized_ofLength (by decide) (sized_setAttentionMask p _ s)
  · exact commandSized_ofLength (by decide) (sized_getTime p s)
  · exact commandSized_ofLength (by decide) (sized_stepTime p _ _ s)
  · exact commandSized_ofLength (by decide) (sized_slewTime p _ _ s)
  · exact commandSized_ofLength (by decide) (sized_setTrim p _ s)
  · exact commandSized_ofLength (by decide) (sized_readStrobe p s)
  · exact commandSized_ofLength (by decide) (sized_readInputs p s)
  · unfold postNoteCommand
    split
    · exact ⟨8, 8, by decide, sized_postNote p x s⟩
    · trivial
  · exact commandSized_ofLength (by decide) (sized_queryJournal p s)
  · exact commandSized_ofLength (by decide) (sized_readJournal p _ _ hn)
  · exact commandSized_ofLength (by decide) (sized_ackJournal p _ s)
  · exact commandSized_ofLength (by decide) (sized_seekJournal p _ _ s)
  · exact commandSized_ofLength (by decide) (sized_setFilter p _ s)
  · exact commandSized_ofLength (by decide) (sized_setReaderMode p _ s)
  · exact commandSized_ofLength (by decide) (sized_queryReader p s)
  · exact commandSized_ofLength (by decide) (sized_addEntry p _ s)
  · exact commandSized_ofLength (by decide) (sized_cancelEntry p _ _ s)
  · exact commandSized_ofLength (by decide) (sized_queryEntry _ _ s)
  · exact commandSized_ofLength (by decide) (sized_listEntries p _ _ s)
  · exact commandSized_ofLength (by decide) (sized_setLine p _ _ _ _ s)
  · exact commandSized_ofLength (by decide) (sized_readOutputs p s)
  · exact commandSized_ofLength (by decide) (sized_claim p _ _ s)
  · exact commandSized_ofLength (by decide) (sized_release p _ s)
  · exact commandSized_ofLength (by decide) (sized_withdraw p _ s)
  · exact commandSized_ofLength (by decide) (sized_queryClaims p hc)
  · exact commandSized_ofLength (by decide) (sized_configureAct p _ _ _ s)
  · exact commandSized_ofLength (by decide) (sized_readConfig _ s)
  · unfold enrollCommand
    split
    · exact ⟨1, 1, by decide, sized_enroll p _ s⟩
    · exact ⟨1, 1, by decide, sized_enroll p _ s⟩
    · trivial
  · exact commandSized_ofLength (by decide) (sized_leave p s)
  · exact commandSized_ofLength (by decide) (sized_vote p _ s)
  · exact commandSized_ofLength (by decide) (sized_queryPermit p s)
  · exact commandSized_ofLength (by decide) (sized_clearCondition p _ s)
  · exact commandSized_ofLength (by decide) (sized_queryConditions p s)
  · trivial

/-- What the common checks answer is within the widths too. -/
theorem sized_commonChecks {code : Nat} {s : State} {c : FrameCommand} (p : Port) (h : CommandSized code s c)
    (hcode : ∃ lo hi, OkWidth code lo hi) : ∃ lo hi, OkWidth code lo hi ∧ Sized lo hi (commonChecks p c s).2 := by
  obtain ⟨lo, hi, hw⟩ := hcode
  have refused : ∀ st : Status, st.isRefusal = true → ∃ lo hi, OkWidth code lo hi ∧ Sized lo hi (refuse st) :=
    fun st hst => ⟨lo, hi, hw, sized_refuse hst⟩
  unfold commonChecks
  cases c with
  | unknown => exact refused _ rfl
  | badLength => exact refused _ rfl
  | known f act =>
    dsimp only
    split
    · split
      · exact h
      · exact refused _ rfl
    · split
      · exact refused _ rfl
      · exact h

/-- Every code has widths: those of its row, or none. -/
theorem okWidth_exists (code : Nat) : ∃ lo hi, OkWidth code lo hi := by
  have hone : ∀ a ∈ okWidths, ∀ b ∈ okWidths, a.1.toNat = b.1.toNat → a = b := by decide
  by_cases h : ∃ row ∈ okWidths, code = row.1.toNat
  · obtain ⟨row, hrow, hcode⟩ := h
    refine ⟨row.2.1, row.2.2, fun r hr hc => ?_, fun hn => absurd (List.mem_map.mpr ⟨row, hrow, hcode.symm⟩) hn⟩
    rw [hone r hr row hrow (hc.symm.trans hcode)]
    exact ⟨rfl, rfl⟩
  · exact ⟨0, 0, fun row hrow hc => absurd ⟨row, hrow, hc⟩ h, fun _ => rfl⟩

/-- R180, R201: the widths of the answer to any command row on a ready port. -/
theorem exec_answer_widths (s : State) (i : Instr) (p : Port) (tag command : Byte) (payload : List Byte)
    (hf : frameFields? i = some (p, tag, command, payload)) (hr : Ready s p) (hc : ∀ r, ClaimConsistent (s.claimOf r)) (hn : NotesFit s) :
    ∃ t r, exec i s = .next t ∧ (t.port p).queue = (s.port p).queue ++ [r]
      ∧ (r.status = .ok →
          (∀ row ∈ okWidths, command = row.1 → row.2.1 ≤ r.payload.length ∧ r.payload.length ≤ row.2.2)
            ∧ (command ∉ okWidths.map Prod.fst → r.payload = []))
      ∧ (r.status = .queued → r.payload.length = 2) ∧ (r.status = .heldBy → r.payload.length = 1)
      ∧ (r.status ∉ [.ok, .queued, .heldBy] → r.payload = []) := by
  have hsized : CommandSized command.toNat (taken s p payload.length) (frameCommand p command payload) := commandSized_frame p command payload hc hn
  obtain ⟨lo, hi, ⟨hrow, hnone⟩, hreply⟩ := sized_commonChecks p hsized (okWidth_exists _)
  refine ⟨_, _, exec_eq_onFrame hf s, onFrame_queue hr (lawfulCommand_frame p command payload), fun hok => ?_, hreply.queued, hreply.heldBy,
    hreply.other⟩
  obtain ⟨hlo, hhi⟩ := hreply.ok hok
  refine ⟨fun row hmem hcommand => ?_, fun hmem => ?_⟩
  · obtain ⟨h1, h2⟩ := hrow row hmem (congrArg BitVec.toNat hcommand)
    rw [h1, h2]
    exact ⟨hlo, hhi⟩
  · have h0 := hnone fun hm => by
      obtain ⟨row, hin, he⟩ := List.mem_map.mp hm
      exact hmem (List.mem_map.mpr ⟨row, hin, BitVec.eq_of_toNat_eq he⟩)
    exact List.eq_nil_of_length_eq_zero (Nat.le_zero.mp (h0 ▸ hhi))

end Sys2Proof.Machine
end

section
/-! SUPPORT. The code tables, read, and the frames and records of chapter 11 (O9). -/

set_option Elab.async false

namespace Sys2Proof.Machine

/-! ### Codes, read (R196) -/

/-- A table is read as it is written: every code is read, and what is read has that code. -/
theorem reads_iff {β α : Type} {num : β → Nat} (hinj : Function.Injective num) {read : β → Option α} {written : α → Nat}
    (hread : ∀ x, ∃ b, num b = written x ∧ read b = some x) (hwritten : ∀ b x, read b = some x → num b = written x) (b : β) (x : α) :
    read b = some x ↔ num b = written x := by
  refine ⟨hwritten b x, fun h => ?_⟩
  obtain ⟨c, hc, hx⟩ := hread x
  rw [hinj (h.trans hc.symm), hx]

theorem toNat_injective : Function.Injective (BitVec.toNat : Byte → Nat) := fun _ _ h => BitVec.eq_of_toNat_eq h

theorem levelOf?_iff : ∀ b x, levelOf? b = some x ↔ b.toNat = levelCode x :=
  reads_iff toNat_injective (fun x => ⟨BitVec.ofNat 8 (levelCode x), by cases x <;> exact ⟨rfl, rfl⟩⟩) fun b x h => by
    unfold levelOf? at h
    split_ifs at h with h0 h1 <;> cases h
    · exact congrArg BitVec.toNat h0
    · exact congrArg BitVec.toNat h1

theorem voteOf?_iff : ∀ b x, voteOf? b = some x ↔ b.toNat = voteCode x :=
  reads_iff toNat_injective (fun x => ⟨BitVec.ofNat 8 (voteCode x), by cases x <;> exact ⟨rfl, rfl⟩⟩) fun b x h => by
    unfold voteOf? at h
    split_ifs at h with h0 h1 h2 <;> cases h
    · exact congrArg BitVec.toNat h0
    · exact congrArg BitVec.toNat h1
    · exact congrArg BitVec.toNat h2

theorem actionOf?_iff : ∀ b x, actionOf? b = some x ↔ b.toNat = actionCode x :=
  reads_iff toNat_injective (fun x => ⟨BitVec.ofNat 8 (actionCode x), by cases x <;> exact ⟨rfl, rfl⟩⟩) fun b x h => by
    unfold actionOf? at h
    split_ifs at h with h0 h1 h2 h3 h4 <;> cases h
    · exact congrArg BitVec.toNat h0
    · exact congrArg BitVec.toNat h1
    · exact congrArg BitVec.toNat h2
    · exact congrArg BitVec.toNat h3
    · exact congrArg BitVec.toNat h4

theorem readerModeOf?_iff : ∀ b x, readerModeOf? b = some x ↔ b.toNat = readerModeCode x :=
  reads_iff toNat_injective (fun x => ⟨BitVec.ofNat 8 (readerModeCode x), by cases x <;> exact ⟨rfl, rfl⟩⟩) fun b x h => by
    unfold readerModeOf? at h
    split_ifs at h with h0 h1 <;> cases h
    · exact congrArg BitVec.toNat h0
    · exact congrArg BitVec.toNat h1

theorem resourceOf?_code : ∀ k : Fin 8, resourceOf? (BitVec.ofNat 8 (16 + k.val)) = some (.out k) := by decide

theorem resourceOf?_iff : ∀ b x, resourceOf? b = some x ↔ b.toNat = resourceCode x := by
  refine reads_iff toNat_injective (fun x => ⟨BitVec.ofNat 8 (resourceCode x), ?_⟩) fun b x h => ?_
  · cases x with
    | out k => exact ⟨Nat.mod_eq_of_lt (show 16 + k.val < 2 ^ 8 by omega), resourceOf?_code k⟩
    | _ => exact ⟨rfl, rfl⟩
  · unfold resourceOf? at h
    split_ifs at h with h0 h1 h2
    · cases h
      exact congrArg BitVec.toNat h0
    · cases h
      exact congrArg BitVec.toNat h1
    · unfold finOf? at h
      split_ifs at h with hlt
      swap
      · cases h
      cases h
      show b.toNat = 16 + (b.toNat - 16)
      omega

theorem edgeSelectOf?_iff : ∀ v x, edgeSelectOf? v = some x ↔ v = edgeSelectCode x :=
  reads_iff Function.injective_id (fun x => ⟨edgeSelectCode x, by cases x <;> exact ⟨rfl, rfl⟩⟩) fun v x h => by
    unfold edgeSelectOf? at h
    split_ifs at h <;> cases h <;> assumption

theorem conditionOf?_iff : ∀ v x, conditionOf? v = some x ↔ v = conditionCode x :=
  reads_iff Function.injective_id (fun x => ⟨conditionCode x, by cases x <;> exact ⟨rfl, rfl⟩⟩) fun v x h => by
    unfold conditionOf? at h
    split_ifs at h <;> cases h <;> assumption

theorem conditionActionOf?_iff : ∀ v x, conditionActionOf? v = some x ↔ v = conditionActionCode x :=
  reads_iff Function.injective_id (fun x => ⟨conditionActionCode x, by cases x <;> exact ⟨rfl, rfl⟩⟩) fun v x h => by
    unfold conditionActionOf? at h
    split_ifs at h <;> cases h <;> assumption

/-- Two values read from two codes. -/
theorem reads_two {α : Type} {b x y : Byte} {u v : α} (huv : u ≠ v) (hxy : x ≠ y) :
    ((if b = x then some u else if b = y then some v else none) = some u ↔ b = x)
      ∧ ((if b = x then some u else if b = y then some v else none) = some v ↔ b = y) := by
  split_ifs with h1 h2
  · exact ⟨iff_of_true rfl h1, iff_of_false (fun h => huv (Option.some.inj h)) fun h => hxy (h1.symm.trans h)⟩
  · exact ⟨iff_of_false (fun h => huv (Option.some.inj h).symm) h1, iff_of_true rfl h2⟩
  · exact ⟨iff_of_false nofun h1, iff_of_false nofun h2⟩

theorem flagOf?_iff (b : Byte) : (flagOf? b = some false ↔ b = 0#8) ∧ (flagOf? b = some true ↔ b = 1#8) :=
  reads_two (by decide) (by decide)

theorem latePolicyOf?_iff (b : Byte) : (latePolicyOf? b = some .fireLate ↔ b = 0#8) ∧ (latePolicyOf? b = some .skip ↔ b = 1#8) :=
  reads_two (by decide) (by decide)

theorem triggerEdgeOf?_iff (b : Byte) :
    (triggerEdgeOf? b = some .rise ↔ b = 0#8) ∧ (triggerEdgeOf? b = some .fall ↔ b = 1#8) ∧ (triggerEdgeOf? b = some .either ↔ b = 2#8) := by
  unfold triggerEdgeOf?
  split_ifs with h0 h1 h2
  · subst h0
    decide
  · subst h1
    decide
  · subst h2
    decide
  · exact ⟨iff_of_false nofun h0, iff_of_false nofun h1, iff_of_false nofun h2⟩

/-! ### Frames (R195) -/

theorem crc_nineDigits : crc [0x31#8, 0x32#8, 0x33#8, 0x34#8, 0x35#8, 0x36#8, 0x37#8, 0x38#8, 0x39#8] = 0x29B1#16 := by
  have h1 : crcByte 0xFFFF#16 0x31#8 = 0xC782#16 := by decide
  have h2 : crcByte 0xC782#16 0x32#8 = 0x3DBA#16 := by decide
  have h3 : crcByte 0x3DBA#16 0x33#8 = 0x5BCE#16 := by decide
  have h4 : crcByte 0x5BCE#16 0x34#8 = 0x5349#16 := by decide
  have h5 : crcByte 0x5349#16 0x35#8 = 0x4560#16 := by decide
  have h6 : crcByte 0x4560#16 0x36#8 = 0x2EF4#16 := by decide
  have h7 : crcByte 0x2EF4#16 0x37#8 = 0x7718#16 := by decide
  have h8 : crcByte 0x7718#16 0x38#8 = 0xA12B#16 := by decide
  have h9 : crcByte 0xA12B#16 0x39#8 = 0x29B1#16 := by decide
  unfold crc
  simp only [List.foldl_cons, List.foldl_nil, h1, h2, h3, h4, h5, h6, h7, h8, h9]

theorem commandFrame_layout (tag command : Byte) (payload : List Byte) :
    commandFrame tag command payload
      = 0xA5#8 :: ((be 2 payload.length ++ [tag, command] ++ payload)
          ++ be 2 (crc (be 2 payload.length ++ [tag, command] ++ payload)).toNat) := rfl

theorem responseFrame_layout (flags : Byte) (r : Response) :
    responseFrame flags r
      = 0x5A#8 :: ((be 2 r.payload.length ++ [r.tag, BitVec.ofNat 8 (statusCode r.status), flags] ++ r.payload)
          ++ be 2 (crc (be 2 r.payload.length ++ [r.tag, BitVec.ofNat 8 (statusCode r.status), flags] ++ r.payload)).toNat) := rfl

/-! ### Records (R197) -/

theorem fields_length (l : List (Nat × Nat)) : (fields l).length = (l.map Prod.fst).sum := by
  induction l with
  | nil => rfl
  | cons x l ih => rw [fields_cons, List.length_append, be_length, ih, List.map_cons, List.sum_cons]

/-- A record whose body is these fields: its header, with the kind and the width of the body, and the body. -/
theorem recordBytes_fields {b : Body} {l : List (Nat × Nat)} (h : bodyBytes b = fields l) {r : Record} (hr : r.body = b) :
    recordBytes r
      = fields ([(8, r.seq), (8, r.time), (1, kindCode b.kind), (1, originCode r.origin), (1, qualityCode r.quality), (1, (l.map Prod.fst).sum)]
          ++ l) := by
  unfold recordBytes
  rw [hr, h, fields_length]
  simp only [code_eq_be, fields_append, fields_cons, fields_nil, List.append_assoc, List.append_nil]

theorem recordBytes_note {r : Record} {bs : List Byte} (hr : r.body = .note bs) :
    recordBytes r
      = fields [(8, r.seq), (8, r.time), (1, 12), (1, originCode r.origin), (1, qualityCode r.quality), (1, bs.length)] ++ bs := by
  unfold recordBytes
  rw [hr]
  simp only [code_eq_be, fields_cons, fields_nil, List.append_assoc, List.append_nil]
  rfl

/-- The line of a record as a field (R197). -/
theorem lineByte_field {n : Nat} (l : Option (Fin n)) : [lineByte l] = be 1 ((l.map fun k => k.val).getD 0xFF) := by
  cases l <;> simp [lineByte, absentByte, be_one]

end Sys2Proof.Machine
end

section
/-! SUPPORT. The fields of every command and of every record, and the theorem of O9. -/

set_option Elab.async false

namespace Sys2Proof.Machine

/-! ### The bodies of records, field by field (R197) -/

theorem restart_fields (k : ResetKind) : bodyBytes (.restart k) = fields [(1, if k = .powerOn then 0 else 1)] := by cases k <;> rfl

theorem sessionClosed_fields (c : CloseCause) : bodyBytes (.sessionClosed c) = fields [(1, 1), (1, if c = .command then 0 else 1)] := by
  cases c <;> rfl

theorem input_fields (n : Fin 16) (v : Level) (e : Edge) :
    bodyBytes (.input n v e) = fields [(1, n.val), (1, if v = .high then 1 else 0), (1, if e = .rise then 0 else 1)] := by
  cases v <;> cases e <;> simp [bodyBytes, code_eq_be, levelCode, edgeCode]

theorem chatter_fields (n : Fin 16) (count : Nat) (v : Level) :
    bodyBytes (.chatter n count v) = fields [(1, n.val), (2, count), (1, if v = .high then 1 else 0)] := by
  cases v <;> simp [bodyBytes, code_eq_be, levelCode]

/-- The four fields every ENTRY record begins with (R197). -/
def entryRecordFields (h : Handle) (a : Action) (line : Option (Fin 8)) : List (Nat × Nat) :=
  [(1, h.slot.val), (1, h.generation.toNat), (1, actionCode a), (1, (line.map fun k => k.val).getD 0xFF)]

theorem entry_fields (h : Handle) (a : Action) (line : Option (Fin 8)) :
    handleBytes h ++ code (actionCode a) ++ [lineByte line] = fields (entryRecordFields h a line) := by
  unfold entryRecordFields handleBytes
  rw [fields_cons, fields_cons, fields_cons, fields_cons, fields_nil, be_one_toNat, ← lineByte_field, be_one, be_one]
  rfl

theorem entryFired_fields (h : Handle) (a : Action) (line : Option (Fin 8)) (late : Option Nat) :
    bodyBytes (.entryFired h a line late) = fields (entryRecordFields h a line ++ (1, 0) :: optionalFields 8 late fun n => [(8, n)]) := by
  rw [fields_append, ← entry_fields, fields_cons, ← optField_fields 8 late (f := be 8) fun y => by simp]
  simp only [bodyBytes, code_eq_be, List.append_assoc]

theorem entrySkipped_fields (h : Handle) (a : Action) (line : Option (Fin 8)) :
    bodyBytes (.entrySkipped h a line) = fields (entryRecordFields h a line ++ [(1, 1)]) := by
  rw [fields_append, ← entry_fields]
  rfl

theorem entryCompleted_fields (h : Handle) (a : Action) (line : Option (Fin 8)) :
    bodyBytes (.entryCompleted h a line) = fields (entryRecordFields h a line ++ [(1, 2)]) := by
  rw [fields_append, ← entry_fields]
  rfl

theorem entryCancelled_fields (h : Handle) (a : Action) (line : Option (Fin 8)) (c : CancelCause) :
    bodyBytes (.entryCancelled h a line c) = fields (entryRecordFields h a line ++ [(1, 3), (1, cancelCauseCode c)]) := by
  rw [fields_append, ← entry_fields]
  simp only [bodyBytes, code_eq_be, fields_cons, fields_nil, List.append_assoc, List.append_nil]

theorem permitVote_fields (o n : PermitState) (m : Port) (v : Vote) :
    bodyBytes (.permit o n (.vote m v)) = fields [(1, permitStateCode o), (1, permitStateCode n), (1, 0), (1, portCode m), (1, voteCode v)] := by
  simp [bodyBytes, permitCauseBytes, code_eq_be]

theorem permitPart_fields (o n : PermitState) {c : PermitCause} {k : Nat} (h : permitCauseBytes c = code k ++ [absentByte, absentByte]) :
    bodyBytes (.permit o n c) = fields [(1, permitStateCode o), (1, permitStateCode n), (1, k), (1, 0xFF), (1, 0xFF)] := by
  simp [bodyBytes, h, code_eq_be, be_one, absentByte]

theorem stepApplied_fields (n : Nat) : bodyBytes (.time (.stepApplied n)) = fields [(1, 1), (8, n)] := by
  simp only [bodyBytes, timeBodyBytes, code_eq_be, fields_cons, fields_nil, List.append_nil]

theorem stepReplaced_fields (x : Int) (m : Bool) :
    bodyBytes (.time (.stepReplaced x m)) = fields [(1, 2), signedField 8 x, (1, if m then 1 else 0)] := by
  simp only [bodyBytes, timeBodyBytes, code_eq_be, fields_cons, beInt_field, fields_nil, List.append_nil, List.append_assoc, be_one, ofNat_flag]

theorem stepRefused_fields (x : Int) : bodyBytes (.time (.stepRefused x)) = fields [(1, 3), signedField 8 x] := by
  simp only [bodyBytes, timeBodyBytes, code_eq_be, fields_cons, beInt_field, fields_nil, List.append_nil]

theorem slewStarted_fields (x : Int) (rate : Nat) :
    bodyBytes (.time (.slewStarted x rate)) = fields [(1, 4), signedField 4 x, (2, rate)] := by
  simp only [bodyBytes, timeBodyBytes, code_eq_be, fields_cons, beInt_field, fields_nil, List.append_nil, List.append_assoc]

theorem slewDone_fields (x : Int) : bodyBytes (.time (.slewDone x)) = fields [(1, 5), signedField 4 x] := by
  simp only [bodyBytes, timeBodyBytes, code_eq_be, fields_cons, beInt_field, fields_nil, List.append_nil]

theorem slewAbandoned_fields (x : Int) : bodyBytes (.time (.slewAbandoned x)) = fields [(1, 6), signedField 4 x] := by
  simp only [bodyBytes, timeBodyBytes, code_eq_be, fields_cons, beInt_field, fields_nil, List.append_nil]

theorem trimSet_fields (x y : Int) : bodyBytes (.time (.trimSet x y)) = fields [(1, 7), signedField 4 x, signedField 4 y] := by
  simp only [bodyBytes, timeBodyBytes, code_eq_be, fields_cons, beInt_field, fields_nil, List.append_nil, List.append_assoc]

theorem claimGranted_fields (r : Resource) (c : ClaimCause) :
    bodyBytes (.claimGranted r c) = fields [(1, resourceCode r), (1, 0), (1, claimCauseCode c)] := by
  simp only [bodyBytes, code_eq_be, fields_cons, fields_nil, List.append_nil, List.append_assoc]

theorem claimReleased_fields (r : Resource) (c : ClaimCause) :
    bodyBytes (.claimReleased r c) = fields [(1, resourceCode r), (1, 1), (1, claimCauseCode c)] := by
  simp only [bodyBytes, code_eq_be, fields_cons, fields_nil, List.append_nil, List.append_assoc]

theorem config_fields (id : BitVec 16) (old new : Nat) : bodyBytes (.config id old new) = fields [(2, id.toNat), (4, old), (4, new)] := by
  simp only [bodyBytes, fields_cons, fields_nil, List.append_nil, List.append_assoc]

theorem gap_fields (n : Nat) : bodyBytes (.gap n) = fields [(4, n)] := by
  simp only [bodyBytes, fields_cons, fields_nil, List.append_nil]

/-- The records of a body are its header and these fields (R197). -/
def Laid (b : Body) (kind : Nat) (l : List (Nat × Nat)) : Prop :=
  ∀ r : Record, r.body = b →
    recordBytes r
      = fields ([(8, r.seq), (8, r.time), (1, kind), (1, originCode r.origin), (1, qualityCode r.quality), (1, (l.map Prod.fst).sum)] ++ l)

theorem laid_of_fields {b : Body} {l : List (Nat × Nat)} (h : bodyBytes b = fields l) : Laid b (kindCode b.kind) l :=
  fun _ hr => recordBytes_fields h hr

/-! ### The fields of every command (R196, R199, R200) -/

theorem descriptor_fields (e : Descriptor) :
    descriptorBytes e = fields
      [(1, e.action.toNat), (1, e.line.toNat), (1, e.pulseLevel.toNat), (3, e.width.toNat), (1, e.timing.toNat), (8, e.timeValue.toNat),
       (1, e.trigLine.toNat), (1, e.trigEdge.toNat), (1, e.rearm.toNat), (4, e.period.toNat), (2, e.count.toNat), (1, e.latePolicy.toNat),
       (1, e.flags.toNat)] := by
  simp only [descriptorBytes, be_one_toNat, fields_cons, fields_nil, List.append_nil, List.append_assoc, List.cons_append, List.nil_append]

/-- A command row is sent with this code and these fields. -/
def Carries (p : Port) (t : Byte) (i : Instr) (command : Byte) (l : List (Nat × Nat)) : Prop := frameFields? i = some (p, t, command, fields l)

theorem carries_of_payload {p : Port} {t command : Byte} {i : Instr} {payload : List Byte} {l : List (Nat × Nat)}
    (h : frameFields? i = some (p, t, command, payload)) (hl : payload = fields l) : Carries p t i command l :=
  h.trans (by rw [hl])

section
variable (p : Port) (t a b c : Byte) (u v w : BitVec 16) (x : BitVec 32) (z : BitVec 64) (width : BitVec 24)

theorem byte_fields : [a] = fields [(1, a.toNat)] := by simp only [fields_cons, fields_nil, be_one_toNat, List.append_nil]

theorem bytes_fields : [a, b] = fields [(1, a.toNat), (1, b.toNat)] := by
  simp only [fields_cons, fields_nil, be_one_toNat, List.append_nil, List.cons_append, List.nil_append]

theorem carries_open :
    Carries p t (.openSession p t a v w b c u) 0x02#8
      [(1, a.toNat), (2, v.toNat), (2, w.toNat), (1, b.toNat), (1, c.toNat), (2, u.toNat)] :=
  carries_of_payload rfl (by simp only [fields_cons, fields_nil, be_one_toNat, List.append_nil, List.append_assoc, List.cons_append, List.nil_append])

theorem carries_stepTime : Carries p t (.stepTime p t z a) 0x11#8 [(8, z.toNat), (1, a.toNat)] :=
  carries_of_payload rfl (by simp only [fields_cons, fields_nil, be_one_toNat, List.append_nil])

theorem carries_slewTime : Carries p t (.slewTime p t x v) 0x12#8 [(4, x.toNat), (2, v.toNat)] :=
  carries_of_payload rfl (by simp only [fields_cons, fields_nil, List.append_nil])

theorem carries_seekJournal : Carries p t (.seekJournal p t a z) 0x24#8 [(1, a.toNat), (8, z.toNat)] :=
  carries_of_payload rfl (by simp only [fields_cons, fields_nil, be_one_toNat, List.append_nil, List.cons_append, List.nil_append])

theorem carries_setFilter : Carries p t (.setFilter p t v w a) 0x25#8 [(2, v.toNat), (2, w.toNat), (1, a.toNat)] :=
  carries_of_payload rfl (by simp only [fields_cons, fields_nil, be_one_toNat, List.append_nil, List.append_assoc])

theorem carries_setLine : Carries p t (.setLine p t a b c width) 0x38#8 [(1, a.toNat), (1, b.toNat), (1, c.toNat), (3, width.toNat)] :=
  carries_of_payload rfl (by simp only [fields_cons, fields_nil, be_one_toNat, List.append_nil, List.cons_append, List.nil_append])

theorem configure_fields (g : Nat) :
    [BitVec.ofNat 8 g, a] ++ be 4 x.toNat = fields [(1, g), (1, a.toNat), (4, x.toNat)] := by
  simp only [fields_cons, fields_nil, be_one, BitVec.ofNat_toNat, BitVec.setWidth_eq, List.append_nil, List.cons_append, List.nil_append]

theorem number_fields {n m : Nat} (y : BitVec n) : be m y.toNat = fields [(m, y.toNat)] := (List.append_nil _).symm

end

end Sys2Proof.Machine
end

section
/-! SUPPORT. The theorem of O9: frames, codes, fields, records and widths of chapter 11. -/

set_option Elab.async false

namespace Sys2Proof.Machine

/-- Settles O9: each layout by its lemma, and the widths of answers by the widths of every act. -/
theorem widths : Obligations.Widths := by
  unfold Obligations.Widths
  refine ⟨commandFrame_length, responseFrame_length, crc_nineDigits, exec_answer_widths,
    fun r h => ⟨recordBytes_length r, bodyBytes_length r.body h⟩, commandFrame_layout, responseFrame_layout, by decide, fun b => ?_, fun v => ?_,
    ?_, ?_⟩
  · obtain ⟨hrise, hfall, heither⟩ := triggerEdgeOf?_iff b
    obtain ⟨hfire, hskip⟩ := latePolicyOf?_iff b
    obtain ⟨hclear, hset⟩ := flagOf?_iff b
    exact ⟨levelOf?_iff b, voteOf?_iff b, actionOf?_iff b, readerModeOf?_iff b, resourceOf?_iff b, hrise, hfall, heither, hfire, hskip, hclear, hset⟩
  · exact ⟨edgeSelectOf?_iff v, conditionOf?_iff v, conditionActionOf?_iff v⟩
  · intro p t a b c u v w x z width e carries sets
    exact ⟨rfl, carries_open p t a b c u v w, rfl, rfl, rfl, rfl, carries_of_payload rfl (byte_fields a), rfl, carries_stepTime p t a z,
      carries_slewTime p t v x, carries_of_payload rfl (number_fields x), rfl, rfl, fun _ => rfl, rfl, carries_of_payload rfl (bytes_fields a b),
      carries_of_payload rfl (number_fields z), carries_seekJournal p t a z, carries_setFilter p t a v w, carries_of_payload rfl (byte_fields a),
      rfl, carries_of_payload rfl (descriptor_fields e), carries_of_payload rfl (bytes_fields a b), carries_of_payload rfl (bytes_fields a b),
      carries_of_payload rfl (bytes_fields a b), carries_setLine p t a b c width, rfl, carries_of_payload rfl (bytes_fields a b),
      carries_of_payload rfl (byte_fields a), carries_of_payload rfl (byte_fields a), rfl, carries_of_payload rfl (configure_fields a x 1),
      carries_of_payload rfl (configure_fields a x 2), carries_of_payload rfl (configure_fields a x 3), carries_of_payload rfl (configure_fields a x 4),
      carries_of_payload rfl (configure_fields a x 5), carries_of_payload rfl (configure_fields a x 6), carries_of_payload rfl (configure_fields a x 7),
      carries_of_payload rfl (configure_fields a x 8), carries_of_payload rfl (configure_fields a x 9), carries_of_payload rfl (configure_fields a x 10),
      carries_of_payload rfl (configure_fields a x 11), carries_of_payload rfl (configure_fields a x 12), carries_of_payload rfl (number_fields v), rfl,
      carries_of_payload rfl (byte_fields a), rfl, carries_of_payload rfl (byte_fields a), rfl, carries_of_payload rfl (byte_fields a), rfl⟩
  · intro header laid signed
    refine ⟨fun k => laid_of_fields (restart_fields k), laid_of_fields rfl, fun c => laid_of_fields (sessionClosed_fields c),
      fun n v e => laid_of_fields (input_fields n v e), fun n count v => laid_of_fields (chatter_fields n count v), ?_, ?_, laid_of_fields rfl,
      laid_of_fields rfl, fun n => laid_of_fields (stepApplied_fields n), fun x m => laid_of_fields (stepReplaced_fields x m),
      fun x => laid_of_fields (stepRefused_fields x), fun x rate => laid_of_fields (slewStarted_fields x rate),
      fun x => laid_of_fields (slewDone_fields x), fun x => laid_of_fields (slewAbandoned_fields x), fun x y => laid_of_fields (trimSet_fields x y),
      laid_of_fields rfl, laid_of_fields rfl, laid_of_fields rfl, ?_,
      fun c => ⟨laid_of_fields (by simp [bodyBytes, code_eq_be]), laid_of_fields (by simp [bodyBytes, code_eq_be])⟩,
      fun id old new => laid_of_fields (config_fields id old new), fun r bs h => recordBytes_note h, fun n => laid_of_fields (gap_fields n)⟩
    · intro h a line entry
      refine ⟨fun late => laid_of_fields (entryFired_fields h a line late), laid_of_fields (entrySkipped_fields h a line),
        laid_of_fields (entryCompleted_fields h a line), fun c => ?_⟩
      cases c <;> exact laid_of_fields (entryCancelled_fields h a line _)
    · intro o n states
      exact ⟨fun m v => laid_of_fields (permitVote_fields o n m v), laid_of_fields (permitPart_fields o n rfl),
        laid_of_fields (permitPart_fields o n rfl), laid_of_fields (permitPart_fields o n rfl)⟩
    · intro r c
      cases c <;> exact ⟨laid_of_fields (claimGranted_fields r _), laid_of_fields (claimReleased_fields r _)⟩

end Sys2Proof.Machine
end
